-- ==== Sys2Proof/Word.lean ====
section
/-! DEFINITION. The word types of the manual (R2: a byte is 8 bits, a half 16, a word 32, a double word 64) and the bit-field readers that every other file uses. -/

namespace Sys2Proof

/-- A byte (R2). -/
abbrev Byte := BitVec 8

/-- A word (R2): the width of every lane register. -/
abbrev Word := BitVec 32

/-- A double word (R2): addresses, register pairs, control registers of 64 bits. -/
abbrev DWord := BitVec 64

/-- A register field of an instruction word (R47). -/
abbrev Reg := BitVec 7

/-- A set of lanes of one warp, bit `l` for lane `l` (R58). -/
abbrev Mask := BitVec 32

/-- Bits `[hi:lo]` of a natural number, as the manual's `x[hi:lo]`. -/
def bits (x hi lo : Nat) : Nat := (x / 2 ^ lo) % 2 ^ (hi + 1 - lo)

/-- Bit `i` of a natural number. -/
def bit (x i : Nat) : Bool := (x / 2 ^ i) % 2 = 1

/-- The double word that a pair of registers holds: bits [31:0] in the first (R48). -/
def pairOf (lo hi : Word) : DWord := hi ++ lo

/-- The low word of a double word. -/
def loWord (x : DWord) : Word := x.setWidth 32

/-- The high word of a double word. -/
def hiWord (x : DWord) : Word := (x >>> 32).setWidth 32

end Sys2Proof
end

