-- ==== Sys2Proof/Machine/Flags.lean ====
section
/-! DEFINITION. The arithmetic flags (Table 2-8), how they gather, and the status word that holds them (Table 24-7). Which operation raises which flag is said where the operation is: rounding and conversion in Formats, the functions in Functions, the accumulator in Press. -/

namespace Sys2Proof.Machine

/-- Bits of `ctl.status[7:0]` (Table 2-8). -/
abbrev Flags := BitVec 8

namespace Flags

/-- No flag. -/
def none : Flags := 0
/-- [0] INVALID -/
def invalid : Flags := 1
/-- [1] OVERFLOW -/
def overflow : Flags := 2
/-- [2] UNDERFLOW -/
def underflow : Flags := 4
/-- [3] INEXACT -/
def inexact : Flags := 8
/-- [4] SCALE_LOW -/
def scaleLow : Flags := 16
/-- [5] ACC_SAT -/
def accSat : Flags := 32
/-- [6] SKIPPED_SPECIAL -/
def skipped : Flags := 64
/-- [7] DIV_ZERO -/
def divZero : Flags := 128

end Flags

/-- A flag when a condition holds. -/
def flagIf (b : Bool) (f : Flags) : Flags := if b then f else 0

/-- Flags of several lanes or elements gather by OR (R30). -/
def gatherFlags (l : List Flags) : Flags := l.foldl (fun a b => a ||| b) 0

/-- `ctl.status` as RDCTL reads it (Table 24-7): flags, INHANDLER, help depth. -/
def statusWord (flags : Flags) (inHandler : Bool) (depth : Nat) : Word :=
  flags.setWidth 32 ||| (if inHandler then 0x100 else 0) ||| BitVec.ofNat 32 (depth % 16 * 2 ^ 16)

/-- The flags that WRCTL takes from a value for `ctl.status` (R396). -/
def statusFlags (v : Word) : Flags := v.setWidth 8

end Sys2Proof.Machine
end

