-- ==== Sys2Proof/Machine/Formats.lean ====
section
/-! DEFINITION. Number formats and arithmetic (R15 to R33, R38): exact values, decoding of every element format, `roundTo`, conversion to integers, exact sums and products, block scales, the stochastic streams and the pairwise tree. Pure: nothing here reads the machine. -/

namespace Sys2Proof.Machine

/-- An exact value: NaN, an infinity, or (-1)^neg · m · 2^e. An irrational result is held with enough bits and an odd last bit below every rounding position. -/
inductive FVal where
  | nan
  | inf (neg : Bool)
  | fin (neg : Bool) (m : Nat) (e : Int)
  deriving DecidableEq, Repr

/-- Zero of a sign. -/
def FVal.zero (neg : Bool) : FVal := .fin neg 0 0

/-- The value is NaN. -/
def FVal.isNan : FVal → Bool
  | .nan => true
  | _ => false

/-- The value is an infinity. -/
def FVal.isInf : FVal → Bool
  | .inf _ => true
  | _ => false

/-- The value is a zero of either sign. -/
def FVal.isZero : FVal → Bool
  | .fin _ m _ => decide (m = 0)
  | _ => false

/-- The sign; NaN counts as positive. -/
def FVal.sign : FVal → Bool
  | .nan => false
  | .inf n => n
  | .fin n _ _ => n

/-- The value with its sign flipped. -/
def FVal.neg : FVal → FVal
  | .nan => .nan
  | .inf n => .inf (!n)
  | .fin n m e => .fin (!n) m e

/-- The value times 2^k, exactly. -/
def FVal.scale (k : Int) : FVal → FVal
  | .nan => .nan
  | .inf n => .inf n
  | .fin n m e => .fin n m (e + k)

/-- Number of bits of a natural number: 0 for 0. -/
def bitLength (n : Nat) : Nat := if n = 0 then 0 else Nat.log2 n + 1

/-- A float format (Tables 2-2, R17 to R19): significand bits with the leading one, exponent bits, bias, and for the binary8 family whether it is signed and whether it has infinities. -/
structure FloatFmt where
  sig : Nat
  expBits : Nat
  bias : Nat
  narrow : Bool
  signed : Bool
  fin : Bool
  deriving DecidableEq, Repr

/-- What a format code names (Table 2-1). -/
inductive ElemFmt where
  | flt (f : FloatFmt)
  | int (signed : Bool) (width : Nat)
  | sc8
  deriving DecidableEq, Repr

/-- FP32 (Table 2-2). -/
def f32 : FloatFmt := { sig := 24, expBits := 8, bias := 127, narrow := false, signed := true, fin := false }
/-- FP16 (Table 2-2). -/
def f16 : FloatFmt := { sig := 11, expBits := 5, bias := 15, narrow := false, signed := true, fin := false }
/-- BF16 (Table 2-2). -/
def bf16 : FloatFmt := { sig := 8, expBits := 8, bias := 127, narrow := false, signed := true, fin := false }
/-- FP64 (Table 2-2). -/
def f64 : FloatFmt := { sig := 53, expBits := 11, bias := 1023, narrow := false, signed := true, fin := false }

/-- b8pP (R17, R18). -/
def b8 (p : Nat) (fin : Bool) : FloatFmt :=
  { sig := p, expBits := 8 - p, bias := 2 ^ (7 - p), narrow := true, signed := true, fin := fin }

/-- u8pP (R19). -/
def u8 (p : Nat) (fin : Bool) : FloatFmt :=
  { sig := p, expBits := 9 - p, bias := 2 ^ (8 - p), narrow := true, signed := false, fin := fin }

/-- The format a code names; none for raw and for reserved codes (Table 2-1). -/
def elemFmt (code : Nat) : Option ElemFmt :=
  if code = 1 then some (.flt f32)
  else if code = 2 then some (.flt f16)
  else if code = 3 then some (.flt bf16)
  else if code = 4 then some (.flt f64)
  else if 8 ≤ code ∧ code ≤ 15 then
    some (.int (decide (code % 2 = 0)) (if code < 10 then 32 else if code < 12 then 16 else if code < 14 then 8 else 4))
  else if 16 < code ∧ code < 24 then some (.flt (b8 (code - 16) false))
  else if 24 < code ∧ code < 32 then some (.flt (b8 (code - 24) true))
  else if 32 < code ∧ code < 40 then some (.flt (u8 (code - 32) false))
  else if 40 < code ∧ code < 48 then some (.flt (u8 (code - 40) true))
  else if code = 0x30 then some .sc8
  else none

/-- The code is 0x00 or one that Table 2-1 assigns. Log 19. -/
def fmtAssigned (code : Nat) : Bool := decide (code = 0) || (elemFmt code).isSome

/-- Bits of a float format's element. -/
def FloatFmt.width (f : FloatFmt) : Nat := f.sig - 1 + f.expBits + (if f.signed then 1 else 0)

/-- Bits of an element. -/
def ElemFmt.width : ElemFmt → Nat
  | .flt f => f.width
  | .int _ w => w
  | .sc8 => 8

/-- Exponent of the last bit of the subnormal grid: the smallest magnitude is 2^quantum (Tables 2-2 to 2-4). -/
def FloatFmt.quantum (f : FloatFmt) : Int := 1 - (f.bias : Int) - ((f.sig : Int) - 1)

/-- Largest finite magnitude code (Table 2-2, R18, R19). -/
def FloatFmt.maxCode (f : FloatFmt) : Nat :=
  if f.narrow then
    if f.signed then (if f.fin then 0x7F else 0x7E) else (if f.fin then 0xFE else 0xFD)
  else (2 ^ f.expBits - 1) * 2 ^ (f.sig - 1) - 1

/-- The sign bit's weight. -/
def FloatFmt.signBit (f : FloatFmt) (neg : Bool) : Nat := if neg && f.signed then 2 ^ (f.width - 1) else 0

/-- Canonical NaN (R16, R17, R19). -/
def FloatFmt.nanCode (f : FloatFmt) : Nat :=
  if f.narrow then (if f.signed then 0x80 else 0xFF)
  else (2 ^ f.expBits - 1) * 2 ^ (f.sig - 1) + 2 ^ (f.sig - 2)

/-- Infinity of a sign; the NaN code in a `.fin` variant (R18, R26). -/
def FloatFmt.infCode (f : FloatFmt) (neg : Bool) : Nat :=
  if f.fin then f.nanCode else f.maxCode + 1 + f.signBit neg

/-- Zero of a sign; the binary8 family has one zero (R17). -/
def FloatFmt.zeroCode (f : FloatFmt) (neg : Bool) : Nat := if f.narrow then 0 else f.signBit neg

/-- The value of a magnitude code. -/
def FloatFmt.magVal (f : FloatFmt) (neg : Bool) (code : Nat) : FVal :=
  let h := 2 ^ (f.sig - 1)
  let e := code / h
  if e = 0 then .fin neg code f.quantum else .fin neg (h + code % h) (f.quantum + (e : Int) - 1)

/-- Decode an element of a float format (R16 to R19). -/
def FloatFmt.decode (f : FloatFmt) (raw : Nat) : FVal :=
  let x := raw % 2 ^ f.width
  if f.narrow then
    if x = f.nanCode then .nan
    else
      let neg := f.signed && decide (0x80 ≤ x)
      let mag := if f.signed then x % 0x80 else x
      if mag = 0 then .zero false
      else if mag = f.maxCode + 1 then .inf neg
      else f.magVal neg mag
  else
    let s := 2 ^ (f.width - 1)
    let neg := decide (s ≤ x)
    let mag := x % s
    if f.maxCode + 1 < mag then .nan
    else if mag = f.maxCode + 1 then .inf neg
    else f.magVal neg mag

/-- Sign-extend the low `w` bits. -/
def signedOf (w x : Nat) : Int :=
  let y := x % 2 ^ w
  if 2 ^ (w - 1) ≤ y then (y : Int) - 2 ^ w else y

/-- An integer as an exact value. -/
def FVal.ofInt (n : Int) : FVal := .fin (decide (n < 0)) n.natAbs 0

/-- Decode an element (R17 to R23); the binary8 zero decodes to +0 (R129). -/
def ElemFmt.decode (f : ElemFmt) (raw : Nat) : FVal :=
  match f with
  | .flt g => g.decode raw
  | .int true w => .ofInt (signedOf w raw)
  | .int false w => .ofInt ((raw % 2 ^ w : Nat) : Int)
  | .sc8 => let c := raw % 256; if c = 255 then .nan else .fin false 1 ((c : Int) - 127)

/-- Decode by format code; a code that names nothing gives NaN and is never asked for. -/
def decodeCode (code raw : Nat) : FVal :=
  match elemFmt code with
  | some f => f.decode raw
  | none => .nan

/-- One step of an xorshift32 stream (R27). -/
def xorshift (s : Word) : Word :=
  let a := s ^^^ (s <<< 13)
  let b := a ^^^ (a >>> 17)
  b ^^^ (b <<< 5)

/-- The state that a seed gives lane `i` (R27). -/
def laneSeed (seed : Word) (i : Nat) : Word :=
  let x := seed ^^^ (BitVec.ofNat 32 ((i + 1) * 0x9E3779B9))
  if x = 0 then 1 else x

/-- A rounded result: the code, the flags it sets, and the stream after it. -/
structure Rounded where
  code : Nat
  flags : Flags
  stream : Word
  deriving DecidableEq, Repr

/-- Does a remainder round the magnitude up (R25)? `half` compares the discarded part with half a step: 0 exact, 1 below, 2 tie, 3 above. -/
def roundUp (mode : Nat) (neg odd : Bool) (half : Nat) : Bool :=
  if half = 0 then false
  else if mode = 1 then false
  else if mode = 2 then !neg
  else if mode = 3 then neg
  else decide (half = 3) || (decide (half = 2) && odd)

/-- Divide m · 2^e by 2^t: the whole part, and how the rest compares with half (as in `roundUp`). -/
def splitAt (m : Nat) (e t : Int) : Nat × Nat :=
  if t ≤ e then (m * 2 ^ (e - t).toNat, 0)
  else
    let sh := (t - e).toNat
    if bitLength m + 1 < sh then (0, if m = 0 then 0 else 1)
    else
      let k := m / 2 ^ sh
      let r := m % 2 ^ sh
      let h := 2 ^ (sh - 1)
      (k, if r = 0 then 0 else if r < h then 1 else if r = h then 2 else 3)

/-- Overflow result (Table 2-6). -/
def FloatFmt.overflowCode (f : FloatFmt) (mode : Nat) (neg : Bool) : Nat :=
  let largest := f.maxCode + f.signBit neg
  if mode = 0 then f.infCode neg
  else if mode = 2 then (if neg then largest else f.infCode neg)
  else if mode = 3 then (if neg then f.infCode neg else largest)
  else largest

/-- Round a finite nonzero magnitude to the grid and encode it: RoundGrid, Overflow and Encode of R26. DEDUCED (log 18): a finite value that overflows to the NaN code of a `.fin` format raises OVERFLOW and INEXACT, as Table 2-7's row says, and not INVALID, though Table 2-8 names a NaN that came from no NaN. -/
def FloatFmt.roundGrid (f : FloatFmt) (mode : Nat) (neg : Bool) (m : Nat) (e : Int) (stream : Word) : Rounded :=
  let top := e + (bitLength m : Int) - 1
  let t := max (top - ((f.sig : Int) - 1)) f.quantum
  let (k, half) := splitAt m e t
  let h := 2 ^ (f.sig - 1)
  let low := if k < h then k else (t - f.quantum + 1).toNat * h + (k - h)
  let code := if roundUp mode neg (decide (low % 2 = 1)) half then low + 1 else low
  if f.maxCode < code then
    { code := f.overflowCode mode neg, flags := Flags.overflow ||| Flags.inexact, stream := stream }
  else
    { code := if code = 0 then f.zeroCode neg else code + f.signBit neg
      flags := flagIf (decide (half ≠ 0)) Flags.inexact |||
        flagIf (decide (half ≠ 0) && decide (top < 1 - (f.bias : Int))) Flags.underflow
      stream := stream }

/-- RoundTo of R26, with the stochastic underflow of R27. -/
def FloatFmt.roundTo (f : FloatFmt) (mode : Nat) (x : FVal) (stream : Word) : Rounded :=
  match x with
  | .nan => { code := f.nanCode, flags := 0, stream := stream }
  | .inf neg =>
    if !f.signed && neg then { code := 0, flags := Flags.invalid, stream := stream }
    else if mode = 4 then { code := f.maxCode + f.signBit neg, flags := 0, stream := stream }
    else { code := f.infCode neg, flags := flagIf f.fin Flags.invalid, stream := stream }
  | .fin neg m e =>
    if !f.signed && (neg || decide (m = 0)) then
      { code := 0, flags := flagIf (decide (m ≠ 0)) Flags.invalid, stream := stream }
    else if m = 0 then { code := f.zeroCode neg, flags := 0, stream := stream }
    else if f.narrow && (decide (mode = 0) || decide (mode = 4)) && decide (e + (bitLength m : Int) - 1 < f.quantum) then
      let next := xorshift stream
      let q := (splitAt (m * 2 ^ 24) e f.quantum).1
      { code := if (next >>> 8).toNat < q then 1 + f.signBit neg else 0
        flags := Flags.inexact ||| Flags.underflow
        stream := next }
    else f.roundGrid mode neg m e stream

/-- Conversion to an integer format (R29); SAT acts as RNE. Log 18. -/
def intConvert (signed : Bool) (w : Nat) (mode : Nat) (x : FVal) : Nat × Flags :=
  let lo : Int := if signed then -(2 ^ (w - 1) : Nat) else 0
  let hi : Int := if signed then (2 ^ (w - 1) : Nat) - 1 else (2 ^ w : Nat) - 1
  let code (n : Int) : Nat := (n % (2 ^ w : Nat)).toNat
  match x with
  | .nan => (0, Flags.invalid)
  | .inf neg => (code (if neg then lo else hi), Flags.invalid)
  | .fin neg m e =>
    if 64 < e + (bitLength m : Int) ∧ m ≠ 0 then (code (if neg then lo else hi), Flags.invalid)
    else
      let (k, half) := splitAt m e 0
      let n : Int := if roundUp mode neg (decide (k % 2 = 1)) half then k + 1 else k
      let v := if neg then -n else n
      if v < lo then (code lo, Flags.invalid)
      else if hi < v then (code hi, Flags.invalid)
      else (code v, flagIf (decide (half ≠ 0)) Flags.inexact)

/-- Convert an exact value into a format: RoundTo, or IntConvert for an integer format (R129). Log 18. -/
def ElemFmt.encode (f : ElemFmt) (mode : Nat) (x : FVal) (stream : Word) : Rounded :=
  match f with
  | .flt g => g.roundTo mode x stream
  | .int s w => let (c, fl) := intConvert s w mode x; { code := c, flags := fl, stream := stream }
  | .sc8 => { code := 255, flags := 0, stream := stream }

/-- An exact sum (R119, R120): the sum and INVALID for opposite infinities. -/
def FVal.add (mode : Nat) (a b : FVal) : FVal × Flags :=
  match a, b with
  | .nan, _ => (.nan, 0)
  | _, .nan => (.nan, 0)
  | .inf x, .inf y => if x = y then (.inf x, 0) else (.nan, Flags.invalid)
  | .inf x, .fin _ _ _ => (.inf x, 0)
  | .fin _ _ _, .inf y => (.inf y, 0)
  | .fin na ma ea, .fin nb mb eb =>
    if ma = 0 ∧ mb = 0 then (.zero (if na = nb then na else decide (mode = 3)), 0)
    else if ma = 0 then (.fin nb mb eb, 0)
    else if mb = 0 then (.fin na ma ea, 0)
    else
      let e := min ea eb
      let x : Int := (ma * 2 ^ (ea - e).toNat : Nat)
      let y : Int := (mb * 2 ^ (eb - e).toNat : Nat)
      let s := (if na then -x else x) + (if nb then -y else y)
      if s = 0 then (.zero (decide (mode = 3)), 0) else (.fin (decide (s < 0)) s.natAbs e, 0)

/-- An exact product (R119, R120). -/
def FVal.mul (a b : FVal) : FVal × Flags :=
  let s := xor a.sign b.sign
  match a, b with
  | .nan, _ => (.nan, 0)
  | _, .nan => (.nan, 0)
  | .inf _, .inf _ => (.inf s, 0)
  | .inf _, .fin _ m _ => if m = 0 then (.nan, Flags.invalid) else (.inf s, 0)
  | .fin _ m _, .inf _ => if m = 0 then (.nan, Flags.invalid) else (.inf s, 0)
  | .fin _ ma ea, .fin _ mb eb => (.fin s (ma * mb) (ea + eb), 0)

/-- Exact product and sum (R119): INVALID of the product holds even when `c` is NaN. -/
def FVal.fma (mode : Nat) (a b c : FVal) : FVal × Flags :=
  let (p, f) := a.mul b
  let (s, g) := p.add mode c
  (s, f ||| g)

/-- Round a value that an operation gave with flags of its own. -/
def FloatFmt.finish (f : FloatFmt) (mode : Nat) (x : FVal × Flags) : Nat × Flags :=
  let r := f.roundTo mode x.1 0
  (r.code, r.flags ||| x.2)

/-- FADD and DADD (R119, R127). -/
def FloatFmt.addOp (f : FloatFmt) (mode a b : Nat) : Nat × Flags := f.finish mode ((f.decode a).add mode (f.decode b))

/-- FSUB (R119). -/
def FloatFmt.subOp (f : FloatFmt) (mode a b : Nat) : Nat × Flags :=
  f.finish mode ((f.decode a).add mode (f.decode b).neg)

/-- FMUL and DMUL (R119, R127). -/
def FloatFmt.mulOp (f : FloatFmt) (mode a b : Nat) : Nat × Flags := f.finish mode ((f.decode a).mul (f.decode b))

/-- FFMA and DFMA (R119, R127): a·b + d, rounded once. -/
def FloatFmt.fmaOp (f : FloatFmt) (mode a b d : Nat) : Nat × Flags :=
  f.finish mode (FVal.fma mode (f.decode a) (f.decode b) (f.decode d))

/-- Compare exact values: none when unordered; zeros are equal. -/
def FVal.compare? : FVal → FVal → Option Ordering
  | .nan, _ => none
  | _, .nan => none
  | .inf x, .inf y => some (if x = y then .eq else if x then .lt else .gt)
  | .inf x, .fin _ _ _ => some (if x then .lt else .gt)
  | .fin _ _ _, .inf y => some (if y then .gt else .lt)
  | .fin na ma ea, .fin nb mb eb =>
    let e := min ea eb
    let x : Int := (ma * 2 ^ (ea - e).toNat : Nat)
    let y : Int := (mb * 2 ^ (eb - e).toNat : Nat)
    let x := if na then -x else x
    let y := if nb then -y else y
    some (if x < y then .lt else if x = y then .eq else .gt)

/-- FP32 bits as a word. -/
def f32Val (x : Word) : FVal := f32.decode x.toNat

/-- The FP32 NaN test on raw bits. -/
def isNan32 (x : Word) : Bool := (f32Val x).isNan

/-- Canonical FP32 NaN. -/
def nan32 : Word := 0x7FC00000

/-- FMIN (`big` false) and FMAX on raw bits (R121): -0 counts as less than +0. -/
def fminmax (big : Bool) (a b : Word) : Word :=
  if isNan32 a && isNan32 b then nan32
  else if isNan32 a then b
  else if isNan32 b then a
  else
    let less : Bool :=
      match (f32Val a).compare? (f32Val b) with
      | some .lt => true
      | some .eq => a.msb && !b.msb
      | _ => false
    if less = big then b else a

/-- floor(log2) of a nonzero magnitude m · 2^e. -/
def floorLog2 (m : Nat) (e : Int) : Int := e + (bitLength m : Int) - 1

/-- emax of a target format (R20, R132). -/
def ElemFmt.emax : ElemFmt → Int
  | .flt f => match f.magVal false f.maxCode with
    | .fin _ m e => floorLog2 m e
    | _ => 0
  | .int s w => (w : Int) - (if s then 2 else 1)
  | .sc8 => 0

/-- The scale code for an amax (R31, R32). -/
def scaleCode (f : ElemFmt) (amax : FVal) : Nat × Flags :=
  match amax with
  | .nan => (255, 0)
  | .inf _ => (254, 0)
  | .fin _ m e =>
    if m = 0 then (127, 0)
    else
      let c := floorLog2 m e - f.emax + 127
      if c < 0 then (0, Flags.scaleLow) else if 254 < c then (254, 0) else (c.toNat, 0)

/-- An element under a scale code, as an exact value (R33). -/
def scaledVal (x : FVal) (code : Nat) : FVal :=
  if code = 255 then .nan
  else match x with
    | .fin n m e => if m = 0 then .zero false else .fin n m (e + (code : Int) - 127)
    | y => y

/-- The quotient of an element by its block scale (R31, R130). -/
def unscaledVal (x : FVal) (code : Nat) : FVal := if code = 255 then .nan else x.scale (127 - (code : Int))

/-- One halving of PairwiseTree (R38): element i with element i + n, flags together. -/
def treeStep (op : Word → Word → Word × Flags) : List Word → List Word → List Word × Flags
  | x :: xs, y :: ys =>
    let (r, f) := op x y
    let (rs, g) := treeStep op xs ys
    (r :: rs, f ||| g)
  | _, _ => ([], 0)

/-- PairwiseTree (R38) over 2^k values: the first parameter counts the halvings. -/
def pairwiseTree (op : Word → Word → Word × Flags) : Nat → List Word → Word × Flags
  | 0, v => (v.headD 0, 0)
  | k + 1, v =>
    let h := v.length / 2
    let (w, f) := treeStep op (v.take h) (v.drop h)
    let (r, g) := pairwiseTree op k w
    (r, f ||| g)

/-- FP32 addition as a node operation, rounded with RNE. -/
def faddNode (a b : Word) : Word × Flags :=
  let (c, f) := f32.addOp 0 a.toNat b.toNat
  (BitVec.ofNat 32 c, f)

/-- Node operation and identity of a reduction operator (Table 7-3). -/
def redOp (sub : Nat) : (Word → Word → Word × Flags) × Word :=
  match sub with
  | 0 => (fun a b => (a + b, 0), 0)
  | 1 => (faddNode, 0x80000000)
  | 2 => (fun a b => (if a.slt b then a else b, 0), 0x7FFFFFFF)
  | 3 => (fun a b => (if a.ult b then a else b, 0), 0xFFFFFFFF)
  | 4 => (fun a b => (fminmax false a b, 0), 0x7F800000)
  | 5 => (fun a b => (if a.slt b then b else a, 0), 0x80000000)
  | 6 => (fun a b => (if a.ult b then b else a, 0), 0)
  | 7 => (fun a b => (fminmax true a b, 0), 0xFF800000)
  | 8 => (fun a b => (a &&& b, 0), 0xFFFFFFFF)
  | 9 => (fun a b => (a ||| b, 0), 0)
  | _ => (fun a b => (a ^^^ b, 0), 0)

end Sys2Proof.Machine
end

