-- ==== Sys2Proof/Syntax.lean ====
section
/-! DEFINITION. The steps of the device, whole: one constructor of `Instr` for every row of the opcode table. An encoded instruction carries its switch marker (R40), its fields (Table 3-1) and, when it has one, the payload of its extension word (R44). A row without an encoding is a step of an engine, of the command processor or of the world outside, and carries what names that step. -/

namespace Sys2Proof

/-- Fields of an R-format word (Table 3-1): D, A, B; `px` is the payload of an extension word before it (Table 3-3). The switch marker is `sw`. -/
structure RArgs where
  sw : Bool
  d : Reg
  a : Reg
  b : Reg
  px : Option (BitVec 25)
  deriving DecidableEq, Repr, Inhabited

/-- Fields of an I-format word (Table 3-1). -/
structure IArgs where
  sw : Bool
  d : Reg
  a : Reg
  imm : BitVec 11
  px : Option (BitVec 25)
  deriving DecidableEq, Repr, Inhabited

/-- Fields of a J-format word (Table 3-1). -/
structure JArgs where
  sw : Bool
  prio : BitVec 4
  off : BitVec 21
  px : Option (BitVec 25)
  deriving DecidableEq, Repr, Inhabited

/-- Fields of a C-format word (Table 3-1). -/
structure CArgs where
  sw : Bool
  prio : BitVec 4
  cond : Reg
  off : BitVec 14
  px : Option (BitVec 25)
  deriving DecidableEq, Repr, Inhabited

/-- Fields of an M-format word (Table 3-1): size/type, scope/hint, offset6. -/
structure MArgs where
  sw : Bool
  d : Reg
  a : Reg
  size : BitVec 3
  hint : BitVec 2
  off : BitVec 6
  px : Option (BitVec 25)
  deriving DecidableEq, Repr, Inhabited

/-- Fields of a K-format word (Table 3-1); no extension word may stand before it (R44). -/
structure KArgs where
  sw : Bool
  kd : BitVec 4
  ka : BitVec 4
  kb : BitVec 4
  r : Reg
  deriving DecidableEq, Repr, Inhabited

/-- Fields of a T-format word (Table 3-1): `col` is the slice bit, `wr` the direction bit (1: register to tile). -/
structure TArgs where
  sw : Bool
  tile : BitVec 4
  col : Bool
  idx : Reg
  imm : BitVec 5
  reg : Reg
  wr : Bool
  px : Option (BitVec 25)
  deriving DecidableEq, Repr, Inhabited

/-- Fields of an X-format instruction, two words (Tables 3-1, 17-1, 17-2): `hold` is flags[9], `h` flags[8:5], `rsv` flags[4]. -/
structure XArgs where
  sw : Bool
  xd : BitVec 4
  xa : BitVec 4
  xb : BitVec 4
  q : BitVec 3
  hold : Bool
  h : BitVec 4
  rsv : Bool
  payload : BitVec 32
  deriving DecidableEq, Repr, Inhabited

/-- Power states of the module (R412). -/
inductive PowerState where
  | run | capped | idle | thermal
  deriving DecidableEq, Repr, Inhabited

/-- Pipe classes of a quarter (Table 6-9, R161, R185). -/
inductive Pipe where
  | simple | highMul | function | fp64 | divide | exchange | memory
  deriving DecidableEq, Repr, Inhabited

/-- What a Xanlink flit carries (R351, R359): nothing but life, or a row request of a peer's Seam, or a peer's answer to one. A request names itself by the die, command and list entry that made it. Log 14. -/
inductive FlitBody where
  | heartbeat
  /-- the peer asks for every flit again from sequence number `next` on (R359) -/
  | replay (next : Nat)
  /-- the first bytes of a message too long for one flit's 240 bytes of payload (Table 21-3) -/
  | part (data : List Byte)
  /-- a peer GATHER asks for `len` bytes at `addr` (R352) -/
  | read (die cmd entry jobKey addr len : Nat)
  /-- a peer SCATTER writes a row (R353) -/
  | write (die cmd entry jobKey addr : Nat) (data : List Byte)
  /-- a peer SCATADD adds a row, with its dispatch and epoch (R353, R358) -/
  | add (die cmd entry jobKey addr : Nat) (float : Bool) (dispatch epoch : Nat) (data : List Byte)
  /-- a peer answers entry `entry` of command `cmd` of die `die`: a row fault's detail or 0, the bytes of a GATHER, the flags of a SCATADD, and whether the row's data was dropped (R352, R353, R355) -/
  | reply (die cmd entry detail flags : Nat) (drop : Bool) (data : List Byte)
  deriving DecidableEq, Repr, Inhabited

/-- A Xanlink flit as the receiver sees it (R359). Log 14. -/
structure Flit where
  seq : Nat
  crcOk : Bool
  src : Nat
  body : FlitBody
  deriving DecidableEq, Repr, Inhabited

/-- One step of the device (every row of the opcode table). -/
inductive Instr where
  /-- R107: adds two lane registers modulo 2^32. -/
  | add (r : RArgs)
  /-- R107: subtracts vB from vA modulo 2^32. -/
  | sub (r : RArgs)
  /-- R108: writes the low 32 bits of the product. -/
  | mul (r : RArgs)
  /-- R108: writes the high 32 bits of the signed product. -/
  | mulh (r : RArgs)
  /-- R108: writes the high 32 bits of the unsigned product. -/
  | mulhU (r : RArgs)
  /-- R108: adds the low product of vA and vB to vD. -/
  | mad (r : RArgs)
  /-- R109: signed division truncated toward zero, with fixed special cases. -/
  | div (r : RArgs)
  /-- R109: unsigned division, with fixed special cases. -/
  | divU (r : RArgs)
  /-- R109: signed remainder with the sign of vA. -/
  | mod (r : RArgs)
  /-- R109: unsigned remainder. -/
  | modU (r : RArgs)
  /-- R110: signed minimum. -/
  | min (r : RArgs)
  /-- R110: unsigned minimum. -/
  | minU (r : RArgs)
  /-- R110: signed maximum. -/
  | max (r : RArgs)
  /-- R110: unsigned maximum. -/
  | maxU (r : RArgs)
  /-- R110: integer magnitude, with 0x8000_0000 unchanged. -/
  | abs (r : RArgs)
  /-- R110: integer negation modulo 2^32. -/
  | neg (r : RArgs)
  /-- R111: bitwise and. -/
  | and (r : RArgs)
  /-- R111: bitwise or. -/
  | or (r : RArgs)
  /-- R111: bitwise exclusive or. -/
  | xor (r : RArgs)
  /-- R111: bitwise complement. -/
  | not (r : RArgs)
  /-- R113: left shift by the whole of vB. -/
  | shl (r : RArgs)
  /-- R113: logical right shift by the whole of vB. -/
  | shr (r : RArgs)
  /-- R113: arithmetic right shift by the whole of vB. -/
  | sra (r : RArgs)
  /-- R116: extracts a bit field described by vB. -/
  | bfx (r : RArgs)
  /-- R116: inserts a bit field of vA into vD. -/
  | bfi (r : RArgs)
  /-- R117: counts set bits. -/
  | popc (r : RArgs)
  /-- R117: counts leading zero bits. -/
  | clz (r : RArgs)
  /-- R117: reverses the bit order. -/
  | brev (r : RArgs)
  /-- R118: computes a 64-bit base plus scaled index address. -/
  | lea (r : RArgs)
  /-- R107: adds a sign-extended immediate. -/
  | addi (i : IArgs)
  /-- R112: bitwise and with an immediate. -/
  | andi (i : IArgs)
  /-- R112: bitwise or with an immediate. -/
  | ori (i : IArgs)
  /-- R112: bitwise exclusive or with an immediate. -/
  | xori (i : IArgs)
  /-- R114: left shift by an immediate 0-31. -/
  | shli (i : IArgs)
  /-- R115: loads an unsigned immediate into bits 31:21. -/
  | lui (i : IArgs)
  /-- R119: FP32 add rounded once. -/
  | fadd (r : RArgs)
  /-- R119: FP32 subtract rounded once. -/
  | fsub (r : RArgs)
  /-- R119: FP32 multiply rounded once. -/
  | fmul (r : RArgs)
  /-- R119: FP32 fused multiply-add rounded once. -/
  | ffma (r : RArgs)
  /-- R121: FP32 minimum with NaN and signed-zero rules. -/
  | fmin (r : RArgs)
  /-- R121: FP32 maximum with NaN and signed-zero rules. -/
  | fmax (r : RArgs)
  /-- R122: floating compare under a condition, writing 1 or 0. -/
  | fcmp (r : RArgs)
  /-- R123: selects vA or vB by the old vD. -/
  | fsel (r : RArgs)
  /-- R124: rounds an FP32 value to an integral value. -/
  | frnd (r : RArgs)
  /-- R125: classifies a floating value into a one-hot mask. -/
  | fclass (r : RArgs)
  /-- R126: reciprocal rounded once. -/
  | frcp (r : RArgs)
  /-- R126: reciprocal square root rounded once. -/
  | frsq (r : RArgs)
  /-- R126: square root rounded once. -/
  | fsqrt (r : RArgs)
  /-- R126: base-2 exponential rounded once. -/
  | fex2 (r : RArgs)
  /-- R126: base-2 logarithm rounded once. -/
  | flg2 (r : RArgs)
  /-- R126: sine rounded once. -/
  | fsin (r : RArgs)
  /-- R126: cosine rounded once. -/
  | fcos (r : RArgs)
  /-- R127: FP64 add. -/
  | dadd (r : RArgs)
  /-- R127: FP64 multiply. -/
  | dmul (r : RArgs)
  /-- R127: FP64 fused multiply-add. -/
  | dfma (r : RArgs)
  /-- R129: converts one element between formats named in the prefix. -/
  | cvt (r : RArgs)
  /-- R130: converts into a narrow format under a block scale. -/
  | cvtn (r : RArgs)
  /-- R131: computes the block maximum magnitude over lane groups. -/
  | amax (r : RArgs)
  /-- R132: computes an sc8 block scale code. -/
  | scaleq (r : RArgs)
  /-- R133: inserts a narrow element into vD. -/
  | pack (r : RArgs)
  /-- R133: extracts a narrow element with extension. -/
  | unpack (r : RArgs)
  /-- R134: integer compare writing 1 or 0. -/
  | cmpset (r : RArgs)
  /-- R139: shuffles values between active lanes within segments. -/
  | shfl (r : RArgs)
  /-- R140: votes across active lanes. -/
  | vote (r : RArgs)
  /-- R141: pairwise-tree reduction over the warp. -/
  | redw (r : RArgs)
  /-- R141: inclusive scan over the warp. -/
  | scanw (r : RArgs)
  /-- R142: gives each lane the mask of lanes holding equal values. -/
  | matchLanes (r : RArgs)
  /-- R143: sets a mask register from a register value. -/
  | kset (k : KArgs)
  /-- R144: reads a mask into a register. -/
  | kmov (k : KArgs)
  /-- R144: writes the population count of a mask. -/
  | kpop (k : KArgs)
  /-- R146: sets the active lanes' bits in a mask. -/
  | join (k : KArgs)
  /-- R146: clears the active lanes' bits in a mask. -/
  | leave (k : KArgs)
  /-- R147: parks lanes until every lane of the mask is parked. -/
  | kwait (k : KArgs)
  /-- R145: mask and. -/
  | klogAnd (k : KArgs)
  /-- R145: mask or. -/
  | klogOr (k : KArgs)
  /-- R145: mask exclusive or. -/
  | klogXor (k : KArgs)
  /-- R145: mask and-not. -/
  | klogAndn (k : KArgs)
  /-- R149: sets the block priority of the active lanes. -/
  | prio (i : IArgs)
  /-- R150: branches every active lane to the target with the carried priority. -/
  | bra (j : JArgs)
  /-- R151: branches lanes whose condition register is nonzero. -/
  | brc (c : CArgs)
  /-- R152: jumps each lane to the address in its pair. -/
  | jmpi (r : RArgs)
  /-- R153: calls a function under its header's width rule. -/
  | callw (r : RArgs)
  /-- R154: keyed call that regroups lanes by key. -/
  | callk (r : RArgs)
  /-- R155: returns from a same, widen or gather callee by the record kind. -/
  | retw (r : RArgs)
  /-- R96: returns from a gather host broadcasting the host's results. -/
  | retwB (r : RArgs)
  /-- R156: returns a keyed callee lane's results to its origin. -/
  | retk (r : RArgs)
  /-- R157: ends the active lanes and possibly the warp. -/
  | exit (r : RArgs)
  /-- R158: does nothing. -/
  | nop (r : RArgs)
  /-- R159: makes the warp ineligible until another warp issues or 16 clocks pass. -/
  | yield (r : RArgs)
  /-- R159: the 16-clock yield limit expires and the warp is eligible again. -/
  | yieldExpiry (wid : Nat)
  /-- R160: sets the warp's register window base. -/
  | wbase (r : RArgs)
  /-- R186: global load through the phase snapshot or at the home. -/
  | ld (m : MArgs)
  /-- R187: global store, plain or .sig, or a BTE aperture command. -/
  | st (m : MArgs)
  /-- R272: an aperture command value is accepted by a BTE channel. -/
  | bteBulkCopy (wid : Nat)
  /-- R189: typed load decoding elements under their scales. -/
  | ldt (m : MArgs)
  /-- R190: scratchpad load. -/
  | lds (m : MArgs)
  /-- R190: scratchpad store. -/
  | sts (m : MArgs)
  /-- R192: atomic integer add on a global word. -/
  | atomAdd (r : RArgs)
  /-- R192: atomic signed minimum on a global word. -/
  | atomMinS (r : RArgs)
  /-- R192: atomic signed maximum on a global word. -/
  | atomMaxS (r : RArgs)
  /-- R192: atomic unsigned minimum on a global word. -/
  | atomMinU (r : RArgs)
  /-- R192: atomic unsigned maximum on a global word. -/
  | atomMaxU (r : RArgs)
  /-- R192: atomic and on a global word. -/
  | atomAnd (r : RArgs)
  /-- R192: atomic or on a global word. -/
  | atomOr (r : RArgs)
  /-- R192: atomic exclusive or on a global word. -/
  | atomXor (r : RArgs)
  /-- R192: atomic exchange on a global word. -/
  | atomExch (r : RArgs)
  /-- R192: atomic compare-and-swap on a global word. -/
  | atomCas (r : RArgs)
  /-- R192: atomic FP32 add on a global word. -/
  | atomAddF32 (r : RArgs)
  /-- R193: global atomic that returns no value and is not waited for. -/
  | red (op : BitVec 4) (r : RArgs)
  /-- R192: atomic integer add on a scratchpad word. -/
  | atomsAdd (r : RArgs)
  /-- R192: atomic signed minimum on a scratchpad word. -/
  | atomsMinS (r : RArgs)
  /-- R192: atomic signed maximum on a scratchpad word. -/
  | atomsMaxS (r : RArgs)
  /-- R192: atomic unsigned minimum on a scratchpad word. -/
  | atomsMinU (r : RArgs)
  /-- R192: atomic unsigned maximum on a scratchpad word. -/
  | atomsMaxU (r : RArgs)
  /-- R192: atomic and on a scratchpad word. -/
  | atomsAnd (r : RArgs)
  /-- R192: atomic or on a scratchpad word. -/
  | atomsOr (r : RArgs)
  /-- R192: atomic exclusive or on a scratchpad word. -/
  | atomsXor (r : RArgs)
  /-- R192: atomic exchange on a scratchpad word. -/
  | atomsExch (r : RArgs)
  /-- R192: atomic compare-and-swap on a scratchpad word. -/
  | atomsCas (r : RArgs)
  /-- R192: atomic FP32 add on a scratchpad word. -/
  | atomsAddF32 (r : RArgs)
  /-- R193: scratchpad atomic that returns no value. -/
  | reds (op : BitVec 4) (r : RArgs)
  /-- R194: appends one entry per lane to a FIFO bank. -/
  | fpush (r : RArgs)
  /-- R194: removes one entry per lane from a FIFO bank. -/
  | fpop (r : RArgs)
  /-- R195: prefetches a line into the L1 or LLC. -/
  | pref (r : RArgs)
  /-- R195: applies a cache class hint to a run of lines. -/
  | chint (r : RArgs)
  /-- R196: requests a mode change of an owned local bank. -/
  | bankcfg (r : RArgs)
  /-- R168: the bank becomes idle and its mode change takes effect. -/
  | bankcfgComplete (core bank : Nat)
  /-- R197: publishes the warp's stores at a scope and refreshes its snapshot. -/
  | phase (r : RArgs)
  /-- R198: marks an owner point in the warp's store sequence. -/
  | fenceo (r : RArgs)
  /-- R212: forces publication of a target warp's or core's stores. -/
  | fencer (r : RArgs)
  /-- R200: acts as PHASE then swaps every pair of a shadow set. -/
  | publish (r : RArgs)
  /-- R199: adds a visible and shadow page pair to a set. -/
  | shadowset (r : RArgs)
  /-- R199: removes the pair that holds a page from its set. -/
  | shadowsetDel (r : RArgs)
  /-- R191: warp-uniform load through the read-only path. -/
  | ldc (r : RArgs)
  /-- R231: registers a wait-until on a global word at its home. -/
  | waitu (cmp : BitVec 3) (r : RArgs)
  /-- R233: waits at core scope on a global or scratchpad word. -/
  | waitl (cmp : BitVec 3) (r : RArgs)
  /-- R221: A registration arrives at the home slice, is evaluated and entered or completed. -/
  | pegRegistration (id : Nat)
  /-- R228: A held registration is retried at the home. -/
  | pegRetry (id : Nat)
  /-- R222: A write takes its place at the home and re-evaluates the line's registrations. -/
  | homeWrite (wid : Nat)
  /-- R224: A registration's deadline passes and it completes with TIMEOUT. -/
  | pegTimeout (id : Nat)
  /-- R238: publishes and makes one arrival on a barrier group. -/
  | barr (r : RArgs)
  /-- R239: waits until a barrier generation is passed. -/
  | bwait (r : RArgs)
  /-- R240: sets a barrier group's membership and expected count. -/
  | bsetm (r : RArgs)
  /-- R252: spawns a continuation task record. -/
  | tspawn (r : RArgs)
  /-- R252: spawns a range task record. -/
  | trange (r : RArgs)
  /-- R253: serves a steal request and takes the next chunk of a range task. -/
  | tnext (r : RArgs)
  /-- R254: suspends the task until its children finish. -/
  | tjoin (r : RArgs)
  /-- R255: ends the active lanes of a task. -/
  | tend (r : RArgs)
  /-- R267: cancels a job and discards its unstarted records. -/
  | tcancel (r : RArgs)
  /-- R256: reads the current record, job id or help depth. -/
  | tself (r : RArgs)
  /-- R258: completes a future with a value. -/
  | fset (r : RArgs)
  /-- R259: waits for a future, adopting its unstarted owner. -/
  | fwait (r : RArgs)
  /-- R263: acquires a biased lock, helping or waiting when contended. -/
  | lockw (r : RArgs)
  /-- R263: releases a held lock. -/
  | unlock (r : RArgs)
  /-- R265: places a value into a queue entry. -/
  | qput (r : RArgs)
  /-- R265: places a PROMISED entry naming its producer. -/
  | qputProm (r : RArgs)
  /-- R265: fills a PROMISED entry without waiting. -/
  | qputFill (r : RArgs)
  /-- R266: takes a value from a queue, helping or waiting as needed. -/
  | qtake (r : RArgs)
  /-- R248: A Darner with a free slot pops and claims a record and starts its warp. -/
  | darnerPop (core launch : Nat)
  /-- R249: an idle Darner posts a steal request to its next victim. -/
  | stealRequest (core launch : Nat)
  /-- R249: an unserved steal request is withdrawn after 2 µs. -/
  | stealWithdraw (core launch : Nat)
  /-- R415: A fault in a Darner's own access stops the launch. -/
  | darnerAccessFault
  /-- R279: per-thread 32-byte copy into scratchpad under a tag. -/
  | acp (r : RArgs)
  /-- R279: A lane's 32-byte copy lands and its tag counter drops. -/
  | acpLand (core idx : Nat)
  /-- R280: waits until the named tag counters are zero. -/
  | acpwait (r : RArgs)
  /-- R281: writes a BTE template from scratchpad. -/
  | tplset (r : RArgs)
  /-- R282: initialises a sync word's target and count. -/
  | swinit (r : RArgs)
  /-- R283: waits until a sync-word generation is passed. -/
  | syncw (r : RArgs)
  /-- R284: reads BTE channel, queue or tag status. -/
  | btestat (r : RArgs)
  /-- R284: reads channel status and clears FAULT, ORPHAN and DETAIL. -/
  | btestatClr (r : RArgs)
  /-- R274: A bulk-copy row lands and adds ROWB to the sync word. -/
  | bteRowLand (core chan row : Nat)
  /-- R352: seam gathers rows by an index list into scratchpad. -/
  | gather (r : RArgs)
  /-- R353: seam writes rows by an index list. -/
  | scatter (r : RArgs)
  /-- R353: seam adds rows element-wise by an index list. -/
  | scatadd (r : RArgs)
  /-- R357: waits until the warp's Seam OUT is zero. -/
  | gswait (r : RArgs)
  /-- R357: reads the count of dropped SCATADD entries. -/
  | gswaitDup (r : RArgs)
  /-- R357: reads the warp's Seam OUT. -/
  | gswaitOut (r : RArgs)
  /-- R351: an owner Seam serves a list entry sent to it. -/
  | seamRowRequest (die cmd entry : Nat)
  /-- R354: A Seam entry lands; the last one completes the command. -/
  | seamEntryLand (die cmd entry : Nat)
  /-- R316: moves a row or column slice between a tile and lane registers. -/
  | tslice (t : TArgs)
  /-- R315: binds a tile register from four uniform registers. -/
  | tbind (x : XArgs)
  /-- R318: press command clearing a tile. -/
  | tzero (x : XArgs)
  /-- R319: press command loading the shadow plane. -/
  | mxlw (x : XArgs)
  /-- R320: press command exchanging the planes. -/
  | mxswap (x : XArgs)
  /-- R321: streams dense rows past the active plane. -/
  | mxmm (x : XArgs)
  /-- R321: streams bitmap-sparse rows past the active plane. -/
  | mxmms (x : XArgs)
  /-- R322: epilogue over accumulator rows. -/
  | mxep (x : XArgs)
  /-- R323: configures the select unit. -/
  | mxsel (x : XArgs)
  /-- R323: writes the select unit readout to scratchpad. -/
  | mxselRead (x : XArgs)
  /-- R324: loads accumulator cells from scratchpad. -/
  | accld (x : XArgs)
  /-- R324: stores accumulator cells to scratchpad. -/
  | accst (x : XArgs)
  /-- R324: clears accumulator cells. -/
  | accz (x : XArgs)
  /-- R325: writes the Press context image. -/
  | mxsave (x : XArgs)
  /-- R325: replaces the Press state from an image. -/
  | mxload (x : XArgs)
  /-- R301: press finishes a numbered command, raising SEQ and lowering OUT. -/
  | pressCommandComplete (core : Nat)
  /-- R317: sets a tile predicate register from a pair. -/
  | tpset (k : KArgs)
  /-- R317: predicate and. -/
  | tplogAnd (k : KArgs)
  /-- R317: predicate or. -/
  | tplogOr (k : KArgs)
  /-- R317: predicate exclusive or. -/
  | tplogXor (k : KArgs)
  /-- R317: predicate and-not. -/
  | tplogAndn (k : KArgs)
  /-- R326: reads Press SEQ, LAST or OUT. -/
  | mxseq (r : RArgs)
  /-- R327: waits until Press SEQ reaches a number. -/
  | mxwait (r : RArgs)
  /-- R327: waits until the warp's Press OUT is zero. -/
  | mxwaitOut (r : RArgs)
  /-- R333: starts a bank matrix-vector product. -/
  | bmv (r : RArgs)
  /-- R335: writes back dirty bank-layout lines of a range to their devices. -/
  | bfenceW (r : RArgs)
  /-- R335: waits until every BMV of the warp has completed. -/
  | bfenceR (r : RArgs)
  /-- R336: waits until BSEQ reaches a number. -/
  | bmwait (r : RArgs)
  /-- R336: waits until BSEQ equals LAST. -/
  | bmwaitAll (r : RArgs)
  /-- R336: reads BSEQ. -/
  | bmwaitSeq (r : RArgs)
  /-- R336: reads the warp's BCU LAST. -/
  | bmwaitLast (r : RArgs)
  /-- R334: A BMV or BFENCE.W completes and BSEQ advances. -/
  | bcuCommandComplete (wid : Nat)
  /-- R341: makes an expert resident, staging it if needed. -/
  | xres (r : RArgs)
  /-- R341: releases a hold on an expert's slot. -/
  | xresRel (r : RArgs)
  /-- R342: increments an expert's frequency counter. -/
  | xhit (r : RArgs)
  /-- R342: sets the ageing period. -/
  | xage (r : RArgs)
  /-- R342: halves every expert counter once. -/
  | xageNow (r : RArgs)
  /-- R342: reads an expert's residency state. -/
  | xquery (r : RArgs)
  /-- R339: A staging finishes, the expert becomes resident and waiters arrive. -/
  | hamperStagingComplete (idx : Nat)
  /-- R342: A PERIOD elapses and every counter is halved. -/
  | hamperAgeingStep (asid : Nat)
  /-- R394: software trap with a subcode. -/
  | trap (r : RArgs)
  /-- R389: ends a handler and re-executes the faulting instruction. -/
  | tret (r : RArgs)
  /-- R389: ends a handler and resumes after the faulting instruction. -/
  | tretSkip (r : RArgs)
  /-- R396: reads a control register. -/
  | rdctl (r : RArgs)
  /-- R396: writes a control register. -/
  | wrctl (r : RArgs)
  /-- R397: suspends a context and evicts its warps. -/
  | ctxsave (r : RArgs)
  /-- R397: lets the CP place and restore a context. -/
  | ctxload (r : RArgs)
  /-- R397: restores a context and re-registers its waits. -/
  | ctxloadRearm (r : RArgs)
  /-- R398: invalidates translations of an ASID over a range. -/
  | tlbinv (r : RArgs)
  /-- R394: returns the monitor version and stepping. -/
  | smcVersion (r : RArgs)
  /-- R410: writes a signed attestation report. -/
  | smcAttest (r : RArgs)
  /-- R408: loads an owner key slot from a wrapped key. -/
  | smcLoadKeySlot (r : RArgs)
  /-- R407: sets a region table entry and flushes old translations. -/
  | smcSetRegionEntry (r : RArgs)
  /-- R411: reads an error counter of a die. -/
  | smcReadErrorCounters (r : RArgs)
  /-- R412: reports power state, measured power, clock and limit. -/
  | smcPowerState (r : RArgs)
  /-- R392: makes a context snapshot of a fabric-job member. -/
  | smcSnapshot (r : RArgs)
  /-- R360: binds or unbinds a fabric job. -/
  | smcBindFabricJob (r : RArgs)
  /-- R392: loads a member's snapshot onto a spare module. -/
  | smcLoadSnapshot (r : RArgs)
  /-- R40: an outstanding register write, such as load data, is performed. -/
  | registerWritePerformed (wid lane reg : Nat)
  /-- R388: A store denied beyond the core writes a queued frame. -/
  | impreciseStoreFault
  /-- R74: an idle core claims a chunk and starts n warps. -/
  | chunkClaim (core launch : Nat)
  /-- R80: an evicted warp's drained state is written to its save slot. -/
  | warpEvictionSave (wid : Nat)
  /-- R81: an evicted warp is restored to its own slot. -/
  | warpRestore (wid : Nat)
  /-- R364: the CP reads a context record when VALID is set. -/
  | contextCreate (asid : Nat)
  /-- R366: the CP serves the submission queue entry at HEAD. -/
  | cpServeEntry (asid queue : Nat)
  /-- R371: sets up and starts a flat launch. -/
  | nodeKernel (graph : Nat)
  /-- R371: starts a task launch with a root range record. -/
  | nodeTaskroot (graph : Nat)
  /-- R374: starts a copy of LEN bytes as engine writes. -/
  | nodeCopy (graph : Nat)
  /-- R374: every byte of a COPY has taken its place and the node completes. -/
  | copyNodeComplete (graph : Nat)
  /-- R374: chooses the successor by a comparison on a word. -/
  | nodeCond (graph : Nat)
  /-- R374: repeats a body while a counter and comparison allow. -/
  | nodeLoop (graph : Nat)
  /-- R374: registers a wait at the home of a word. -/
  | nodeWaitmem (graph : Nat)
  /-- R374: stores or adds a value with .sig semantics at .sys. -/
  | nodeSignal (graph : Nat)
  /-- R374: ends the graph. -/
  | nodeEnd (graph : Nat)
  /-- R361: A host posted write takes its place at its home. -/
  | hostWrite (pa : Nat) (data : List Byte)
  /-- R412: A host read, answered with all ones before READY. -/
  | hostRead (addr : Nat)
  /-- R359: A Xanlink flit is checked and delivered or replay is requested. -/
  | flitReceive (link : Nat) (flit : Flit)
  /-- R359: A heartbeat flit is sent on an idle link every 100 µs. -/
  | linkHeartbeat (link : Nat)
  /-- R362: A module silent for 10 ms is declared failed and isolated. -/
  | moduleFailureDetect (modId : Nat)
  /-- R409: reset starts the boot ROM's firmware verification. -/
  | moduleReset
  /-- R412: bring-up advances to its next stage or sets FAILED. -/
  | bringupStage (ok : Bool) (detail : Nat)
  /-- R412: the module changes power state and arithmetic clock. -/
  | powerStateChange (state : PowerState) (mhz watts : Nat)
  /-- R224: the deadline of a wait that rests on warp-held state (SYNCW, scratchpad WAITL, MXWAIT, BMWAIT, GSWAIT, CTXSAVE) passes and its lanes complete with TIMEOUT. -/
  | warpWaitDeadline (wid : Nat)
  /-- R135: the interval for which an instruction holds a quarter's pipe runs out, so warps waiting for that pipe become eligible again. -/
  | pipeIntervalEnd (core quarter : Nat) (pipe : Pipe)
  deriving DecidableEq, Repr, Inhabited

end Sys2Proof
end

