-- ==== Sys2Proof/Config.lean ====
section
/-! DEFINITION. What the manual leaves to the implementation or leaves open, as opaque constants (nothing in Lean can evaluate them or prove a value of them), and the module figures of Table 1-1 that other files use. -/

namespace Sys2Proof

/-- Which agent moves next (log 3): a quarter of a core issues (R59), or an event step happens. -/
inductive Turn where
  | issue (core quarter : Nat)
  | event (i : Instr)
  deriving DecidableEq, Repr, Inhabited

namespace Config

/-- A free value (R4, R41 and every other open choice): the model applies it to the step's counter and to what the choice is about. Log 2. -/
opaque free (step : Nat) (about : List Nat) : Nat

/-- Which agent moves next after the step with this counter. Log 3. -/
opaque turnAt (step : Nat) : Turn

/-- Nanoseconds of the reference timer that pass in a step. Log 3. -/
opaque nsAt (step : Nat) : Nat

/-- Arithmetic clocks that pass in a step. Log 3. -/
opaque clocksAt (step : Nat) : Nat

/-- Physical bytes, bytes of banks and Peg Table entries, by their keys, that an uncorrectable error strikes during a step (R183, R411). Log 13. -/
opaque struckAt (step : Nat) : List Nat

/-- The error corrections of a step: a die, and the counter of Table 25-6 that counts it (R411). Log 13. -/
opaque correctedAt (step : Nat) : List (Nat × Nat)

/-- The L1 set of a line, modulo the 128 of R165: the manual does not give the index. Log 26. -/
opaque l1Set (line : Nat) : Nat

/-- The set of a line in its LLC slice, whose sets the manual does not give. Log 26. -/
opaque llcSet (line : Nat) : Nat

/-- The decryption, under the key of tag `key`, of a byte last written under the key of tag `tag` at a physical address, after the line's write number `version` (R408): it is no function of what was written, so it carries no information about it. Log 15. -/
opaque decrypt (key tag pa version : Nat) : Byte

/-- What the secure monitor reports as its version (SMC function 0). Log 16. -/
opaque monitorVersion : Word

/-- SHA-512 digest of a configuration record (R409). Log 16. -/
opaque recordDigest (record : Nat) : BitVec 512

/-- Xanlink routes that a configuration record sets (R409), in a layout that the manual leaves open. Log 7. -/
opaque recordRoutes (record : Nat) : List (Nat × List Nat)

/-- Reserved regions that a configuration record sets (R227, R409), in a layout that the manual leaves open. Log 7. -/
opaque recordReserved (record : Nat) : List (Nat × Nat)

/-- Byte `n` of the attestation report, which holds the digests of the firmware and of the configuration record, the module id and a nonce (R410) under a signing key that never leaves the die; the manual does not give its layout. Log 16. -/
opaque attestByte (firmware record : BitVec 512) (modId : Nat) (nonce : List Byte) (n : Nat) : Byte

/-- Length of the attestation report in bytes (Table 25-5). Log 16. -/
opaque attestLength : Nat

/-- Whether a wrapped key of these bytes unwraps (R408). Log 16. -/
opaque unwraps (wrapped : List Byte) : Bool

/-- Bytes of a wrapped key (R408). Log 16. -/
opaque wrappedLength : Nat

/-- Cores of the device (R5). -/
def cores : Nat := 384

/-- Lanes of a warp (R5). -/
def lanes : Nat := 32

/-- Bytes of a local bank (R165). -/
def bankBytes : Nat := 65536

/-- Entries of an LLC slice's Peg Table (R226). -/
def pegEntries : Nat := 256

/-- Entries of a slice's overflow list (R227). -/
def spillEntries : Nat := 8192

/-- L1 monitor entries of a core (R235). -/
def monitors : Nat := 64

/-- Entries of a BTE queue (R269). -/
def bteEntries : Nat := 16

/-- Entries of the Press command queue (R300). -/
def pressEntries : Nat := 32

/-- Cells of accumulator memory (R299). -/
def accCells : Nat := 32768

/-- Entries of a Darner deque (R248), of its pending list, and its split pool (R246). -/
def dequeEntries : Nat := 4096

/-- Entries of the pending list (Table 13-4). -/
def pendingEntries : Nat := 2016

/-- Slots of the split pool (Table 13-4). -/
def splitSlots : Nat := 256

end Config

end Sys2Proof
end

