-- ==== Sys2Proof/Machine/Table.lean ====
section
/-! DEFINITION. Sparse tables keyed by natural numbers, in one canonical form: keys strictly rising. `Map` reads an unlisted key as a default and never lists the default, so equal contents are equal data. -/

namespace Sys2Proof.Machine

/-- A finite table, keys strictly rising. -/
abbrev Table (α : Type) := List (Nat × α)

/-- The entry at key `k`. -/
def Table.find? {α : Type} : Table α → Nat → Option α
  | [], _ => none
  | (k, v) :: t, q => if q = k then some v else Table.find? t q

/-- Put `v` at key `q`, replacing what is there. -/
def Table.insert {α : Type} : Table α → Nat → α → Table α
  | [], q, v => [(q, v)]
  | (k, x) :: t, q, v =>
    if q < k then (q, v) :: (k, x) :: t
    else if q = k then (q, v) :: t
    else (k, x) :: Table.insert t q v

/-- Remove key `q`. -/
def Table.erase {α : Type} (t : Table α) (q : Nat) : Table α := t.filter (fun e => decide (e.1 ≠ q))

/-- Change the entry at `q`, when there is one. -/
def Table.modify {α : Type} (t : Table α) (q : Nat) (f : α → α) : Table α :=
  match t.find? q with
  | some v => t.insert q (f v)
  | none => t

/-- The lowest key `≥ n` that the table does not hold. -/
def Table.fresh {α : Type} : Table α → Nat → Nat
  | [], n => n
  | (k, _) :: t, n => if n < k then n else if n = k then Table.fresh t (n + 1) else Table.fresh t n

/-- A table read with a default `d`; entries equal to `d` are not listed. -/
def Map.get {α : Type} (d : α) (t : Table α) (q : Nat) : α := (t.find? q).getD d

/-- Write a table that has the default `d`: writing the default removes the entry. -/
def Map.set {α : Type} [DecidableEq α] (d : α) (t : Table α) (q : Nat) (v : α) : Table α :=
  if v = d then t.erase q else t.insert q v

/-- Keys strictly rising above `lo`. -/
def Table.sortedFrom {α : Type} : Nat → Table α → Bool
  | _, [] => true
  | lo, (k, _) :: t => decide (lo ≤ k) && Table.sortedFrom (k + 1) t

/-- The canonical form of a table with default `d`. -/
def Map.wf {α : Type} [DecidableEq α] (d : α) (t : Table α) : Bool :=
  Table.sortedFrom 0 t && t.all (fun e => decide (e.2 ≠ d))

/-- Remove every key in `[lo, hi)`. -/
def Table.eraseRange {α : Type} (t : Table α) (lo hi : Nat) : Table α :=
  t.filter (fun e => decide (e.1 < lo) || decide (hi ≤ e.1))

end Sys2Proof.Machine
end

