-- ==== Sys2Proof/Machine/State.lean ====
section
/-! DEFINITION. The state of the module as plain data, all of it: memory and its publication history, cores with their engines, warps, calls, registrations, launches, contexts, the command processor, Seam, the Hamper, the links and bring-up. Then the reasons a step can stop, and the state after reset. -/

namespace Sys2Proof.Machine

/-- Physical memory and local banks: bytes by key. A global byte's key is its physical address, below 2^52; a local bank's byte has a key of its own above that (`Mem.spadKey`). Unlisted bytes read 0 (log 1). -/
abbrev Memory := Table Byte

/-- Scopes of publication, narrow to wide (R203). -/
inductive Scope where
  | core | die | dev | sys
  deriving DecidableEq, Repr

/-- One write that took its place in co at a word (R202, R205): the value it replaced, the value it left, who made it, and when it was published at each scope (positions in the publication order, R206). `seq` is its place in co. -/
structure HWrite where
  seq : Nat
  key : Nat
  prev : Word
  val : Word
  /-- the writing warp, when a warp wrote -/
  wid : Option Nat
  /-- token of that warp: a later warp of the same slot is another writer -/
  token : Option Nat
  /-- the queue whose entry it wrote, when QPUT made it (R217) -/
  queue : Option Nat
  /-- the writing core, when the writer belongs to one -/
  core : Option Nat
  /-- Press wrote it (R302) -/
  press : Bool
  /-- an engine wrote it for a command (R214) -/
  engine : Bool
  /-- scope of the atomic that wrote it (R209); none for other writes -/
  atomic : Option Scope
  pubCore : Option Nat
  pubDie : Option Nat
  pubDev : Option Nat
  pubSys : Option Nat
  deriving DecidableEq, Repr

/-- Modes of a local bank (R165). -/
inductive BankMode where
  | cache | spad | fifo
  deriving DecidableEq, Repr

/-- Cache class of a line (R173). -/
inductive CacheClass where
  | normal | first | last
  deriving DecidableEq, Repr

/-- A line that the L1 of a core or an LLC slice holds (R165, R171, R173): its class, whether the L1 holds it exclusively, the bank whose ways hold it (0 in the LLC), and when it was last used. Log 26. -/
structure CacheLine where
  cls : CacheClass
  excl : Bool
  bank : Nat
  used : Nat
  deriving DecidableEq, Repr

/-- A leaf of the page tables with its second word, as an access uses it (Tables 25-3, 25-3a). -/
structure Leaf where
  okey : Nat
  frame : Nat
  fmt : Nat
  geo : Nat
  layout : Nat
  cls : Nat
  shadow : Bool
  world : Bool
  x : Bool
  w : Bool
  r : Bool
  /-- a 2 GiB page of level 2 (R401) -/
  big : Bool
  scFrame : Nat
  slot : Nat
  /-- physical address of the entry itself, which SHADOWSET and PUBLISH write (R404) -/
  at_ : Nat
  deriving DecidableEq, Repr, Inhabited

/-- A party: on a core, on a die, module-wide, or the host (R202, R203). -/
inductive Party where
  | core (c : Nat)
  | die (d : Nat)
  | dev
  | sys
  deriving DecidableEq, Repr

/-- A cached translation (R404, R405): in the TLBs of a core, in the walkers of a die, or with an engine of the module. -/
structure TlbEntry where
  holder : Party
  asid : Nat
  /-- virtual address of the page -/
  page : Nat
  leaf : Leaf
  deriving DecidableEq, Repr

/-- The place a register field names, resolved when the instruction issues (R47, R160). -/
inductive Loc where
  /-- the write is discarded -/
  | none
  /-- lane register, by its number in the thread's allocation -/
  | thread (n : Nat)
  /-- warp-uniform register -/
  | uni (n : Nat)
  | fp
  | sp
  deriving DecidableEq, Repr

/-- An outstanding register write of one lane (R40): the register and the value before the write; the register itself holds the new value. Log 5. -/
structure OutWrite where
  lane : Nat
  loc : Loc
  old : Word
  /-- the clock at which its instruction's pipe interval ends: it is performed no earlier (R135) -/
  due : Nat
  deriving DecidableEq, Repr

/-- Cause of a fault (Table 24-4). -/
inductive Cause where
  | illegalOp | reservedField | pageFaultLd | pageFaultSt | protection | world | align | window | badCallee
  | frameOverflow | softTrap | engineFault | impreciseStore | cancel | adoptedFault | spadBounds | tileBounds | accBounds
  deriving DecidableEq, Repr

/-- What a precise fault records: cause, subcode, FADDR (R381, R417). -/
structure Trap where
  cause : Cause
  subcode : Nat
  faddr : Nat
  deriving DecidableEq, Repr

/-- A store, a RED or a FENCEO mark of a warp that has not been published yet (R205, R209, R212). -/
structure Pending where
  /-- FENCEO mark: no access -/
  mark : Bool
  /-- RED operation of Table 3-4, or none for a store -/
  red : Option Nat
  /-- scope of a RED (R192) -/
  scope : Scope
  key : Nat
  size : Nat
  /-- value stored; operands of a RED, the second in bits from 64 on -/
  data : Nat
  okey : Nat
  bank : Bool
  va : Nat
  lane : Nat
  pc : Nat
  insn : Nat
  /-- the queue whose entry it writes, when QPUT made it (R217) -/
  queue : Option Nat
  deriving DecidableEq, Repr

/-- The instruction that is issuing: whose, where, and its words. -/
structure Issue where
  wid : Nat
  pc : Nat
  prio : Nat
  lanes : Mask
  /-- bytes of the instruction -/
  len : Nat
  /-- it has an extension word -/
  pair : Bool
  /-- instruction word in [31:0], extension or payload word in [63:32] -/
  insn : Nat
  deriving DecidableEq, Repr

/-- What a wait waits for (Table 4-2, R12). -/
inductive WaitKind where
  /-- a registration: WAITU, WAITL, BWAIT, SYNCW -/
  | mem (reg : Nat)
  /-- FWAIT on the future at a virtual address (R259) -/
  | future (reg : Option Nat) (va : Nat)
  /-- LOCKW on the lock at a virtual address, for a record (R263) -/
  | lock (reg : Option Nat) (va : Nat)
  /-- QTAKE of index `i` (R266) -/
  | qtake (reg : Option Nat) (va i : Nat)
  /-- QPUT of index `i`: value and STATE to write, and the instruction (R265) -/
  | qput (reg : Nat) (va i : Nat) (value : Nat) (state : Nat) (by_ : Issue)
  /-- FPUSH or FPOP at bank number `bank` of the warp's launch (R169) -/
  | fifo (bank : Nat) (push : Bool)
  /-- BANKCFG of bank number `bank` of the warp's launch (R196) -/
  | bankcfg (bank : Nat)
  /-- an access to bank number `bank` of the warp's launch, on which a BANKCFG has issued and not completed (R168): the instruction issues again when it has -/
  | access (bank : Nat)
  /-- ACPWAIT on a tag mask (R280) -/
  | acp (mask : Nat)
  /-- MXWAIT for a number (R327) -/
  | press (n : Nat)
  /-- MXWAIT.out -/
  | pressOut
  /-- MXLOAD numbered `n` (R325) -/
  | mxload (n : Nat)
  /-- BMWAIT for a number (R336) -/
  | bcu (n : Nat)
  /-- BMWAIT.all -/
  | bcuAll
  /-- BFENCE.R (R335) -/
  | bcuFence
  /-- GSWAIT (R357) -/
  | seamOut
  /-- CTXSAVE of an ASID (R397) -/
  | ctxsave (asid : Nat)
  /-- SMC function 6: a snapshot of an ASID with a generation (R392) -/
  | snapshot (asid gen : Nat)
  deriving DecidableEq, Repr

/-- A wait in progress: what for, until when, where the result code goes, the boundary it makes, and the code once it is recorded (R220, R229). -/
structure Wait where
  kind : WaitKind
  deadline : Option Nat
  /-- where vD names: the run of registers from here receives values and code -/
  dst : Loc
  /-- the completion is a boundary at .core instead of .dev (Table 11-2) -/
  core : Bool
  /-- code recorded, not yet delivered -/
  code : Option Nat
  /-- the wait slept or adopted before (FWAIT, LOCKW, QTAKE: code 1) -/
  slept : Bool
  /-- it has looked at its word before: LOCKW's later tries take the remote path (R263) -/
  again : Bool
  /-- value to deliver before the code (FPOP, FWAIT, QTAKE) -/
  val : DWord
  /-- the recorded code ends the instruction; else FWAIT, LOCKW and QTAKE look again on codes 0 and 1 -/
  final : Bool
  /-- the instruction carries a switch marker: its result code is a register write that the warp waits for (R40) -/
  sw : Bool
  deriving DecidableEq, Repr

/-- Entry states (Table 4-2). BARRIER is a wait on a generation word, marked `barrier`. -/
inductive EState where
  | ready
  | kwait (k : Nat)
  | wait (barrier : Bool) (w : Wait)
  | callpark
  /-- parked sub-warp number `n` of its warp -/
  | trapped (n : Nat)
  deriving DecidableEq, Repr

/-- A frontier entry (Table 4-1). -/
structure Entry where
  prio : Nat
  pc : Nat
  lanes : Mask
  state : EState
  deriving DecidableEq, Repr

/-- The role a lane was created with in a width-changing call (R85); the groups it hosts stand apart (`LaneState.hosts`). -/
inductive Role where
  | none
  /-- sub-lane `j` of a caller lane of a widen call -/
  | widen (call caller j : Nat)
  /-- callee lane of a keyed collection, for an origin (warp token) and lane -/
  | keyed (coll origin lane : Nat)
  deriving DecidableEq, Repr

/-- State of one lane besides its registers (R58, R71, R84, R92). -/
structure LaneState where
  fp : Word
  sp : Word
  floor : Nat
  idx : Word
  depth : Nat
  stream : Word
  role : Role
  /-- gather groups that it hosts, the innermost first (R85): a callee frame may lie over another role's -/
  hosts : List Nat
  /-- entry addresses of the callees that it has entered and not left, the innermost first (R417): the model's own -/
  entered : List Nat
  /-- its wait ended because its job was cancelled: a CANCEL trap is due (R267) -/
  doomed : Bool
  deriving DecidableEq, Repr

/-- A parked sub-warp: what its frame will say (R381, R382). -/
structure SubWarp where
  num : Nat
  lanes : Mask
  pc : Nat
  trap : Trap
  insn : Nat
  pair : Bool
  /-- the instruction takes two words -/
  wide : Bool
  deriving DecidableEq, Repr

/-- The active handler of a warp (R382). -/
structure Handler where
  lane : Nat
  frame : Nat
  sub : SubWarp
  deriving DecidableEq, Repr

/-- The last read of a word by a warp since its refresh (R207): the co place of the write it returned and the value; `fixed` after a plain load, whose value the snapshot holds, and not after an LD.dev, an atomic or an LDS. -/
structure SnapRead where
  key : Nat
  seq : Nat
  val : Word
  fixed : Bool
  deriving DecidableEq, Repr

/-- What a warp holds that a help frame saves (R80, R260) — every field of a warp but its help frames. -/
structure WarpCore where
  core : Nat
  slot : Nat
  launch : Nat
  rank : Nat
  gen : Nat
  /-- register allocation per thread (R68) -/
  alloc : Nat
  live : Mask
  frontier : List Entry
  /-- lane registers: key 32·register + lane -/
  regs : Table Word
  /-- w0 to w23 -/
  w : Table Word
  /-- k0 to k11 -/
  k : Table Mask
  /-- x0 to x15 -/
  x : Table (BitVec 128)
  /-- q0 to q7 (bit 0 of q0 is not stored: it reads 1) -/
  q : Table DWord
  lanes : List LaneState
  flags : BitVec 8
  srng : Word
  drop : Bool
  trapvec : DWord
  wbase : Nat
  out : List OutWrite
  /-- held at a switch marker (R40) -/
  held : Bool
  /-- register writes that a wait or a trap has drained are performed by this clock: it issues no earlier (R41, R135) -/
  drained : Nat
  /-- not eligible before this clock unless another warp issues (R159) -/
  yieldTo : Option Nat
  stores : List Pending
  /-- publication-order position of the last refresh (R206) -/
  refresh : Nat
  reads : List SnapRead
  /-- a FENCER was served whose refresh the next FENCEO makes (R212) -/
  owed : Bool
  tags : Table Nat
  bcuLast : Word
  bcuSeq : Word
  /-- physical ranges that a BFENCE.W or a staging has written back, with the position (R216, R339) -/
  fenced : List (Nat × Nat × Nat)
  seamOut : Nat
  handler : Option Handler
  subs : List SubWarp
  nextSub : Nat
  /-- precise faults found after their lanes parked at a call, taken when the warp runs (R95, R98, R99) -/
  due : List (Issue × Trap)
  /-- current task record (0: none), job id, help depth -/
  task : Nat
  job : Nat
  depth : Nat
  deriving DecidableEq, Repr

/-- A warp: its running state, and the help frames pushed under it, innermost first (R260). -/
structure Warp where
  run : WarpCore
  help : List WarpCore
  deriving DecidableEq, Repr

/-- Who a registration belongs to (Table 12-2, KIND). -/
inductive RegOwner where
  | warp (wid token : Nat)
  /-- a Darner waiter, with the control word of the owner record it also watches -/
  | darner (wid token : Nat) (control : Option Nat)
  /-- the CP, for TAIL or GRAPH of a queue -/
  | queue (asid q : Nat)
  /-- the CP, for a WAITMEM node -/
  | graph (g : Nat)
  deriving DecidableEq, Repr

/-- Where a registration is (R221, R226, R227, R228, R234, R235). -/
inductive RegPlace where
  | inFlight | table | spilled | held | monitor | warp
  deriving DecidableEq, Repr

/-- A registration (Table 12-2, and what R228, R234 and R235 keep elsewhere). -/
structure Registration where
  owner : RegOwner
  place : RegPlace
  asid : Nat
  va : Nat
  /-- other virtual addresses of the word, of lanes that share the entry (R225) -/
  also : List Nat := []
  key : Nat
  /-- owner key of the watched word's leaf (R408) -/
  okey : Nat
  w64 : Bool
  /-- comparison of Table 12-3; 8: generation passed (GEN) -/
  cmp : Nat
  operand : Nat
  deadline : Option Nat
  /-- its timeout is 0 (R221) -/
  zero : Bool
  /-- it reads through a shadow mapping (R215) -/
  shadow : Bool := false
  /-- its word lies in a saved bank, and a write there has satisfied it by its deadline (R224, R234) -/
  met : Bool := false
  lanes : Mask
  deriving DecidableEq, Repr

/-- A warp that is not resident: evicted (R80) or saved while its slot runs a pass of a call (R89, R99). -/
structure SavedWarp where
  wid : Nat
  warp : Warp
  /-- saved for this call's passes, not evicted -/
  byCall : Option Nat
  /-- place in the order in which warps were marked runnable (R229, R368) -/
  marked : Option Nat
  /-- WAIT state of its lanes in its save slot, from which they register again after a snapshot (R392, R397) -/
  waits : Table Registration := []
  deriving DecidableEq, Repr

/-- A barrier group (R236, R240). Its generation word is device-reserved. -/
structure Barrier where
  x : Nat
  y : Nat
  logw : Nat
  logh : Nat
  slots : DWord
  expect : Nat
  arrived : Nat
  gen : Word
  heldSet : Option (Nat × Nat × Nat × Nat × DWord × Nat)
  deriving DecidableEq, Repr

/-- A lane waiting at a FIFO bank, oldest first in its list (R169). -/
structure FifoWaiter where
  token : Nat
  lane : Nat
  push : Bool
  value : Word
  deriving DecidableEq, Repr

/-- A local bank (R165, R166, R168, R169). -/
structure Bank where
  mode : BankMode
  owner : Option Nat
  head : Nat
  fifo : List Word
  waiters : List FifoWaiter
  /-- BANKCFGs waiting for the bank to be idle, in order: warp token, request number, mode -/
  cfg : List (Nat × Nat × BankMode)
  deriving DecidableEq, Repr

/-- The banks of a launch that has left a core, saved with its warps (R79, R391); their bytes keep keys of their own (`savedKey`). Log 12. -/
structure BankSave where
  core : Nat
  launch : Nat
  banks : List Bank
  /-- numbers of the banks from which they were saved: where their bytes lie in the save region -/
  nos : List Nat
  deriving DecidableEq, Repr

/-- A BTE bulk copy, accepted and not complete (R269 to R276). -/
structure BteCmd where
  /-- which of its core's commands it is, in the order of acceptance: the model's own -/
  id : Nat
  chan : Nat
  value : DWord
  wid : Nat
  token : Nat
  launch : Nat
  tpl : BitVec 256
  /-- it takes an entry of the load queue -/
  load : Bool
  /-- publication position at issue (R213) -/
  since : Nat
  /-- publication position of its warp's last refresh before it (R213) -/
  fresh : Nat
  landed : List Nat
  started : Bool
  /-- detail codes of its command faults (R276) -/
  cmdFaults : List Nat
  /-- its frame is queued -/
  faulted : Bool
  deriving DecidableEq, Repr

/-- Status of an aperture channel (Table 14-6), apart from what its commands show. -/
structure Channel where
  fault : Bool
  orphan : Bool
  detail : Nat
  deriving DecidableEq, Repr

/-- An aperture store's value waiting to be accepted (R188, R269). -/
structure ApertureStore where
  chan : Nat
  value : DWord
  wid : Nat
  token : Nat
  launch : Nat
  /-- publication position at issue (R213) -/
  since : Nat
  /-- publication position of its warp's last refresh before it (R213) -/
  fresh : Nat
  deriving DecidableEq, Repr

/-- One lane's ACP copy in flight (R279). -/
structure AcpCopy where
  token : Nat
  lane : Nat
  tag : Nat
  /-- key of its 32 bytes of scratchpad -/
  key : Nat
  /-- pieces of its source: leaf, physical address, length -/
  src : List (Leaf × Nat × Nat)
  since : Nat
  /-- ACP instruction it belongs to (one load-queue entry) -/
  instr : Nat
  deriving DecidableEq, Repr

/-- A plane of Press (R296, R297): raw elements, key 256·n + k, those that are 0 not listed; the positions whose presence bit is clear, ascending, by the same key; scale codes, key 256·n + block. -/
structure Plane where
  fmt : Option Nat
  geo : Nat
  rows : Nat
  cols : Nat
  vals : Table Nat
  absent : List Nat
  scales : Table Nat
  deriving DecidableEq, Repr, Inhabited

/-- A Press command as its queue entry holds it (R300): the instruction, its captured descriptor and uniform operands, and where its global operand lies. -/
structure PressCmd where
  instr : Instr
  slot : Nat
  wid : Nat
  token : Nat
  launch : Nat
  num : Option Nat
  /-- held in this slot (R301) -/
  held : Option Nat
  tile : BitVec 128
  opD : Nat
  opA : Nat
  opB : Nat
  opB1 : Nat
  /-- pages of the global operand: page address and leaf -/
  pages : List (Nat × Leaf)
  /-- stochastic seed at issue (R28) -/
  seed : Word
  /-- publication position at issue (R213) -/
  since : Nat
  /-- publication position of its warp's last refresh before it (R213) -/
  fresh : Nat
  /-- publication position of the BTE release, which follows the writes of its copy (R214) -/
  follow : Nat
  /-- rows done, as a save records them (R310) -/
  rowsDone : Nat
  deriving DecidableEq, Repr, Inhabited

/-- One entry of a select line (R305). -/
structure Offer where
  val : Word
  index : Word
  deriving DecidableEq, Repr, Inhabited

/-- The select unit when it is on (R305). -/
structure Select where
  k : Nat
  perRow : Bool
  lines : Nat
  next : Nat
  first : Nat
  kept : Table (List Offer)
  deriving DecidableEq, Repr, Inhabited

/-- Press state (Table 16-1). -/
structure Press where
  owner : Option Nat
  active : Plane
  shadow : Plane
  acc : Table (BitVec 96)
  /-- mode in which a cell was last written: 1 EXACT, 2 FLOAT; raw moves leave none (R299) -/
  accMode : Table Nat
  queue : List PressCmd
  seq : Word
  issued : Word
  out : Table Nat
  last : Table Word
  select : Option Select
  streams : List Word
  fault : Bool
  detail : Nat
  deriving DecidableEq, Repr, Inhabited

/-- What a Darner holds of a running range task (R244, R250): its bounds, and what a split record copies. -/
structure RangeTask where
  lo : Nat
  hi : Nat
  grain : Nat
  code : Nat
  frame : Nat
  deriving DecidableEq, Repr

/-- Darner of a core for one launch (R246 to R250). -/
structure Darner where
  deque : List Nat
  pending : List Nat
  /-- steal requests, oldest first: thief core and time posted -/
  mailbox : List (Nat × Nat)
  lastVictim : Option Nat
  /-- own request: victim core and time posted -/
  request : Option (Nat × Nat)
  /-- records handed over in a reply -/
  handed : List Nat
  /-- running range tasks, by record -/
  ranges : Table RangeTask
  /-- split-pool records in use (R250) -/
  pool : List Nat
  deriving DecidableEq, Repr, Inhabited

/-- A core (R5, R6) with its per-core engines. -/
structure Core where
  banks : List Bank
  /-- pipes held: quarter, class, end clock (R135) -/
  pipes : List (Nat × Pipe × Nat)
  /-- slot that each quarter issued last (R59) -/
  lastSlot : List Nat
  /-- first clock at which each quarter may issue again: at most one instruction a clock (R59) -/
  nextAt : List Nat
  darners : Table Darner
  bte : List BteCmd
  /-- bulk copies accepted so far: the model's own -/
  bteNext : Nat
  aperture : List ApertureStore
  channels : Table (Table Channel)
  templates : Table (Table (BitVec 256))
  acps : List AcpCopy
  acpNext : Nat
  press : Press
  /-- Press contexts saved, by launch (R292, R310) -/
  pressSaved : Table Press
  /-- contexts that have warps here, in the order in which they came (R79) -/
  placed : List Nat
  deriving DecidableEq, Repr

/-- A caller parked at a gather or keyed call site: warp token, lane, first register of its runs; key and completion offset of a keyed call; its pc, for a trap. -/
structure Caller where
  token : Nat
  lane : Nat
  run : Nat
  key : Nat
  off : Nat
  /-- the call instruction, for a fault found later -/
  at_ : Issue
  deriving DecidableEq, Repr

/-- A widen call in progress (R87 to R92). -/
structure WidenCall where
  /-- token of the calling warp -/
  token : Nat
  launch : Nat
  entry : Nat
  /-- log2 of the factor -/
  n : Nat
  nargs : Nat
  nres : Nat
  redop : Nat
  run : Nat
  /-- callers: lane, sp, floor -/
  callers : List (Nat × Nat × Nat)
  /-- callee warps not placed yet: their seed and sub-lanes (caller index, j) -/
  waiting : List (Word × List (Nat × Nat))
  /-- sub-lanes not ended -/
  left : Nat
  alloc : Nat
  w : Table Word
  trapvec : DWord
  /-- depth-4 form: sub-lanes one at a time (R92) -/
  serial : Bool
  deriving DecidableEq, Repr

/-- A gather group (R93 to R96). -/
structure GatherGroup where
  entry : Nat
  launch : Nat
  core : Nat
  /-- the warp token of a warp-scope instance -/
  warp : Option Nat
  size : Nat
  nargs : Nat
  nres : Nat
  callers : List Caller
  fired : Bool
  /-- the host has started -/
  begun : Bool
  /-- token of the host's warp and its lane, while the host has not left -/
  host : Option (Nat × Nat)
  /-- arena offset of the host's frame (R95) -/
  frame : Nat
  deriving DecidableEq, Repr

/-- A callee warp of a keyed collection not placed yet: core, key and origins. -/
structure KeyedWarp where
  core : Nat
  key : Nat
  seed : Word
  lanes : List Caller
  /-- allocation, warp-uniform registers and trap vector of the first origin warp at the close (R99) -/
  alloc : Nat
  w : Table Word
  trapvec : DWord
  deriving DecidableEq, Repr

/-- A keyed collection (R98 to R101). -/
structure Keyed where
  entry : Nat
  launch : Nat
  /-- the core of a core-scope instance -/
  core : Option Nat
  keys : Nat
  nargs : Nat
  nres : Nat
  callers : List Caller
  closed : Bool
  waiting : List KeyedWarp
  /-- callee lanes not ended: core, key, count -/
  left : List (Nat × Nat × Nat)
  /-- completion array of each core: core, offset -/
  arrays : List (Nat × Nat)
  deriving DecidableEq, Repr

/-- A launch (R66 to R75, R371, R372). -/
structure Launch where
  asid : Nat
  graph : Nat
  prio : Nat
  /-- step at which its node became ready (R367) -/
  since : Nat
  task : Bool
  x : Nat
  y : Nat
  logw : Nat
  logh : Nat
  warps : Nat
  alloc : Nat
  spad : Nat
  entry : Nat
  arena : Nat
  arenaSz : Nat
  iters : Nat
  chunk : Nat
  /-- next chunk and end of each die's ticket counter (R73) -/
  tickets : List (Nat × Nat × Nat)
  darner : Nat
  cancel : Nat
  job : Nat
  tiles : Table (BitVec 128)
  tpls : Table (BitVec 256)
  /-- warps started in a slot: key of the slot, count (R385) -/
  gens : Table Nat
  /-- records spawned and not finished (R247) -/
  records : List Nat
  /-- stopped by the Darner (R415) -/
  stopped : Bool
  /-- jobs whose cancel bit TCANCEL has set in its bitmap (R267) -/
  cancelled : List Nat
  frames : Nat
  faulted : Bool
  dropped : Bool
  deriving DecidableEq, Repr

/-- A list entry that its owner has served: a row fault's detail or 0, the bytes of a GATHER, flags of a SCATADD, dropped data (R352 to R355). -/
structure SeamServed where
  detail : Nat
  flags : Nat
  drop : Bool
  data : List Byte
  /-- the scratchpad offset that failed (R414) -/
  off : Option Nat := none
  deriving DecidableEq, Repr

/-- A Seam command (R348 to R354). -/
structure SeamCmd where
  id : Nat
  /-- 0 GATHER, 1 SCATTER, 2 SCATADD -/
  op : Nat
  wid : Nat
  token : Nat
  launch : Nat
  desc : BitVec 512
  /-- scratchpad offsets of the row buffer and of the list -/
  buf : Nat
  list : Nat
  count : Nat
  /-- publication position at issue (R213) -/
  since : Nat
  /-- publication position of its warp's last refresh before it (R213) -/
  fresh : Nat
  /-- indices read from the list, by entry -/
  index : Table Nat
  /-- entries sent to a peer module -/
  sent : Table Nat
  served : Table SeamServed
  landed : List Nat
  /-- a row fault's frame is queued -/
  faulted : Bool
  deriving DecidableEq, Repr

/-- A Seam, one per die (R348, R356). -/
structure Seam where
  cmds : List SeamCmd
  next : Nat
  /-- resident contexts, the earlier first -/
  resident : List Nat
  /-- a third context waits: nothing more of the earlier resident one is accepted -/
  closing : Bool
  /-- the context that waits, whose command is accepted next -/
  waiting : Option Nat
  /-- dropped SCATADD entries by ASID (R357) -/
  dups : Table Nat
  /-- newest epoch and applied indices, by (source module · 2^16 + DISPATCH) and ASID (R358) -/
  dedup : Table (Table (Nat × List Nat))
  deriving DecidableEq, Repr

/-- A numbered BCU command of a warp (R334). -/
structure BcuCmd where
  wid : Nat
  token : Nat
  launch : Nat
  num : Nat
  /-- BFENCE.W: its virtual range; none for a BMV -/
  fence : Option (Nat × Nat)
  /-- first row, rows, columns, row pitch of W -/
  r0 : Nat
  n : Nat
  cols : Nat
  pitch : Nat
  /-- base of W, and its pages by page address -/
  base : Nat
  pages : List (Nat × Leaf)
  /-- scratchpad offset of x, and x once it has been read -/
  x : Nat
  xs : Option (List Nat)
  /-- y: scratchpad offset or global address, with the pages of the latter -/
  y : Nat
  global : Bool
  ypages : List (Nat × Leaf)
  /-- publication position at issue (R213, R216) -/
  since : Nat
  /-- publication position of its warp's last refresh before it (R213) -/
  fresh : Nat
  /-- physical ranges with the position that is surely on their devices (R216) -/
  floors : List (Nat × Nat × Nat)
  /-- rows not computed, as indices of y -/
  left : List Nat
  /-- a y write was denied -/
  denied : Bool
  complete : Bool
  deriving DecidableEq, Repr

/-- A party an XRES waits for: its sync word, its barrier group, the warp and core (R341). -/
structure HamperWaiter where
  wid : Nat
  core : Nat
  launch : Nat
  token : Nat
  sync : Option Nat
  group : Option Nat
  deriving DecidableEq, Repr

/-- A staging in progress (R339). -/
structure Staging where
  asid : Nat
  expert : Nat
  slot : Nat
  launch : Nat
  token : Nat
  since : Nat
  waiters : List HamperWaiter
  deriving DecidableEq, Repr

/-- A submission queue as the CP holds it (R365, R366). -/
structure Queue where
  base : Nat
  caplog : Nat
  prio : Nat
  stopped : Bool
  /-- graph of the entry being served -/
  graph : Option Nat
  /-- waiting registration on TAIL or GRAPH -/
  reg : Option Nat
  /-- step since which it waits for nothing (R367) -/
  since : Nat
  deriving DecidableEq, Repr

/-- The fields of a context record that the CP read (Table 22-1). -/
structure CtxRecord where
  save : Nat
  faultq : Nat
  fqcap : Nat
  hamper : Nat
  qtable : Nat
  bgbase : Nat
  bgcount : Nat
  nq : Nat
  world : Bool
  deriving DecidableEq, Repr

/-- A context (R364), with what the CP, the Hamper and PUBLISH keep for it. -/
structure Context where
  rcd : CtxRecord
  /-- place in the order in which contexts were created (R364) -/
  born : Nat
  /-- a record field broke its range: every graph is refused (R364) -/
  bad : Bool
  suspended : Bool
  /-- ended by a save fault (R390) -/
  ended : Bool
  queues : Table Queue
  /-- shadow sets: pairs of (visible page, shadow page) (R199) -/
  shadows : Table (List (Nat × Nat))
  /-- swaps that PUBLISH made: publication position, scope, publishing core, visible page, leaf before (R215) -/
  swaps : List (Nat × Scope × Nat × Nat × Leaf)
  /-- position of the last wave's write into a HW field of the Hamper table that has left the table undefined (R338) -/
  tableSeen : Nat
  /-- reference time at which the Hamper's period started (R342) -/
  ageFrom : Nat
  /-- frames written by the CP re-register waits at restore (R397) -/
  rearm : Bool
  deriving DecidableEq, Repr

/-- What a graph run is doing (R370, R373, R374). -/
inductive GraphPhase where
  /-- the node named by `node` is next to run -/
  | atNode
  /-- a launch of that id is running -/
  | launch (id : Nat)
  /-- a COPY: ranges of offsets not moved yet (first, end), publication position at its start (R213) -/
  | copy (left : List (Nat × Nat)) (since : Nat)
  /-- a WAITMEM is waiting; its code once it is recorded -/
  | wait (code : Option Nat)
  deriving DecidableEq, Repr

/-- A graph run (R366 to R376). -/
structure GraphRun where
  asid : Nat
  queue : Nat
  graph : Nat
  done : Nat
  node : Nat
  /-- the node that named this one its successor, none at the start (LOOP, R374) -/
  from_ : Option Nat
  phase : GraphPhase
  status : BitVec 8
  faults : Nat
  /-- reference time at which node 0 was first fetched -/
  tstart : Option Nat
  /-- step at which its node became ready (R367) -/
  since : Nat
  /-- the node as the CP fetched it, while it runs -/
  held : Nat
  deriving DecidableEq, Repr

/-- A bound fabric job (R360): members are (module, buddy, store base). -/
structure FabricJob where
  asid : Nat
  key : Nat
  members : List (Nat × Nat × Nat)
  deriving DecidableEq, Repr

/-- A snapshot of a member context in a store (R392): its record and root entry, the frames and tables it reaches with their bytes in plain form, and what its save region and CP record hold. -/
structure Snapshot where
  modId : Nat
  asid : Nat
  gen : Nat
  record : Nat
  root : Nat
  /-- physical base of the store on the buddy module (R360) -/
  store : Nat
  /-- frames and tables: base, bytes, owner key -/
  frames : List (Nat × Nat × Nat)
  mem : List (Nat × Byte)
  /-- bytes of them whose contents were undefined (R4) -/
  undef : List (Nat × Nat)
  ctx : Context
  saved : List SavedWarp
  /-- rows of bank compute that had not started (R337) -/
  bcus : List BcuCmd
  graphs : Table GraphRun
  launches : Table Launch
  cores : Table Core
  bankSaves : List BankSave
  widens : Table WidenCall
  gathers : Table GatherGroup
  keyeds : Table Keyed
  /-- the routes of the member's fabric job (R360, R362) -/
  jobs : List FabricJob
  /-- what the Seams remember of SCATADD rows (R358): die, source and dispatch, epoch, applied indices -/
  dedup : List (Nat × Nat × Nat × List Nat)
  deriving DecidableEq, Repr

/-- A Xanlink link (R359). -/
structure Link where
  sendSeq : Nat
  recvSeq : Nat
  replays : Nat
  lastSent : Nat
  /-- flits sent, newest first, those resent at a replay request among them -/
  sent : List Flit
  /-- bytes received of a message whose last flit is still to come -/
  part : List Byte
  deriving DecidableEq, Repr

/-- A region table entry (Table 25-4). -/
structure Region where
  en : Bool
  nsok : Bool
  logsz : Nat
  base : Nat
  deriving DecidableEq, Repr

/-- A store that the region table denied beyond the core, waiting for its frame (R388). -/
structure DeniedStore where
  wid : Nat
  token : Nat
  launch : Nat
  lane : Nat
  va : Nat
  pc : Nat
  insn : Nat
  deriving DecidableEq, Repr

/-- A fault of a Darner's own access (R415). -/
structure DarnerFault where
  launch : Nat
  record : Nat
  addr : Nat
  token : Nat
  deriving DecidableEq, Repr

/-- A frame for the fault queue (Table 24-1) that no instruction's precise trap writes. -/
structure Frame where
  helper : Nat
  task : Nat
  token : Nat
  insn : Nat
  pc : Nat
  faddr : Nat
  lanes : Nat
  pair : Bool
  nested : Bool
  gone : Bool
  queued : Bool
  imprecise : Bool
  subcode : Nat
  cause : Nat
  deriving DecidableEq, Repr

/-- Bring-up and power (R409, R412). -/
structure Boot where
  stage : Nat
  ready : Bool
  failed : Bool
  err : Nat
  modId : Nat
  /-- SHA-512 digest of the firmware image that runs (R409, R410) -/
  firmware : BitVec 512
  /-- SHA-512 digest of the configuration record in force (R409, R410) -/
  record : BitVec 512
  /-- Xanlink routes that the record sets: a module id and the links towards it (R409, R362) -/
  routes : Table (List Nat)
  /-- reserved regions that the record sets: first address, and the address past the last (R227, R409) -/
  reserved : List (Nat × Nat)
  power : PowerState
  mhz : Nat
  watts : Nat
  limit : Nat
  /-- answer to the last host read -/
  hostRead : Word
  deriving DecidableEq, Repr

/-- Physical addresses that firmware fixes and the manual does not give (R227, R364, R400). Log 4. -/
structure Firmware where
  rootArray : Nat
  ctxTable : Nat
  genWords : Nat
  deriving DecidableEq, Repr

/-- The state of the module. -/
structure State where
  /-- which agent moves next (log 3) -/
  turn : Turn
  /-- counter of free values (log 2): the model's own -/
  free : Nat
  /-- instruction in progress: the model's own -/
  cur : Option Issue
  boot : Boot
  fw : Firmware
  /-- reference timer in ns (R7, R224) -/
  ns : Nat
  /-- arithmetic-clock counter -/
  clk : Nat
  mem : Memory
  hist : List HWrite
  /-- publication order (R206) -/
  seq : Nat
  /-- keys under which bytes were last written: first address, the address past the last, and the key's tag, the newest range first (R408) -/
  byteKeys : List (Nat × Nat × Nat)
  /-- lines present in the LLC, by line number (R170, R173) -/
  llc : Table CacheLine
  /-- lines present in the L1 of each core, by line number (R165, R171, R173) -/
  l1 : Table (Table CacheLine)
  /-- accesses made to lines so far, which order their uses (R173): the model's own -/
  uses : Nat
  poison : List Nat
  /-- bytes whose contents are undefined: first key, and the key past the last (R4, R209, R244, R277, R299, R374) -/
  undef : List (Nat × Nat)
  /-- keys of the sync words that SWINIT has set up (R277) -/
  syncs : List Nat
  /-- numbers of the 256 KiB frames that page tables map with both layouts (R175) -/
  mixed : List Nat
  tlb : List TlbEntry
  /-- ranges whose translations were removed: ASID, first address, the address past the last, and the publication position then (R398, R404) -/
  tlbinvs : List (Nat × Nat × Nat × Nat)
  cores : Table Core
  warps : Table Warp
  saved : List SavedWarp
  /-- warps chosen for eviction, not saved yet -/
  evicting : List Nat
  bankSaves : List BankSave
  widens : Table WidenCall
  gathers : Table GatherGroup
  keyeds : Table Keyed
  regs : Table Registration
  barriers : Table Barrier
  launches : Table Launch
  nextLaunch : Nat
  ctxs : Table Context
  graphs : Table GraphRun
  seams : Table Seam
  bcus : List BcuCmd
  stagings : List Staging
  denied : List DeniedStore
  darnerFaults : List DarnerFault
  jobs : List FabricJob
  snapshots : List Snapshot
  /-- Press images that a save wrote: physical address behind the cells, and what they hold besides cells (R310, R325, log 12) -/
  images : List (Nat × Press)
  links : Table Link
  /-- time a module was last heard (R362) -/
  heard : Table Nat
  isolated : List Nat
  /-- wrapped keys that SMC function 2 loaded into key slots, and every one that a slot has held (R408) -/
  keys : Table (List Byte)
  keyRing : List (List Byte)
  regions : Table Region
  counters : Table Nat
  marks : Nat
  deriving DecidableEq, Repr

/-- Reasons a step ends in a fault. -/
inductive Fault where
  /-- Raised by `exec` of an encoded instruction when no warp is issuing (`cur` names none, or its warp is not resident). The step function never asks for it: it sets `cur` from the warp that it issues. Safe: the machine has no such event. -/
  | noIssue
  deriving DecidableEq, Repr

/-- Reasons a step is refused. -/
inductive Refusal where
  /-- Raised by a dispatch arm whose instruction has no meaning yet. Safe: nothing is claimed of it. -/
  | notModelled (mnemonic : String)
  deriving DecidableEq, Repr

/-- An empty plane (R292). -/
def Plane.empty : Plane := { fmt := none, geo := 0, rows := 0, cols := 0, vals := [], absent := [], scales := [] }

/-- A Press that no launch owns, as a launch takes it (R292). Log 6. -/
def Press.fresh : Press :=
  { owner := none, active := Plane.empty, shadow := Plane.empty, acc := [], accMode := [], queue := [], seq := 0, issued := 0, out := [], last := [],
    select := none, streams := [], fault := false, detail := 0 }

/-- A bank at reset: CACHE, unowned (R165). -/
def Bank.atReset : Bank := { mode := .cache, owner := none, head := 0, fifo := [], waiters := [], cfg := [] }

/-- A core at reset (R165; log 6 for the issue rotation). Cores that a table does not list are in this state. -/
def Core.atReset : Core :=
  { banks := List.replicate 12 Bank.atReset, pipes := [], lastSlot := [60, 61, 62, 63], nextAt := [0, 0, 0, 0], darners := [], bte := [], bteNext := 0, aperture := [], channels := [],
    templates := [], acps := [], acpNext := 0, press := Press.fresh, pressSaved := [], placed := [] }

/-- A Seam at reset. -/
def Seam.atReset : Seam := { cmds := [], next := 0, resident := [], closing := false, waiting := none, dups := [], dedup := [] }

/-- A link at reset. -/
def Link.atReset : Link := { sendSeq := 0, recvSeq := 0, replays := 0, lastSent := 0, sent := [], part := [] }

/-- Bring-up at reset: stage ROM, not ready (Table 25-7). Log 6. -/
def Boot.atReset : Boot :=
  { stage := 0, ready := false, failed := false, err := 0, modId := 0, firmware := 0, record := 0, routes := [], reserved := [], power := .run, mhz := 1400, watts := 0, limit := 2600, hostRead := 0 }

/-- Firmware's fixed addresses in the model at reset (DESIGN CHOICE, log 4). -/
def Firmware.atReset : Firmware := { rootArray := 0x3FE0000000, ctxTable := 0x3FF0000000, genWords := 0x100000000000000 }

/-- The module right after reset: nothing mapped, no context, no warp, bring-up at its first stage. Log 1, 6. -/
def State.reset : State :=
  { turn := .event .moduleReset, free := 0, cur := none, boot := Boot.atReset, fw := Firmware.atReset, ns := 0, clk := 0,
    mem := [], hist := [], seq := 0, byteKeys := [], llc := [], l1 := [], uses := 0, poison := [], undef := [], syncs := [], mixed := [], tlb := [], tlbinvs := [], cores := [], warps := [], saved := [], evicting := [], bankSaves := [],
    widens := [], gathers := [], keyeds := [], regs := [], barriers := [], launches := [], nextLaunch := 1, ctxs := [], graphs := [], seams := [],
    bcus := [], stagings := [], denied := [], darnerFaults := [], jobs := [], snapshots := [], images := [], links := [], heard := [], isolated := [],
    keys := [], keyRing := [], regions := [], counters := [], marks := 0 }

end Sys2Proof.Machine
end

