-- ==== Sys2Proof/Machine/Mem.lean ====
section
/-! DEFINITION. Memory: free choices, the mesh, keys of bytes, who sees which write (R202 to R209), writes at the home with the registrations they re-evaluate (R221 to R225), owner keys (R408), the region table (R406), page tables and translation (R400 to R404), and scratchpad addresses (R166, R167). -/

namespace Sys2Proof.Machine

/-- A free choice among `n` possibilities about something; 0 when there is no choice. Log 2. -/
def State.pick (s : State) (about : List Nat) (n : Nat) : Nat := if n ≤ 1 then 0 else Config.free s.free about % n

/-- Free bits (R4). Log 2. -/
def State.freeBits (s : State) (about : List Nat) (w : Nat) : BitVec w := BitVec.ofNat w (Config.free s.free about)

/-- A free choice of a list's element; `d` for an empty list. Log 2. -/
def State.choose {α : Type} (s : State) (about : List Nat) (d : α) : List α → α
  | [] => d
  | [x] => x
  | x :: y :: r => ((x :: y :: r)[s.pick about (r.length + 2)]?).getD d

/-! ### The mesh (R6) -/

/-- x of a core index. -/
def coreX (c : Nat) : Nat := c % 16
/-- y of a core index. -/
def coreY (c : Nat) : Nat := c / 16
/-- Core index of a coordinate. -/
def coreAt (x y : Nat) : Nat := 16 * y + x
/-- Die of a core (R6). -/
def dieOf (c : Nat) : Nat := coreX c / 8 + 2 * (coreY c / 12)
/-- What `coreid` reads: x in [15:8], y in [7:0]. -/
def coreId (c : Nat) : Nat := coreX c * 256 + coreY c
/-- Key of a warp: its core and slot. -/
def widOf (core slot : Nat) : Nat := core * 64 + slot

/-- Home slice of a physical address (R170). -/
def homeSlice (pa : Nat) : Nat :=
  let h := bits pa 13 7 ^^^ bits pa 20 14 ^^^ bits pa 27 21 ^^^ bits pa 34 28 ^^^ bits pa 41 35 ^^^ bits pa 48 42 ^^^ bits pa 51 49
  128 * bits pa 19 18 + h

/-- Home die of a frame (R170). Log 50. -/
def homeDie (pa : Nat) : Nat := bits pa 19 18

/-! ### Bytes -/

/-- Keys of bytes of local banks start here, above every physical address. -/
def spadBase : Nat := 2 ^ 60

/-- Key of a byte of a local bank. Log 50. -/
def spadKey (core bank off : Nat) : Nat := spadBase + core * 2 ^ 20 + bank * 2 ^ 16 + off

/-- Keys of bytes of saved banks start here (R79, R391). -/
def savedBase : Nat := 2 ^ 62

/-- Key of a byte of a bank that is saved with its launch: `off` counts on from the launch's first bank. Log 50. -/
def savedKey (launch core off : Nat) : Nat := savedBase + (launch * 384 + core) * 2 ^ 20 + off

/-- Keys of Peg Table entries start here, below those of banks: an uncorrectable error may strike one (R411). Log 13. -/
def pegBase : Nat := 2 ^ 59

/-- The key is a local bank's. Log 50. -/
def isSpad (k : Nat) : Bool := decide (spadBase ≤ k)

/-- The key is a physical address (R174): banks, saved banks, Peg Table entries and the generation words that the device reserves (R236) lie above. -/
def isPhys (k : Nat) : Bool := decide (k < 2 ^ 52)

/-- Little-endian value of bytes (R2). -/
def natOfBytes : List Byte → Nat
  | [] => 0
  | b :: r => b.toNat + 256 * natOfBytes r

/-- The `n` low bytes of a value, lowest first (R2). -/
def bytesOfNat : Nat → Nat → List Byte
  | 0, _ => []
  | n + 1, v => BitVec.ofNat 8 v :: bytesOfNat n (v / 256)

/-- The keys `k, k + 1, …`, `n` of them. -/
def keysFrom (k : Nat) : Nat → List Nat
  | 0 => []
  | n + 1 => k :: keysFrom (k + 1) n

/-- A byte of memory. Log 1. -/
def Memory.byte (m : Memory) (k : Nat) : Byte := Map.get 0 m k

/-- Write bytes upward from a key. Log 1. -/
def Memory.write (m : Memory) (k : Nat) : List Byte → Memory
  | [] => m
  | b :: r => Memory.write (Map.set 0 m k b) (k + 1) r

/-- The canonical form of memory: keys rising, no entry 0. Log 1. -/
def Memory.wf (m : Memory) : Bool := Map.wf 0 m

/-- `n` bytes upward from a key. -/
def Memory.bytes (m : Memory) (k n : Nat) : List Byte := (keysFrom k n).map m.byte

/-- The word at a word key. -/
def Memory.word (m : Memory) (k : Nat) : Word := BitVec.ofNat 32 (natOfBytes (m.bytes k 4))

/-- The word keys that `n` bytes from `k` touch. -/
def wordKeys (k n : Nat) : List Nat :=
  if n = 0 then [] else (List.range ((k + n - 1) / 4 + 1 - k / 4)).map (fun i => (k / 4 + i) * 4)

/-! ### Parties and visibility (R203, R206) -/

/-- Widths of the scopes. -/
def Scope.rank : Scope → Nat
  | .core => 0
  | .die => 1
  | .dev => 2
  | .sys => 3

/-- A scope by its code (R197). -/
def scopeOf (n : Nat) : Scope := if n = 0 then .core else if n = 1 then .die else if n = 2 then .dev else .sys

/-- The instance of a scope around a writing core contains the party (R203). -/
def inScope (sc : Scope) (writer : Option Nat) (p : Party) : Bool :=
  match sc, writer, p with
  | .sys, _, _ => true
  | .dev, _, .sys => false
  | .dev, _, _ => true
  | .die, some a, .core c => decide (dieOf a = dieOf c)
  | .die, some a, .die d => decide (dieOf a = d)
  | .die, _, _ => false
  | .core, some a, .core c => decide (a = c)
  | .core, _, _ => false

/-- Lesser of two optional positions. -/
def minOpt : Option Nat → Option Nat → Option Nat
  | none, y => y
  | x, none => x
  | some x, some y => some (min x y)

/-- Publication position of a write to a party (R203, R206). -/
def HWrite.seenBy (h : HWrite) (p : Party) : Option Nat :=
  let f (sc : Scope) (o : Option Nat) : Option Nat := if inScope sc h.core p then o else none
  minOpt (minOpt (f .core h.pubCore) (f .die h.pubDie)) (minOpt (f .dev h.pubDev) (f .sys h.pubSys))

/-- Publish a write at a scope, and at every narrower one, at a position; earlier publications stand. -/
def HWrite.pubAt (h : HWrite) (sc : Scope) (pos : Nat) : HWrite :=
  let g (n : Nat) (o : Option Nat) : Option Nat := if n ≤ sc.rank then some (o.getD pos) else o
  { h with pubCore := g 0 h.pubCore, pubDie := g 1 h.pubDie, pubDev := g 2 h.pubDev, pubSys := g 3 h.pubSys }

/-- The write is published at a scope. -/
def HWrite.isPub (h : HWrite) : Scope → Bool
  | .core => h.pubCore.isSome
  | .die => h.pubDie.isSome
  | .dev => h.pubDev.isSome
  | .sys => h.pubSys.isSome

/-- Two writes of a warp are ordered by R205; entries that QPUT placed in different queues are not (R217). -/
def queuesOrdered (a b : Option Nat) : Bool := a.isNone || b.isNone || decide (a = b)

/-- An earlier write of a warp must be published with later ones of these warps, given with the queue that each wrote to (R205, R217). -/
def HWrite.mustPrecede (h : HWrite) (later : List (Nat × Option Nat)) : Bool :=
  later.any (fun x => decide (h.wid = some x.1) && queuesOrdered h.queue x.2)

/-- Publish at a scope the writes that `seed` picks, and with each of them every earlier write of its warp and of its word, so that the publication order agrees with po and with co (R205, R206, R217). The list is newest first; `later` and `keys` are the warps, with the queues that they wrote to, and the words of which a later write is among them. Log 8. -/
def publishUp (sc : Scope) (pos : Nat) (seed : HWrite → Bool) : List (Nat × Option Nat) → List Nat → List HWrite → List HWrite
  | _, _, [] => []
  | later, keys, h :: r =>
    if !h.isPub sc && (seed h || h.mustPrecede later || keys.contains h.key) then
      h.pubAt sc pos :: publishUp sc pos seed (h.wid.toList.map (fun x => (x, h.queue)) ++ later) (h.key :: keys) r
    else h :: publishUp sc pos seed later keys r

/-- Publish the picked writes at a scope, with what must precede them (R205, R206): the next place of the publication order. Log 8. -/
def State.raiseTo (s : State) (sc : Scope) (seed : HWrite → Bool) : State :=
  { s with seq := s.seq + 1, hist := publishUp sc (s.seq + 1) seed [] [] s.hist }

/-- A party reads some bytes at their home: a write of them that is not published to it leaves its writer's L1 first (R171, R205). Log 21. -/
def State.recall (s : State) (p : Party) (k n : Nat) : State :=
  let ws := wordKeys k n
  let late (h : HWrite) : Bool := ws.contains h.key && (h.seenBy p).isNone
  if s.hist.any late then s.raiseTo (if p = .sys then .sys else .dev) late else s

/-- Writes of a word, newest first. -/
def State.histOf (s : State) (k : Nat) : List HWrite := s.hist.filter (fun h => decide (h.key = k))

/-- The initial value of a word: first in co (R202). -/
def State.initialOf (s : State) (es : List HWrite) (k : Nat) : Word :=
  match es.getLast? with
  | some h => h.prev
  | none => s.mem.word k

/-- co place of the latest write of a word published to a party at or before position `r`: its floor (R206); 0 for the initial value. -/
def floorOf (es : List HWrite) (p : Party) (r : Nat) : Nat :=
  es.foldl (fun m h => match h.seenBy p with | some q => if q ≤ r then max m h.seq else m | none => m) 0

/-- The writes a party may read at a word, from co place `lo` on: place and value (R207, R213). Log 2. -/
def State.candidates (s : State) (es : List HWrite) (k : Nat) (p : Party) (lo : Nat) : List (Nat × Word) :=
  (es.filter (fun h => decide (lo ≤ h.seq) && (h.seenBy p).isSome)).map (fun h => (h.seq, h.val)) ++
    (if lo = 0 then [(0, s.initialOf es k)] else [])

/-! ### Undefined contents and dropped bytes -/

/-- The last run of atomics on a word has one whose scope leaves the party out (R209). Log 22. -/
def offends (p : Party) : List HWrite → Bool
  | [] => false
  | h :: r => match h.atomic with
    | some sc => !inScope sc h.core p || offends p r
    | none => false

/-- Does a key lie in one of the ranges? -/
def inRanges (l : List (Nat × Nat)) (k : Nat) : Bool := l.any (fun r => decide (r.1 ≤ k) && decide (k < r.2))

/-- The whole words that `n` bytes touch, as a range. -/
def wordRange (k n : Nat) : Nat × Nat := (k / 4 * 4, if n = 0 then k / 4 * 4 else (k + n + 3) / 4 * 4)

/-- The ranges without the keys from `lo` up to `hi`. -/
def cutRanges (lo hi : Nat) (l : List (Nat × Nat)) : List (Nat × Nat) :=
  if hi ≤ lo then l
  else (l.map (fun r => [(r.1, min r.2 lo), (max r.1 hi, r.2)].filter (fun q => decide (q.1 < q.2)))).flatten

/-- A party accesses words: those an atomic of too narrow a scope wrote hold undefined contents from now on (R209). Log 22. -/
def State.touch (s : State) (p : Party) (k n : Nat) : State :=
  let bad := (wordKeys k n).filter (fun x => offends p (s.histOf x) && !inRanges s.undef x)
  if bad.isEmpty then s else { s with undef := bad.map (fun x => wordRange x 4) ++ s.undef }

/-- The device of tier 1 on which a byte lies, under a layout: 0 linear, 1 bank (R175). -/
def deviceOf (layout pa : Nat) : Nat := 16 * homeDie pa + (if layout = 1 then bits pa 23 20 else bits pa 14 11)

/-- The bank of its device in which a byte of a bank-layout frame lies (R175). -/
def bankInDevice (pa : Nat) : Nat := pa % 2 ^ 18 / 8192

/-- The frame of a physical address is mapped with both layouts (R175): it holds undefined contents. Log 24. -/
def State.torn (s : State) (k : Nat) : Bool := isPhys k && s.mixed.contains (k / 2 ^ 18)

/-- The contents of a byte are undefined (R4, R175, R209). -/
def State.isUndef (s : State) (k : Nat) : Bool := s.torn k || inRanges s.undef k

/-- A byte as an access finds it: zero bits where an uncorrectable error struck (R183), free bits where the contents are undefined (R175, R209), else the byte. Log 2, 13. -/
def State.found (s : State) (about : List Nat) (k : Nat) (b : Byte) : Byte :=
  if s.poison.contains k then 0
  else if s.isUndef k then s.freeBits (2 :: k :: about) 8
  else b

/-- An uncorrectable error struck one of the bytes. Log 13. -/
def State.struck (s : State) (k n : Nat) : Bool := s.poison.any (fun x => decide (k ≤ x) && decide (x < k + n))

/-- Tag of the key that a slot holds now (R408): that of its reset contents, or of the wrapped key that SMC function 2 loaded, whichever slot held it before. Log 15, 47. -/
def State.keyTag (s : State) (okey : Nat) : Nat :=
  match s.keys.find? okey with
  | none => okey
  | some k => 4096 + s.keyRing.findIdx (fun x => decide (x = k))

/-- Tag of the key under which a byte was last written (R408); 0, the reset key of slot 0, where nothing was written. -/
def State.tagAt (s : State) (k : Nat) : Nat :=
  match s.byteKeys.find? (fun e => decide (e.1 ≤ k) && decide (k < e.2.1)) with
  | some e => e.2.2
  | none => 0

/-- A slot that holds the key of a tag. -/
def State.slotOf (s : State) (tag : Nat) : Nat :=
  if tag < 4096 then tag
  else match (s.keys.filter (fun e => decide (s.keyTag e.1 = tag))).head? with
    | some e => e.1
    | none => 0

/-- How often a line has been written, as the ciphertext of its bytes may tell (R408): the place of its newest write. -/
def State.lineVersion (s : State) (line : Nat) : Nat :=
  match s.hist.find? (fun h => decide (h.key / 128 = line)) with
  | some h => h.seq
  | none => 0

/-- A byte read under an owner key: its decryption when it was last written under another one (R408). Log 15. -/
def State.underKey (s : State) (okey k : Nat) (b : Byte) : Byte :=
  if !isPhys k || decide (s.tagAt k = s.keyTag okey) then b else Config.decrypt (s.keyTag okey) (s.tagAt k) k (s.lineVersion (k / 128))

/-- A read at the home (LD.dev, hardware reads): the co-latest bytes under a key. -/
def State.homeBytes (s : State) (about : List Nat) (okey k n : Nat) : List Byte :=
  (keysFrom k n).map (fun x => s.found about x (s.underKey okey x (s.mem.byte x)))

/-- A byte of an address range that another key than an owner's holds. -/
def State.otherKey (s : State) (okey x : Nat) : Bool := decide (s.tagAt x ≠ s.keyTag okey)

/-- Bytes are about to be written under an owner key (R408): those that another key holds become what that key's reader would find, the history of their words ends, and the bytes are the new key's. The other bytes of their lines stay under the keys that wrote them. Log 15. -/
def State.rekey (s : State) (okey k n : Nat) : State :=
  let ks := keysFrom k n
  if isPhys k && ks.any (s.otherKey okey) then
    { s with
      mem := ks.foldl (fun m x => Map.set 0 m x (s.underKey okey x (s.mem.byte x))) s.mem
      hist := s.hist.filter (fun h => !ks.any (fun x => s.otherKey okey x && decide (x / 4 * 4 = h.key)))
      byteKeys := (k, k + n, s.keyTag okey) :: s.byteKeys }
  else s

/-- The newest write of a word left another value. -/
def reviseNewest (k : Nat) (v : Word) : List HWrite → List HWrite
  | [] => []
  | h :: r => if h.key = k then { h with val := v } :: r else h :: reviseNewest k v r

/-- A word of which some bytes are undefined is about to be written (R4): they become free values in memory and in its newest write, so that no later read of what the word held before finds anything else. Log 2. -/
def State.scrub (s : State) (x : Nat) : State :=
  let bad := (keysFrom x 4).filter s.isUndef
  if bad.isEmpty then s
  else
    let mem : Memory := bad.foldl (fun m k => Map.set 0 m k (s.freeBits [61, k] 8)) s.mem
    { s with mem := mem, hist := reviseNewest x (mem.word x) s.hist }

/-! ### The region table (R406) -/

/-- May a world reach a physical address? The lowest enabled entry that contains it decides; outside every entry only the secure world may. -/
def State.regionAllows (s : State) (world : Bool) (pa : Nat) : Bool :=
  world ||
    match (s.regions.filter (fun e => e.2.en && decide (e.2.base ≤ pa) && decide (pa < e.2.base + 2 ^ e.2.logsz))).head? with
    | some e => e.2.nsok
    | none => false

/-- The world of a context (R406): secure when its record says so. -/
def State.worldOf (s : State) (asid : Nat) : Bool :=
  match s.ctxs.find? asid with
  | some c => c.rcd.world
  | none => false

/-! ### Registrations (R221 to R229) -/

/-- Does a comparison of Table 12-3 hold? 8 is "generation passed" (R236). -/
def cmpHolds (cmp : Nat) (w64 : Bool) (v o : Nat) : Bool :=
  let w := if w64 then 64 else 32
  let v := v % 2 ^ w
  let o := o % 2 ^ w
  let sg (x : Nat) : Int := signedOf w x
  if cmp = 0 then decide (v = o)
  else if cmp = 1 then decide (v ≠ o)
  else if cmp = 2 then decide (v < o)
  else if cmp = 3 then decide (o ≤ v)
  else if cmp = 4 then decide (sg v < sg o)
  else if cmp = 5 then decide (sg o ≤ sg v)
  else if cmp = 6 then decide (v &&& o ≠ 0)
  else if cmp = 7 then decide (v &&& o = 0)
  else let d := (v + 2 ^ 32 - o % 2 ^ 32) % 2 ^ 32; decide (1 ≤ d) && decide (d < 2 ^ 31)

/-- The registration that a wait rests on. -/
def WaitKind.reg? : WaitKind → Option Nat
  | .mem r => some r
  | .future r _ => r
  | .lock r _ => r
  | .qtake r _ _ => r
  | .qput r _ _ _ _ _ => some r
  | .fifo _ _ => none
  | .bankcfg _ => none
  | .access _ => none
  | .acp _ => none
  | .press _ => none
  | .pressOut => none
  | .mxload _ => none
  | .bcu _ => none
  | .bcuAll => none
  | .bcuFence => none
  | .seamOut => none
  | .ctxsave _ => none
  | .snapshot _ _ => none

/-- Record a code in the waits that `which` picks, unless one is recorded (R229: a code once recorded is final). -/
def WarpCore.recordIf (w : WarpCore) (which : Wait → Mask → Bool) (code : Nat) : WarpCore :=
  { w with frontier := w.frontier.map fun e =>
      match e.state with
      | .wait b t => if which t e.lanes && t.code.isNone then { e with state := .wait b { t with code := some code } } else e
      | _ => e }

/-- Record a code in a warp and in its help frames. -/
def Warp.recordIf (w : Warp) (which : Wait → Mask → Bool) (code : Nat) : Warp :=
  { run := w.run.recordIf which code, help := w.help.map (fun h => h.recordIf which code) }

/-- Record a code for the waits of a warp, resident or not; one that is not resident is marked runnable (R229, R368). Log 48. -/
def State.recordIf (s : State) (wid : Nat) (which : Wait → Mask → Bool) (code : Nat) : State :=
  { s with
    marks := s.marks + 1
    warps := s.warps.modify wid (fun w => w.recordIf which code)
    saved := s.saved.map fun v =>
      let w := v.warp.recordIf which code
      if v.wid = wid ∧ w ≠ v.warp then { v with warp := w, marked := some (v.marked.getD s.marks) } else v }

/-- A registration ends with a code: its owner gets it, and the entry is freed (R220 to R224, R229, R230). -/
def State.endReg (s : State) (id code : Nat) : State :=
  match s.regs.find? id with
  | none => s
  | some r =>
    let s := { s with regs := s.regs.erase id }
    match r.owner with
    | .warp wid _ => s.recordIf wid (fun t _ => decide (t.kind.reg? = some id)) code
    | .darner wid _ _ => s.recordIf wid (fun t _ => decide (t.kind.reg? = some id)) code
    | .queue asid q =>
      { s with ctxs := s.ctxs.modify asid (fun c => { c with queues := c.queues.modify q (fun x => { x with reg := none, since := s.free }) }) }
    | .graph g => { s with graphs := s.graphs.modify g (fun x => { x with phase := .wait (some code) }) }

/-- Bytes of the word that a registration watches. -/
def Registration.size (r : Registration) : Nat := if r.w64 then 8 else 4

/-- The region table denies a registration's read as it arrives (R406). -/
def State.deniedReg (s : State) (r : Registration) : Bool := isPhys r.key && !s.regionAllows (s.worldOf r.asid) r.key

/-- The watched value of a registration, as LD.dev reads it (R221): under its owner key, free where the contents are undefined or the mapping is a shadow's (R215), zero bits where they were dropped or the region table denies the read. Log 48. -/
def State.watched (s : State) (r : Registration) : Nat :=
  if s.deniedReg r then 0
  else if r.shadow then Config.free s.free [64, r.key] % 256 ^ r.size
  else natOfBytes (s.homeBytes [21] r.okey r.key r.size)

/-- STATE of a task record's control word (Table 13-3). -/
def ctlState (v : Nat) : Nat := bits v 34 32

/-- A KIND 01 entry whose owner record changed (R259): the code it ends with, when it does. -/
def ownerCode (st : Nat) (futureEmpty : Bool) : Option Nat :=
  if st = 5 ∨ st = 7 then some 3
  else if st = 4 ∧ futureEmpty then some 3
  else if st = 6 ∧ futureEmpty then some 4
  else none

/-- What the owner record's control word makes of a registration of KIND 01 (R259). -/
def State.ownerEnds (s : State) (r : Registration) : Option Nat :=
  match r.owner with
  | .darner _ _ (some k) => ownerCode (ctlState (natOfBytes ((keysFrom k 8).map (fun x => s.found [23] x (s.mem.byte x))))) (decide (s.watched r % 4 = 0))
  | _ => none

/-- A write of an owner record's control word, by whichever party, evaluates the entries of KIND 01 that name the record (R259). -/
def State.reevaluateOwners (s : State) (k n : Nat) : State :=
  let hit := s.regs.filter fun e =>
    match e.2.place, e.2.owner with
    | .inFlight, _ => false
    | .held, _ => false
    | _, .darner _ _ (some c) => decide (c < k + n) && decide (k < c + 8)
    | _, _ => false
  hit.foldl (fun s e => match s.ownerEnds e.2 with | some c => s.endReg e.1 c | none => s) s

/-- The deadline of a registration has not passed (R224). -/
def State.inTime (s : State) (r : Registration) : Bool := match r.deadline with | some d => decide (s.ns ≤ d) | none => true

/-- The condition of a registration holds. -/
def State.regHolds (s : State) (r : Registration) : Bool := cmpHolds r.cmp r.w64 (s.watched r) r.operand

/-- A write into a saved bank satisfies a wait there by its deadline: it is noted, and the wait is evaluated at the restore (R224, R234). Log 48. -/
def State.noteMet (s : State) (k n : Nat) : State :=
  { s with regs := s.regs.map (fun e =>
      if decide (k < e.2.key + e.2.size) && decide (e.2.key < k + n) && s.regHolds e.2 && s.inTime e.2 then (e.1, { e.2 with met := true }) else e) }

/-- A write at the home evaluates the line's registrations (R222): those the value satisfies by their deadline end with OK_WOKEN. A wait on a saved bank is evaluated at the restore instead (R234). Log 48. -/
def State.reevaluate (s : State) (k n : Nat) : State :=
  let s := if savedBase ≤ k then s.noteMet k n else s
  let hit := s.regs.filter fun e =>
    let r := e.2
    (match r.place with | .inFlight => false | .held => false | _ => true) && decide (r.key < savedBase) &&
      decide (k / 128 ≤ r.key / 128) && decide (r.key / 128 ≤ (k + n - 1) / 128) &&
      s.regHolds r && s.inTime r
  (hit.foldl (fun s e => s.endReg e.1 1) s).reevaluateOwners k n

/-! ### Writes at the home -/

/-- Who writes: a warp, or an engine of a core, or a module-wide party, or the host. -/
structure Writer where
  wid : Option Nat
  core : Option Nat
  /-- token of the warp that writes -/
  token : Option Nat := none
  /-- the queue to which QPUT writes an entry (R217) -/
  queue : Option Nat := none
  /-- Press writes -/
  press : Bool := false
  /-- the host writes -/
  host : Bool := false
  /-- an engine writes for a command (R214) -/
  engine : Bool := false
  deriving DecidableEq, Repr

/-- A writer as a party (R203). -/
def Writer.party (b : Writer) : Party :=
  match b.core with
  | some c => .core c
  | none => if b.host then .sys else .dev

/-- The wider of two scopes. -/
def Scope.max (a b : Scope) : Scope := if a.rank ≤ b.rank then b else a

/-- A registration at a home or in a monitor of another core watches a line of a write: it takes its place at the home, published to the waiter (R211, R222). -/
def State.pegged (s : State) (by_ : Writer) (k n : Nat) : Bool :=
  isPhys k && s.regs.any fun e =>
    let r := e.2
    decide (k / 128 ≤ r.key / 128) && decide (r.key / 128 ≤ (k + n - 1) / 128) &&
      (match r.place, r.owner with
        | .inFlight, _ => false
        | .held, _ => false
        | .monitor, .warp wid _ => decide (by_.core ≠ some (wid / 64))
        | _, _ => true)

/-- The words of a write that it fills in part: their other bytes stay, so a write of them by another core is recalled first (R171). -/
def partWords (k n : Nat) : List Nat := (wordKeys k n).filter (fun x => decide (x < k) || decide (k + n < x + 4))

/-- Bytes take their place at the home, or at a bank, as one write of each word they touch (R202, R205), published at a scope with every earlier write that must be (R206); the line's registrations are evaluated (R222). `atomic` is the scope of an atomic. A word that an atomic wrote whose scope leaves the writer out holds undefined contents (R209). -/
def State.homeWrite (s : State) (by_ : Writer) (sc : Scope) (atomic : Option Scope) (okey k : Nat) (data : List Byte) : State :=
  if data.isEmpty then s
  else
    let n := data.length
    let sc := if s.pegged by_ k n then sc.max .dev else sc
    let s := s.rekey okey k n
    let s := (partWords k n).foldl (fun s x => s.recall by_.party x 4) s
    let ws := wordKeys k n
    let s := ws.foldl (fun s x => s.scrub x) s
    let s := s.raiseTo sc (fun h => ws.contains h.key || (atomic.isNone && by_.wid.isSome && decide (h.wid = by_.wid) && queuesOrdered h.queue by_.queue))
    let bad := if atomic.isSome then [] else ws.filter (fun x => offends by_.party (s.histOf x))
    let old := ws.map s.mem.word
    let mem := s.mem.write k data
    let pos := s.seq + 1
    let entry (x : Nat × Word) : HWrite :=
      HWrite.pubAt { seq := pos, key := x.1, prev := x.2, val := mem.word x.1, wid := by_.wid, token := by_.token, queue := by_.queue, core := by_.core, press := by_.press, engine := by_.engine, atomic := atomic,
                     pubCore := none, pubDie := none, pubDev := none, pubSys := none } sc pos
    let s := { s with
      mem := mem
      hist := (ws.zip old).map entry ++ s.hist
      seq := pos
      poison := s.poison.filter (fun x => decide (x < k) || decide (k + n ≤ x))
      undef := if atomic.isSome then s.undef else bad.map (fun x => wordRange x 4) ++ cutRanges k (k + n) s.undef }
    s.reevaluate k n

/-- An engine's write on a core (R214): published at .dev, or at .core for a bank. -/
def State.engineWrite (s : State) (core : Option Nat) (okey k : Nat) (data : List Byte) : State :=
  s.homeWrite { wid := none, core := core, engine := true } (if isSpad k then .core else .dev) none okey k data

/-- Byte `i` of a word. -/
def byteOfWord (w : Word) (i : Nat) : Byte := (w >>> (8 * i)).setWidth 8

/-- Writes that an engine made over a write, published to a party: a read of a location of a command returns the old value or the new one (R214). -/
def enginesOver (es : List HWrite) (p : Party) (h : HWrite) : List HWrite :=
  es.filter (fun e => e.engine && decide (h.seq < e.seq) && (e.seenBy p).isSome)

/-- An engine command's issue as its reads see it (R213): the publication position, the position of its warp's last refresh before, and the warp's token. -/
structure Since where
  at_ : Nat
  fresh : Nat
  token : Option Nat
  deriving DecidableEq, Repr

/-- The writes that an engine command may read at a word (R213): place and value. In scratchpad its own warp's po-latest store before it, when there is one, or an engine's write over that (R214), of which those stay that the warp's last refresh had not passed; else, and in global memory, what the party sees from the floor at the command's issue on. Log 23. -/
def State.engineChoices (s : State) (p : Party) (c : Since) (k : Nat) : List (Nat × Word) :=
  let es := s.histOf k
  match es.find? (fun h => isSpad k && c.token.isSome && decide (h.token = c.token) && decide (h.seq ≤ c.at_)) with
  | some h =>
    let writes := enginesOver es p h
    let done := writes.foldl (fun m e => if e.seq ≤ c.fresh then max m e.seq else m) 0
    (((writes ++ [h]).filter (fun e => decide (done ≤ e.seq))).map (fun e => (e.seq, e.val)))
  | none => s.candidates es k p (floorOf es p c.at_)

/-- An engine command's read (R213). Log 23. -/
def State.engineWord (s : State) (p : Party) (since : Since) (about : List Nat) (k : Nat) : Word :=
  (s.choose (4 :: k :: about) (0, s.mem.word k) (s.engineChoices p since k)).2

/-- Bytes that an engine command reads (R213). Log 23. -/
def State.engineBytes (s : State) (p : Party) (since : Since) (about : List Nat) (okey k n : Nat) : List Byte :=
  (keysFrom k n).map fun x =>
    s.found about x (s.underKey okey x (byteOfWord (s.engineWord p since about (x / 4 * 4)) (x % 4)))

/-- A word of a line as it was at a publication position (R216). -/
def State.wordAsOf (s : State) (k pos : Nat) : Word :=
  let es := s.histOf k
  match (es.filter (fun h => match h.pubDev with | some q => decide (q ≤ pos) | none => false)).head? with
  | some h => h.val
  | none => s.initialOf es k

/-! ### Page tables (R400 to R404) -/

/-- Populated physical addresses (R174). Log 50. -/
def populated (pa : Nat) : Bool := decide (pa < 0x4000000000) || (decide (0x10000000000 ≤ pa) && decide (pa < 0x20000000000))

/-- Half of a page-table word at the home, free where the contents are undefined for a reader of the device (R4, R209). -/
def State.tableBytes (s : State) (k : Nat) : List Byte :=
  if offends .dev (s.histOf k) then (keysFrom k 4).map (fun x => s.freeBits [22, x] 8) else (keysFrom k 4).map (fun x => s.found [22] x (s.mem.byte x))

/-- A page-table word at the home; none when it is not populated or a byte of it was dropped (R404, R411). Log 10. -/
def State.tableWord (s : State) (pa : Nat) : Option Nat :=
  if populated pa && !s.struck pa 8 then some (natOfBytes (s.tableBytes pa ++ s.tableBytes (pa + 4))) else none

/-- A table pointer: table address and whether the table is extended (Table 25-2). -/
def pointerOf (e second : Nat) : Option (Nat × Bool) :=
  if bit e 0 && decide (bits e 3 1 = 0) && decide (bits e 63 52 = 0) && decide (bits e 16 5 = 0) && decide (second = 0) then
    some (bits e 51 17 * 2 ^ 17, bit e 4)
  else none

/-- Slots of a scale page that a page needs (R176). -/
def slotsNeeded (width geo : Nat) : Nat :=
  let block := if geo = 2 then 16 else 32
  let els := 2 ^ 18 * 8 / width
  (els / block + 8191) / 8192

/-- The pair of a leaf is valid beyond its V bit (R15, R176, R401, R402). Log 19. -/
def leafValid (e second : Nat) (ext big : Bool) : Bool :=
  let fmt := bits e 17 12
  let geo := bits e 11 10
  bit e 0 && fmtAssigned fmt && decide (bits e 9 8 ≤ 1) && decide (bits e 7 6 ≤ 2) &&
    (!big || (decide (bits e 30 18 = 0) && decide (geo = 0) && decide (bits e 9 8 = 0))) &&
    (if fmt = 0 ∨ geo = 0 then decide (second = 0) && (decide (geo = 0) || ext)
     else ext && decide (bits second 63 52 = 0) && decide (bits second 17 5 = 0) && populated (bits second 51 18 * 2 ^ 18) &&
       (match elemFmt fmt with
        | some f => decide (bits second 4 0 + slotsNeeded f.width geo ≤ 32)
        | none => false)) &&
    (let fr := bits e 51 18 * 2 ^ 18
     populated fr && (decide (bits e 9 8 = 0) || decide (fr < 0x4000000000)))

/-- A leaf as data (Tables 25-3, 25-3a). -/
def leafOf (e second pa : Nat) (big : Bool) : Leaf :=
  { okey := bits e 63 52, frame := bits e 51 18 * 2 ^ 18, fmt := bits e 17 12, geo := bits e 11 10, layout := bits e 9 8, cls := bits e 7 6,
    shadow := bit e 5, world := bit e 4, x := bit e 3, w := bit e 2, r := bit e 1, big := big,
    scFrame := bits second 51 18 * 2 ^ 18, slot := bits second 4 0, at_ := pa }

/-- Entry `i` of a table: its address, its word and its second word (0 when the table is not extended). -/
def State.tableEntry (s : State) (t : Nat × Bool) (i : Nat) : Option (Nat × Nat × Nat) :=
  let pa := t.1 + 8 * i
  match s.tableWord pa, if t.2 then s.tableWord (pa + 0x10000) else some 0 with
  | some e, some x => some (pa, e, x)
  | _, _ => none

/-- Physical address of a virtual one under its leaf. -/
def Leaf.pa (l : Leaf) (va : Nat) : Nat := l.frame + va % (if l.big then 2 ^ 31 else 2 ^ 18)

/-- Position of the latest removal that covers a translation of a context in a range of addresses; 0 for none (R398, R404). -/
def State.sweptAt (s : State) (asid lo hi : Nat) : Nat :=
  s.tlbinvs.foldl (fun m e => if e.1 = asid ∧ e.2.1 < hi ∧ lo < e.2.2.1 then max m e.2.2.2 else m) 0

/-- A page-table word as it was at a place of co; its newest value is free where the contents are undefined (R4, R209). -/
def State.tableWordAsOf (s : State) (k pos : Nat) : Nat :=
  let at_ (k : Nat) : Nat :=
    match s.histOf k with
    | [] => natOfBytes (s.tableBytes k)
    | h :: r =>
      if h.seq ≤ pos then natOfBytes (s.tableBytes k)
      else (match r.find? (fun (h : HWrite) => decide (h.seq ≤ pos)) with
        | some h => h.val
        | none => s.initialOf (h :: r) k).toNat
  at_ k + at_ (k + 4) * 2 ^ 32

/-- Entry `i` of a table as an access may find it, which covers 2^`span` bytes around an address: until a TLBINV that covers it completes, a change may have taken effect or not (R404). Log 10. -/
def State.anyEntry (s : State) (asid va span : Nat) (t : Nat × Bool) (i : Nat) : Option (Nat × Nat × Nat) :=
  let pa := t.1 + 8 * i
  let lo := va / 2 ^ span * 2 ^ span
  let keys := [pa, pa + 4] ++ (if t.2 then [pa + 0x10000, pa + 0x10004] else [])
  let swept := s.sweptAt asid lo (lo + 2 ^ span)
  let changes := s.hist.filter (fun (h : HWrite) => keys.contains h.key && decide (swept < h.seq))
  match s.choose [51, asid, pa] none (none :: changes.map (fun h => some (h.seq - 1))) with
  | none => s.tableEntry t i
  | some pos => some (pa, s.tableWordAsOf pa pos, if t.2 then s.tableWordAsOf (pa + 0x10000) pos else 0)

/-- A page-table entry at which a leaf stands: its address, its word and second word, whether its table is extended, and whether it is of level 2. -/
structure LeafEntry where
  at_ : Nat
  word : Nat
  second : Nat
  ext : Bool
  big : Bool
  deriving DecidableEq, Repr

/-- The entry breaks a rule of the layout or of the typed attributes (R15, R175, R176), although it is present. -/
def LeafEntry.badAttr (x : LeafEntry) : Bool :=
  let fmt := bits x.word 17 12
  let geo := bits x.word 11 10
  bit x.word 0 &&
    ((decide (bits x.word 9 8 = 1) && (x.big || decide (0x4000000000 ≤ bits x.word 51 18 * 2 ^ 18))) || !fmtAssigned fmt ||
      (decide (geo ≠ 0) && (x.big || (match elemFmt fmt with
        | some f => decide (fmt ≠ 0) && decide (32 < bits x.second 4 0 + slotsNeeded f.width geo)
        | none => false))))

/-- The page walk (R400 to R402) over a reader of table entries: the entry where the leaf of an address stands, valid or not; the reader takes the span of an entry, its table and its index. Log 4, 10. -/
def walkTo (entry : Nat → Nat × Bool → Nat → Option (Nat × Nat × Nat)) (rootArray asid va : Nat) : Option LeafEntry :=
  if va / 2 ^ 57 ≠ 0 then none
  else
    (entry 57 (rootArray, false) asid).bind fun root =>
    (pointerOf root.2.1 0).bind fun t1 =>
    (entry 44 t1 (bits va 56 44)).bind fun e1 =>
    (pointerOf e1.2.1 e1.2.2).bind fun t2 =>
    (entry 31 t2 (bits va 43 31)).bind fun e2 =>
    if bits e2.2.1 3 1 ≠ 0 then some { at_ := e2.1, word := e2.2.1, second := e2.2.2, ext := t2.2, big := true }
    else
      (pointerOf e2.2.1 e2.2.2).bind fun t3 =>
      (entry 18 t3 (bits va 30 18)).map fun e3 => { at_ := e3.1, word := e3.2.1, second := e3.2.2, ext := t3.2, big := false }

/-- The valid leaf that maps an address, by a reader of table entries (R400 to R402). Log 4, 10, 19. -/
def walkBy (entry : Nat → Nat × Bool → Nat → Option (Nat × Nat × Nat)) (rootArray asid va : Nat) : Option Leaf :=
  (walkTo entry rootArray asid va).bind fun x => if leafValid x.word x.second x.ext x.big then some (leafOf x.word x.second x.at_ x.big) else none

/-- The walk of the page tables as they are. -/
def State.walk (s : State) (asid va : Nat) : Option Leaf := walkBy (fun _ t i => s.tableEntry t i) s.fw.rootArray asid va

/-- Indices of those of a table's `n` entries of which memory lists a byte: every other entry is 0, and so not valid. -/
def State.listedEntries (s : State) (table n : Nat) : List Nat :=
  (s.mem.filter (fun e => decide (table ≤ e.1) && decide (e.1 < table + 8 * n))).foldl (fun l e =>
    let i := (e.1 - table) / 8
    if l.head? = some i then l else i :: l) []

/-- Entries of a table: their addresses, words and second words. -/
def State.entriesOf (s : State) (t : Nat × Bool) (n : Nat) : List (Nat × Nat × Nat) := (s.listedEntries t.1 n).filterMap (fun i => s.tableEntry t i)

/-- Every leaf of the page tables as they are (R400, R401): its first frame, how many frames it maps, and its layout. -/
def State.mapped (s : State) : List (Nat × Nat × Nat) :=
  let below (n : Nat) (t : Nat × Bool) : List (Nat × Bool) := (s.entriesOf t n).filterMap (fun e => pointerOf e.2.1 e.2.2)
  let level2 := ((below 4096 (s.fw.rootArray, false)).map (below 8192)).flatten
  let big := (level2.map (fun t => (s.entriesOf t 8192).filterMap (fun e =>
    if bits e.2.1 3 1 ≠ 0 ∧ leafValid e.2.1 e.2.2 t.2 true = true then some (bits e.2.1 51 18, 2 ^ 13, bits e.2.1 9 8) else none))).flatten
  let small := ((level2.map (below 8192)).flatten.map (fun t => (s.entriesOf t 8192).filterMap (fun e =>
    if leafValid e.2.1 e.2.2 t.2 false then some (bits e.2.1 51 18, 1, bits e.2.1 9 8) else none))).flatten
  big ++ small

/-- Frames that are mapped with both layouts (R175). -/
def mixedFrames (maps : List (Nat × Nat × Nat)) : List Nat :=
  ((maps.filter (fun m => decide (m.2.2 = 1))).map (·.1)).filter (fun f => maps.any (fun m => decide (m.2.2 ≠ 1) && decide (m.1 ≤ f) && decide (f < m.1 + m.2.1)))

/-- Frames that are mapped with both layouts hold undefined contents, for as long as they are and until they are written after that (R175). Log 24. -/
def State.settleLayouts (s : State) : State :=
  let now := mixedFrames s.mapped
  let frames := s.mixed.filter (fun f => !now.contains f)
  if s.mixed.isEmpty && now.isEmpty then s
  else { s with mixed := now, undef := frames.map (fun f => (f * 2 ^ 18, (f + 1) * 2 ^ 18)) ++ s.undef }

/-- A walk through entries of which changes may not yet have taken effect (R404). Log 10. -/
def State.walkAny (s : State) (asid va : Nat) : Option Leaf := walkBy (s.anyEntry asid va) s.fw.rootArray asid va

/-- The walk that found no valid leaf for an address came to an entry that breaks a rule of its attributes (R15, R175, R176). -/
def State.badAttr (s : State) (asid va : Nat) : Bool :=
  (walkTo (if (s.walk asid va).isNone then fun _ t i => s.tableEntry t i else s.anyEntry asid va) s.fw.rootArray asid va).any LeafEntry.badAttr

/-- Addresses of the words that the walk of an address reads, as far as it gets (R400, R402, R411). -/
def State.walkReads (s : State) (asid va : Nat) : List Nat :=
  let reads (t : Nat × Bool) (i : Nat) : List Nat := (t.1 + 8 * i) :: (if t.2 then [t.1 + 8 * i + 0x10000] else [])
  let next (t : Nat × Bool) (i : Nat) : Option (Nat × Bool) := (s.tableEntry t i).bind (fun e => pointerOf e.2.1 e.2.2)
  let root := (s.fw.rootArray, false)
  reads root asid ++ match next root asid with
    | none => []
    | some t1 => reads t1 (bits va 56 44) ++ match next t1 (bits va 56 44) with
      | none => []
      | some t2 => reads t2 (bits va 43 31) ++ match next t2 (bits va 43 31) with
        | none => []
        | some t3 => reads t3 (bits va 30 18)

/-- Count an event in an error counter of a die, saturating (R411, Table 25-6). -/
def State.count (s : State) (die index n : Nat) : State :=
  let k := 8 * die + index
  { s with counters := Map.set 0 s.counters k (min (2 ^ 64 - 1) (Map.get 0 s.counters k + n)) }

/-- Die of a byte's memory. -/
def dieOfKey (k : Nat) : Nat :=
  if savedBase ≤ k then dieOf ((k - savedBase) / 2 ^ 20 % 384)
  else if isSpad k then dieOf ((k - spadBase) / 2 ^ 20)
  else homeDie k

/-- Count a dropped read (R183, R411). Log 13. -/
def State.countDrop (s : State) (k n : Nat) : State := if s.struck k n then s.count (dieOfKey k) 3 1 else s

/-- A walk reads page-table words, as LD.dev does (R404): what is not published to it is recalled first (R205), and those that were dropped are counted (R411). -/
def State.noteWalk (s : State) (asid va : Nat) : State :=
  if s.poison.isEmpty && s.hist.all (fun h => h.pubDev.isSome) then s
  else (s.walkReads asid va).foldl (fun s k => (s.recall .dev k 8).countDrop k 8) s

/-- A cached translation covers an address of a range. -/
def TlbEntry.meets (e : TlbEntry) (lo hi : Nat) : Bool :=
  let n := if e.leaf.big then 2 ^ 31 else 2 ^ 18
  let base := e.page * 2 ^ 18 / n * n
  decide (base < hi) && decide (lo < base + n)

/-- Translations of a context in a range are removed from every TLB and walker (R398, R200). -/
def State.dropTlb (s : State) (asid lo hi : Nat) : State :=
  { s with
    tlb := s.tlb.filter (fun e => !(decide (e.asid = asid) && e.meets lo hi))
    tlbinvs := (asid, lo, hi, s.seq) :: s.tlbinvs }

/-- What the TLB of a holder or a walk answers (R404: until a TLBINV completes an access may use the old translation or the new one), and whether the entry is filled now (R405). Log 10. -/
def State.lookup (s : State) (holder : Party) (asid va : Nat) : State × Option Leaf × Bool :=
  let page := va / 2 ^ 18
  let walked := s.noteWalk asid va
  let cached := (s.tlb.filter (fun e => decide (e.holder = holder) && decide (e.asid = asid) && decide (e.page = page))).map (fun e => some e.leaf)
  let options := [s.walk asid va, s.walkAny asid va].foldl (fun l x => if l.contains x then l else l ++ [x]) cached
  let got := s.choose [3, asid, page] none options
  match got with
  | none => (walked, none, false)
  | some l =>
    if cached.contains (some l) then (s, some l, false)
    else ({ walked with tlb := { holder := holder, asid := asid, page := page, leaf := l } :: s.tlb }, some l, true)

/-- Kinds of access for rights (R403). -/
inductive Acc where
  | load | fetch | store | atomic
  deriving DecidableEq, Repr

/-- Failures of translation, in the order of R403. -/
inductive AccErr where
  | missing | world | rights
  deriving DecidableEq, Repr

/-- The leaf grants the access. -/
def Leaf.grants (l : Leaf) : Acc → Bool
  | .load => l.r
  | .fetch => l.x
  | .store => l.w
  | .atomic => l.r && l.w

/-- The access only reads: a load or a fetch. -/
def Acc.reads : Acc → Bool
  | .load => true
  | .fetch => true
  | .store => false
  | .atomic => false

/-- A physical address lies in a region that firmware reserves and that no context can map (R227, R409). Log 4. -/
def State.isReserved (s : State) (pa : Nat) : Bool := inRanges s.boot.reserved pa

/-- Translate and check an access through the TLB of a holder (R400 to R407): the leaf and the physical address, or the first check that fails. Log 4, 10. -/
def State.translate (s : State) (holder : Party) (asid : Nat) (world : Bool) (acc : Acc) (va : Nat) : State × Except AccErr (Leaf × Nat) :=
  match s.lookup holder asid va with
  | (s, none, _) => (s, .error .missing)
  | (s', some l, fresh) =>
    let pa := l.pa va
    if s.isReserved pa then (s', .error .missing)
    else if l.world && !world then (s', .error .world)
    else if fresh && acc.reads && !s.regionAllows world pa then (s, .error .world)
    else if !l.grants acc then (s', .error .rights)
    else (s', .ok (l, pa))

/-- Translate an access of an engine or of the CP (R14, R403, R406): the region table is checked as the access arrives, and a denial is the world failure. -/
def State.engineTranslate (s : State) (holder : Party) (asid : Nat) (acc : Acc) (va : Nat) : State × Except AccErr (Leaf × Nat) :=
  match s.translate holder asid (s.worldOf asid) acc va with
  | (s, .ok (l, pa)) => if s.regionAllows (s.worldOf asid) pa then (s, .ok (l, pa)) else (s, .error .world)
  | (s, .error e) => (s, .error e)

/-- What a wave's failed access traps with (R403, Table 24-9). -/
def AccErr.trap (acc : Acc) (va : Nat) : AccErr → Trap
  | .missing => { cause := if acc.reads then .pageFaultLd else .pageFaultSt, subcode := 0, faddr := va }
  | .world => { cause := .world, subcode := 0, faddr := va }
  | .rights => { cause := .protection, subcode := 0, faddr := va }

/-! ### Records of the module -/

/-- A core; one that nothing has changed is as at reset. -/
def State.core (s : State) (c : Nat) : Core := (s.cores.find? c).getD Core.atReset

/-- Change a core. -/
def State.modCore (s : State) (c : Nat) (f : Core → Core) : State := { s with cores := s.cores.insert c (f (s.core c)) }

/-- A launch that no table lists. -/
def Launch.none : Launch :=
  { asid := 0, graph := 0, prio := 0, since := 0, task := false, x := 0, y := 0, logw := 0, logh := 0, warps := 0, alloc := 0, spad := 0, entry := 0,
    arena := 0, arenaSz := 0, iters := 0, chunk := 0, tickets := [], darner := 0, cancel := 0, job := 0, tiles := [], tpls := [], gens := [],
    records := [], stopped := false, cancelled := [], frames := 0, faulted := false, dropped := false }

/-- A launch by its id. -/
def State.launch (s : State) (id : Nat) : Launch := (s.launches.find? id).getD Launch.none

/-- Change a launch. -/
def State.modLaunch (s : State) (id : Nat) (f : Launch → Launch) : State := { s with launches := s.launches.modify id f }

/-- Rank of a core in a launch's rectangle (R371). -/
def Launch.rankOf (l : Launch) (core : Nat) : Nat := (coreY core - l.y) * 2 ^ l.logw + (coreX core - l.x)

/-- The core lies in the rectangle. -/
def Launch.holds (l : Launch) (core : Nat) : Bool :=
  decide (l.x ≤ coreX core) && decide (coreX core < l.x + 2 ^ l.logw) && decide (l.y ≤ coreY core) && decide (coreY core < l.y + 2 ^ l.logh)

/-! ### Scratchpad (R166, R167) -/

/-- Numbers of the banks a launch owns on a core, ascending. -/
def State.banksOf (s : State) (core launch : Nat) : List Nat :=
  ((s.core core).banks.zipIdx.filter (fun b => decide (b.1.owner = some launch))).map (·.2)

/-- A bank of a core. -/
def State.bank (s : State) (core b : Nat) : Bank := ((s.core core).banks[b]?).getD Bank.atReset

/-- Change a bank. -/
def State.modBank (s : State) (core b : Nat) (f : Bank → Bank) : State :=
  s.modCore core (fun c => { c with banks := c.banks.modify b f })

/-- The bank that holds a scratchpad offset. -/
def State.bankAt (s : State) (core launch off : Nat) : Option Nat := (s.banksOf core launch)[off / 65536]?

/-- The saved banks of a launch on a core. -/
def State.bankSave (s : State) (core launch : Nat) : Option BankSave :=
  s.bankSaves.find? (fun x => decide (x.core = core) && decide (x.launch = launch))

/-- The key of a scratchpad byte, when R167 lets it be accessed; in the saved image while the launch's banks are saved (R229, R343). -/
def State.spadByte (s : State) (core launch off : Nat) : Option Nat :=
  if off < (s.launch launch).spad then
    match s.bankAt core launch off with
    | some b => if (s.bank core b).mode = .spad then some (spadKey core b (off % 65536)) else none
    | none =>
      match (s.bankSave core launch).bind (fun x => x.banks[off / 65536]?) with
      | some b => if b.mode = .spad then some (savedKey launch core off) else none
      | none => none
  else none

/-- First offset of `n` bytes that fails R167. -/
def State.spadFail (s : State) (core launch off n : Nat) : Option Nat :=
  (keysFrom off n).find? (fun o => (s.spadByte core launch o).isNone)

end Sys2Proof.Machine
end

