-- ==== Sys2Proof/Machine/Cache.lean ====
section
/-! DEFINITION. Lines of the L1s and of the LLC (R165, R170, R171, R173): which are present and in what class, the choice of a victim, the directory and its recalls. No value that an access returns depends on a line's presence: reads take their values from the publication history (R202 to R209). -/

namespace Sys2Proof.Machine

/-- Cache class by its code in a leaf (Table 25-3). -/
def cacheClassOf (n : Nat) : CacheClass := if n = 1 then .first else if n = 2 then .last else .normal

/-- Order in which classes give victims (R173). -/
def CacheClass.rank : CacheClass → Nat
  | .first => 0
  | .normal => 1
  | .last => 2

/-- The victim of a set (R173): the least recently used FIRST line, else NORMAL, else LAST. -/
def victimOf (t : Table CacheLine) : Option (Nat × CacheLine) :=
  t.foldl (fun b e => match b with
    | none => some e
    | some x => if e.2.cls.rank < x.2.cls.rank ∨ (e.2.cls.rank = x.2.cls.rank ∧ e.2.used < x.2.used) then some e else some x) none

/-- CACHE banks of a core: each gives every set of its L1 four ways (R165). -/
def State.cacheBanks (s : State) (core : Nat) : List Nat :=
  ((s.core core).banks.zipIdx.filter (fun b => decide (b.1.mode = .cache))).map (·.2)

/-- Lines of a core's L1. -/
def State.l1Of (s : State) (core : Nat) : Table CacheLine := (s.l1.find? core).getD []

/-- The lines of an L1 that are in the set of a line. -/
def l1Set (t : Table CacheLine) (line : Nat) : Table CacheLine := t.filter (fun e => decide (Config.l1Set e.1 % 128 = Config.l1Set line % 128))

/-- An L1 with a line filled (R165, R173): in a free way of a CACHE bank, or in its victim's; an L1 of no banks takes none. A line that is present keeps its class. -/
def fillWays (banks : List Nat) (t : Table CacheLine) (line : Nat) (cls : CacheClass) (excl : Bool) (now : Nat) : Table CacheLine :=
  match t.find? line with
  | some x => t.insert line { x with excl := x.excl || excl, used := now }
  | none =>
    match banks.find? (fun b => decide (((l1Set t line).filter (fun e => decide (e.2.bank = b))).length < 4)) with
    | some b => t.insert line { cls := cls, excl := excl, bank := b, used := now }
    | none =>
      match victimOf (l1Set t line) with
      | some v => (t.erase v.1).insert line { cls := cls, excl := excl, bank := v.2.bank, used := now }
      | none => t

/-- The directory's answer (R171): which cores' L1s hold a line, and whether exclusively. -/
def State.holders (s : State) (line : Nat) : List (Nat × Bool) := s.l1.filterMap (fun e => (e.2.find? line).map (fun x => (e.1, x.excl)))

/-- A request of a core for a line (R171): other L1s give up their exclusive hold of it, or the line itself when the core asks for it exclusively. Log 26. -/
def State.recallLine (s : State) (core line : Nat) (excl : Bool) : State :=
  { s with l1 := s.l1.map (fun e => (e.1, if e.1 = core then e.2 else if excl then e.2.erase line else e.2.modify line (fun x => { x with excl := false }))) }

/-- The slice recalls a line's exclusive copy (R223). Log 26. -/
def State.recallExclusive (s : State) (line : Nat) : State :=
  { s with l1 := s.l1.map (fun e => (e.1, e.2.modify line (fun x => { x with excl := false }))) }

/-- A fill of the LLC gives a line its page's default class; a line that is present keeps its own (R173). Whether its set lacks room, and so evicts a victim, is free. Log 26. -/
def State.fillSlice (s : State) (l : Leaf) (pa : Nat) : State :=
  let line := pa / 128
  { s with
    uses := s.uses + 1
    llc :=
      match s.llc.find? line with
      | some x => s.llc.insert line { x with used := s.uses }
      | none =>
        let same := s.llc.filter (fun e => decide (homeSlice (128 * e.1) = homeSlice pa) && decide (Config.llcSet e.1 = Config.llcSet line))
        let t := if s.pick [60, line] 2 = 0 then s.llc else match victimOf same with | some v => s.llc.erase v.1 | none => s.llc
        t.insert line { cls := cacheClassOf l.cls, excl := false, bank := 0, used := s.uses } }

/-- An access at the home slice: it fills the line there, and no L1 keeps it exclusively (R171, R173). Log 26. -/
def State.fillLine (s : State) (l : Leaf) (pa : Nat) : State := (s.fillSlice l pa).recallExclusive (pa / 128)

/-- A core's access fills its L1 and the LLC (R165, R171, R173). Log 26. -/
def State.fillCore (s : State) (core : Nat) (excl : Bool) (l : Leaf) (pa : Nat) : State :=
  let s := (s.fillSlice l pa).recallLine core (pa / 128) excl
  { s with l1 := s.l1.insert core (fillWays (s.cacheBanks core) (s.l1Of core) (pa / 128) (cacheClassOf l.cls) excl s.uses) }

/-- Every line that a core's access of some bytes touches is filled in its L1 and in the LLC (R14, R173). -/
def State.fillOwn (s : State) (core : Nat) (l : Leaf) (pa n : Nat) : State :=
  if n = 0 then s else (List.range ((pa + n - 1) / 128 + 1 - pa / 128)).foldl (fun s i => s.fillCore core false l (128 * (pa / 128 + i))) s

/-- Every line that an access of some bytes touches is filled in the LLC (R14, R173). -/
def State.fillSpan (s : State) (l : Leaf) (pa n : Nat) : State :=
  if n = 0 then s else (List.range ((pa + n - 1) / 128 + 1 - pa / 128)).foldl (fun s i => s.fillLine l (128 * (pa / 128 + i))) s

/-- Every copy of the lines of some bytes in the LLC and the L1s is invalidated (R339). -/
def State.dropLines (s : State) (pa n : Nat) : State :=
  let out (line : Nat) : Bool := decide (pa / 128 ≤ line) && decide (128 * line < pa + n)
  { s with llc := s.llc.filter (fun e => !out e.1), l1 := s.l1.map (fun e => (e.1, e.2.filter (fun x => !out x.1))) }

/-- A class hint on a line (R173): 0 FIRST, 1 LAST, 2 clear. -/
def CacheLine.hinted (x : CacheLine) (hint : Nat) : CacheLine :=
  { x with cls := if hint = 0 then (if x.cls = .last then x.cls else .first) else if hint = 1 then .last else .normal }

/-- A hint reaches a line at its home and in the L1 of the core that gives it, where it is present (R173, R195). Log 26. -/
def State.hintLine (s : State) (core hint pa : Nat) : State :=
  { s with
    llc := s.llc.modify (pa / 128) (fun x => x.hinted hint)
    l1 := s.l1.modify core (fun t => t.modify (pa / 128) (fun x => x.hinted hint)) }

/-- A load or store of a core reaches a line, with its M-format hint (R184): one to the home leaves the L1 alone (R186). Log 26. -/
def State.useLine (s : State) (core : Nat) (l : Leaf) (pa hint : Nat) : State :=
  let s := if hint = 3 then s.fillLine l pa else s.fillCore core false l pa
  if hint = 1 then s.hintLine core 0 pa else if hint = 2 then s.hintLine core 1 pa else s

/-- A bank is CACHE no more: the lines in its ways are written back and gone (Table 9-1). -/
def State.dropWays (s : State) (core bank : Nat) : State :=
  { s with l1 := s.l1.modify core (fun t => t.filter (fun e => decide (e.2.bank ≠ bank))) }

end Sys2Proof.Machine
end

