-- ==== Sys2Proof/Machine/Warp.lean ====
section
/-! DEFINITION. A warp: lanes and masks, registers with their outstanding writes (R40, R41, R47), the frontier with its merges and KWAIT releases (R60 to R65), publication and refresh (R204 to R206), and reads through the phase snapshot (R207). -/

namespace Sys2Proof.Machine

/-! ### Lanes -/

/-- Lane `l` is in the set. -/
def hasLane (m : Mask) (l : Nat) : Bool := m.getLsbD l

/-- The set of one lane. -/
def laneBit (l : Nat) : Mask := (1 : Mask) <<< l

/-- Lanes of a set, ascending. -/
def lanesOf (m : Mask) : List Nat := (List.range 32).filter (hasLane m)

/-- A set from its lanes. -/
def maskOf (ls : List Nat) : Mask := ls.foldl (fun m l => m ||| laneBit l) 0

/-- Number of lanes. -/
def laneCount (m : Mask) : Nat := (lanesOf m).length

/-- The lowest lane. -/
def lowest (m : Mask) : Nat := (lanesOf m).headD 0

/-! ### Access to warps -/

/-- The running state of a resident warp. -/
def State.warp? (s : State) (wid : Nat) : Option WarpCore := (s.warps.find? wid).map (·.run)

/-- Key of a warp. -/
def WarpCore.wid (w : WarpCore) : Nat := widOf w.core w.slot

/-- A lane's own state. -/
def WarpCore.lane (w : WarpCore) (l : Nat) : LaneState :=
  (w.lanes[l]?).getD { fp := 0, sp := 0, floor := 0, idx := 0, depth := 0, stream := 1, role := .none, hosts := [], entered := [], doomed := false }

/-- Change a lane's own state. -/
def WarpCore.modLane (w : WarpCore) (l : Nat) (f : LaneState → LaneState) : WarpCore :=
  { w with lanes := (List.range 32).map (fun i => if i = l then f (w.lane i) else w.lane i) }

/-- Mask register kN; bits of lanes that are not live read 0 (R137). -/
def WarpCore.mask (w : WarpCore) (n : Nat) : Mask := Map.get 0 w.k n &&& w.live

/-- Write kN; bits of lanes that are not live become 0 (R137). -/
def WarpCore.setMask (w : WarpCore) (n : Nat) (v : Mask) : WarpCore := { w with k := Map.set 0 w.k n (v &&& w.live) }

/-- The warp's token (Table 24-2). -/
def WarpCore.token (w : WarpCore) : Nat :=
  w.launch % 2 ^ 32 * 2 ^ 32 + coreX w.core * 2 ^ 24 + coreY w.core * 2 ^ 16 + w.slot * 2 ^ 10 + w.gen % 1024

/-- ASID of a warp: that of its launch. -/
def State.asidOf (s : State) (w : WarpCore) : Nat := (s.launch w.launch).asid

/-- World of a warp (R406). -/
def State.warpWorld (s : State) (w : WarpCore) : Bool := s.worldOf (s.asidOf w)

/-- `ctl.arena` of a warp (R371). -/
def State.arenaOf (s : State) (w : WarpCore) : Nat :=
  let l := s.launch w.launch
  (l.arena + l.arenaSz * l.rankOf w.core) % 2 ^ 64

/-! ### The frontier (R60 to R65) -/

/-- Lanes parked at a KWAIT on kN. -/
def parkedOn (fr : List Entry) (n : Nat) : Mask :=
  fr.foldl (fun m e => match e.state with | .kwait k => if k = n then m ||| e.lanes else m | _ => m) 0

/-- The entry is READY. -/
def Entry.isReady (e : Entry) : Bool :=
  match e.state with
  | .ready => true
  | _ => false

/-- Add an entry: a READY one joins the READY entry of its priority and PC (R62); an empty one vanishes. -/
def addEntry (e : Entry) : List Entry → List Entry
  | [] => if e.lanes = 0 then [] else [e]
  | x :: r =>
    if e.lanes = 0 then x :: r
    else if e.isReady && x.isReady && decide (e.prio = x.prio) && decide (e.pc = x.pc) then { x with lanes := x.lanes ||| e.lanes } :: r
    else x :: addEntry e r

/-- Merge a frontier anew. -/
def mergeFrontier (fr : List Entry) : List Entry := fr.foldl (fun acc e => addEntry e acc) []

/-- KWAIT release on kN (R64): when every bit set in kN belongs to a lane parked on it, those lanes move on. The parked entries already hold the PC after their own KWAIT. `trapped` lanes keep it from releasing wherever they stand (R65, R382). -/
def releaseOn (trapped : Mask) (k : Mask) (n : Nat) (fr : List Entry) : List Entry :=
  if k &&& ~~~(parkedOn fr n &&& ~~~trapped) = 0 then
    fr.map (fun e => match e.state with | .kwait m => if m = n then { e with state := .ready } else e | _ => e)
  else fr

/-- The handler lane, which counts as TRAPPED for KWAIT (R382). -/
def WarpCore.handlerMask (w : WarpCore) : Mask :=
  match w.handler with
  | some h => laneBit h.lane
  | none => 0

/-- Evaluate every KWAIT and merge (R62, R64). -/
def WarpCore.settle (w : WarpCore) : WarpCore :=
  { w with frontier := mergeFrontier ((List.range 12).foldl (fun fr n => releaseOn w.handlerMask (w.mask n) n fr) w.frontier) }

/-- Take lanes out of every entry. -/
def takeLanes (m : Mask) (fr : List Entry) : List Entry :=
  (fr.map (fun e => { e with lanes := e.lanes &&& ~~~m })).filter (fun e => decide (e.lanes ≠ 0))

/-- Put lanes at a place, out of wherever they stood. -/
def WarpCore.place (w : WarpCore) (m : Mask) (prio pc : Nat) (st : EState) : WarpCore :=
  { w with frontier := takeLanes m w.frontier ++ (if m = 0 then [] else [{ prio := prio, pc := pc, lanes := m, state := st }]) }

/-- The entry of a lane. -/
def WarpCore.entryOf (w : WarpCore) (l : Nat) : Option Entry := w.frontier.find? (fun e => hasLane e.lanes l)

/-- Replace a resident warp's running state, with its KWAITs evaluated and its entries merged. -/
def State.setRun (s : State) (wid : Nat) (w : WarpCore) : State :=
  { s with warps := s.warps.modify wid (fun x => { x with run := w.settle }) }

/-- Change a resident warp's running state. -/
def State.modRun (s : State) (wid : Nat) (f : WarpCore → WarpCore) : State :=
  { s with warps := s.warps.modify wid (fun x => { x with run := (f x.run).settle }) }

/-- Change a warp wherever it is: resident, or not (R102, R229). -/
def State.modWarp (s : State) (wid : Nat) (f : WarpCore → WarpCore) : State :=
  if (s.warps.find? wid).isSome then s.modRun wid f
  else { s with saved := s.saved.map (fun v => if v.wid = wid then { v with warp := { v.warp with run := (f v.warp.run).settle } } else v) }

/-- The running state of a warp wherever it is. -/
def State.anyWarp? (s : State) (wid : Nat) : Option WarpCore :=
  match s.warp? wid with
  | some w => some w
  | none => (s.saved.find? (fun v => decide (v.wid = wid))).map (fun v => v.warp.run)

/-- Slot key of a warp token (Table 24-2). -/
def tokenWid (token : Nat) : Nat := widOf (coreAt (bits token 31 24) (bits token 23 16)) (bits token 15 10)

/-- Change what a warp token names, in whichever of run and help frames it is. -/
def Warp.modTok (x : Warp) (token : Nat) (f : WarpCore → WarpCore) : Warp :=
  let g (w : WarpCore) : WarpCore := if w.token = token then (f w).settle else w
  { run := g x.run, help := x.help.map g }

/-- Change the warp that a token names, resident, saved or under a help frame (R102, R260). -/
def State.modTok (s : State) (token : Nat) (f : WarpCore → WarpCore) : State :=
  { s with
    warps := s.warps.modify (tokenWid token) (fun x => x.modTok token f)
    saved := s.saved.map (fun v => if v.wid = tokenWid token then { v with warp := v.warp.modTok token f } else v) }

/-- The warp that a token names, wherever it is. -/
def State.tokWarp? (s : State) (token : Nat) : Option WarpCore :=
  let wid := tokenWid token
  let all := (match s.warps.find? wid with | some x => x.run :: x.help | none => []) ++
    (s.saved.filter (fun v => decide (v.wid = wid))).foldl (fun a v => a ++ (v.warp.run :: v.warp.help)) []
  all.find? (fun w => decide (w.token = token))

/-- The token names the running state of a resident warp. -/
def State.runsNow (s : State) (token : Nat) : Bool :=
  match s.warp? (tokenWid token) with
  | some w => decide (w.token = token)
  | none => false

/-! ### Pipes (R135, R161, R185) -/

/-- Class and clocks of an instruction word; the format codes of an extension word stand in `insn[47:36]`. Instructions to which the manual gives no pipe hold none. Log 31. -/
def pipeOf (insn : Nat) : Option (Pipe × Nat) :=
  let maj := bits insn 30 25
  let f := bits insn 3 0
  let fp64 := decide (bits insn 41 36 = 4) || (decide (maj = 0x10) && decide (bits insn 47 42 = 4))
  if maj = 0 then some (if f = 3 ∨ f = 4 then (.highMul, 2) else if 6 ≤ f ∧ f ≤ 9 then (.divide, 8) else (.simple, 1))
  else if maj ≤ 7 then some (.simple, 1)
  else if maj = 8 then some (if (f = 6 ∨ f = 9) ∧ fp64 then (.fp64, 4) else (.simple, 1))
  else if maj = 9 then some (.function, 4)
  else if maj = 0xA then some (.fp64, 4)
  else if maj = 0x10 then some (if f = 0 ∧ fp64 then (.fp64, 4) else (.simple, 1))
  else if maj = 0x14 then some (.exchange, if f ≤ 1 then 1 else 2)
  else if 0x15 ≤ maj ∧ maj ≤ 0x1A then some (.simple, 1)
  else if 0x1C ≤ maj ∧ maj ≤ 0x20 then some (.memory, if bits insn 10 8 = 6 then 2 else 1)
  else if 0x21 ≤ maj ∧ maj ≤ 0x24 then some (.memory, if maj = 0x23 ∧ f = 10 ∧ bits insn 35 32 = 2 then 2 else 1)
  else if 0x30 ≤ maj ∧ maj ≤ 0x33 then some (.memory, 1)
  else none

/-- The clock at which the pipe interval of the instruction in progress ends (R135): its register writes are performed no earlier. Log 5. -/
def State.writeDue (s : State) : Nat := s.clk + (match s.cur.bind (fun c => pipeOf c.insn) with | some (_, n) => n | none => 0)

/-! ### Registers (R40, R41, R47) -/

/-- The place a register field names now (R47). -/
def WarpCore.resolve (w : WarpCore) (r : Nat) : Loc :=
  if r < 96 then .thread (w.wbase + r)
  else if r < 120 then .uni (r - 96)
  else if r = 125 then .fp
  else if r = 126 then .sp
  else .none

/-- The value that a place holds for a lane, as last written. -/
def WarpCore.held? (w : WarpCore) (l : Nat) : Loc → Word
  | .none => 0
  | .thread n => Map.get 0 w.regs (32 * n + l)
  | .uni n => Map.get 0 w.w n
  | .fp => (w.lane l).fp
  | .sp => (w.lane l).sp

/-- Values that outstanding writes of a place may still leave in view (R41). Log 5. -/
def WarpCore.stale (w : WarpCore) (l : Nat) (c : Loc) : List Word :=
  match c with
  | .none => []
  | .uni _ => (w.out.filter (fun o => decide (o.loc = c))).map (·.old)
  | _ => (w.out.filter (fun o => decide (o.lane = l) && decide (o.loc = c))).map (·.old)

/-- A place's number, for free choices and for REGISTER_WRITE_PERFORMED. -/
def Loc.code : Loc → Nat
  | .thread n => n
  | .uni n => 512 + n
  | .fp => 536
  | .sp => 537
  | .none => 538

/-- Read a place for a lane; `pos` tells the reads of one instruction apart. An outstanding register reads as the value before or after (R41): so does v2 of the `movi` in line 4 of the program of chapter 8, which carries no switch marker, in the STS of line 5, although R163 gives only the outcomes with the new value. Log 5. -/
def WarpCore.readLoc (s : State) (w : WarpCore) (l : Nat) (c : Loc) (pos : Nat) : Word :=
  s.choose [5, w.wid, l, c.code, pos] 0 (w.held? l c :: w.stale l c)

/-- Put a value into a place. -/
def WarpCore.putLoc (w : WarpCore) (l : Nat) (c : Loc) (v : Word) : WarpCore :=
  match c with
  | .none => w
  | .thread n => { w with regs := Map.set 0 w.regs (32 * n + l) v }
  | .uni n => { w with w := Map.set 0 w.w n v }
  | .fp => w.modLane l (fun x => { x with fp := v })
  | .sp => w.modLane l (fun x => { x with sp := v })

/-- Write a place: the write is outstanding until it is performed (R40). Two outstanding writes leave one of the two values (R41). Log 5. -/
def WarpCore.writeLoc (s : State) (w : WarpCore) (l : Nat) (c : Loc) (v : Word) : WarpCore :=
  match c with
  | .none => { w with out := w.out ++ [{ lane := l, loc := .none, old := 0, due := s.writeDue }] }
  | _ =>
    let cur := w.held? l c
    let twice := !(w.stale l c).isEmpty
    let (kept, lost) := if twice && decide (s.pick [6, w.wid, l, c.code] 2 = 1) then (cur, v) else (v, cur)
    let w := w.putLoc l c kept
    { w with out := w.out ++ [{ lane := l, loc := c, old := lost, due := s.writeDue }] }

/-- Every outstanding register write is performed (R41, R138), the last at the end of its pipe interval (R135): the warp issues nothing before that. Log 5. -/
def WarpCore.drainRegs (w : WarpCore) : WarpCore := { w with out := [], drained := w.out.foldl (fun n o => max n o.due) w.drained }

/-- Set arithmetic flags (R30). -/
def WarpCore.raise (w : WarpCore) (f : Flags) : WarpCore := { w with flags := w.flags ||| f }

/-- The dropped-data flag, `ctl.drop` bit 0 (R183). -/
def WarpCore.markDrop (w : WarpCore) (b : Bool) : WarpCore := { w with drop := w.drop || b }

/-! ### Publication and refresh (R204 to R206) -/

/-- A warp as a reading party. -/
def WarpCore.party (w : WarpCore) : Party := .core w.core

/-- A warp as a writer. -/
def WarpCore.writer (w : WarpCore) : Writer := { wid := some w.wid, core := some w.core, token := some w.token }

/-- New value and flags of an atomic (R192): operation, width, old value and operands. -/
def atomicNew (op : Nat) (wide : Bool) (old b c : Nat) : Nat × Flags :=
  let n := if wide then 64 else 32
  let sg (x : Nat) : Int := signedOf n x
  let m := 2 ^ n
  match op with
  | 0 => ((old + b) % m, 0)
  | 1 => (if sg b < sg old then b else old, 0)
  | 2 => (if sg old < sg b then b else old, 0)
  | 3 => (min old b, 0)
  | 4 => (max old b, 0)
  | 5 => (old &&& b, 0)
  | 6 => (old ||| b, 0)
  | 7 => (old ^^^ b, 0)
  | 8 => (b, 0)
  | 9 => (if old = b then c else old, 0)
  | _ => f32.addOp 0 old b

/-- A wave writes bytes of a bank: a sync word that they touch holds undefined contents (R277). Log 33. -/
def State.spoilSync (s : State) (k n : Nat) : State :=
  let bad := s.syncs.filter (fun x => decide (k < x + 16) && decide (x < k + n))
  if bad.isEmpty then s else { s with undef := bad.map (fun x => wordRange x 16) ++ s.undef }

/-- The Darner state of a launch on a core after a wave wrote into its Darner area or its cancel bitmap: undefined contents (R246). Log 2. -/
opaque Config.darnerState (step launch core : Nat) : Darner

/-- Two ranges of addresses meet. -/
def rangesMeet (a n b m : Nat) : Bool := decide (a < b + m) && decide (b < a + n)

/-- A wave writes bytes of a context: the Darner state of a launch whose Darner area or cancel bitmap they touch holds undefined contents (R246). Log 30. -/
def State.spoilDarner (s : State) (asid va n : Nat) : State :=
  (s.launches.filter (fun e => e.2.task && decide (e.2.asid = asid) &&
      (rangesMeet va n e.2.darner (65536 * 2 ^ (e.2.logw + e.2.logh)) || rangesMeet va n e.2.cancel 8192))).foldl (fun s e =>
    ((List.range 384).filter e.2.holds).foldl (fun s c => s.modCore c (fun k => { k with darners := k.darners.insert e.1 (Config.darnerState s.free e.1 c) })) s) s

/-- An atomic takes place at the home (R192, R193, R209): the old value, and the flags of the operation. A dropped word reads zero bits (R183). Log 22. -/
def State.atomicAt (s : State) (by_ : Writer) (p : Party) (sc : Scope) (okey k size op b c : Nat) : State × Nat × Flags :=
  let s := (s.touch p k size).recall p k size
  let old := natOfBytes (s.homeBytes [7] okey k size)
  let (new, fl) := atomicNew op (decide (size = 8)) old b c
  let s := s.countDrop k size
  ((s.homeWrite by_ (if isSpad k then .core else sc) (some (if isSpad k then .core else sc)) okey k (bytesOfNat size new)).spoilSync k size, old, fl)

/-- A store or RED of a warp may have touched a Darner area (R246). -/
def State.spoilArea (s : State) (w : WarpCore) (p : Pending) : State := if p.bank then s else s.spoilDarner (s.asidOf w) p.va p.size

/-- One buffered store or RED takes its place, published at a scope; a store that the region table denies beyond the core is queued for its frame, and a RED that it denies writes nothing and sets `ctl.drop` (R182, R205, R209, R388, R406). -/
def State.perform (s : State) (wid : Nat) (w : WarpCore) (sc : Scope) (p : Pending) : State :=
  if p.mark then s
  else if !p.bank && !s.regionAllows (s.warpWorld w) p.key then
    if p.red.isSome then (s.modWarp wid (fun w => w.markDrop true)).count (homeDie p.key) 3 1
    else
    { s with denied := s.denied ++ [{ wid := wid, token := w.token, launch := w.launch, lane := p.lane, va := p.va, pc := p.pc, insn := p.insn }] }
  else
    match p.red with
    | none => s.homeWrite { w.writer with queue := p.queue } (if p.bank then .core else sc) none p.okey p.key (bytesOfNat p.size p.data)
        |>.spoilSync p.key p.size
        |>.spoilArea w p
    | some op =>
      let bad := s.struck p.key p.size
      let (s, _, fl) := s.atomicAt w.writer w.party p.scope p.okey p.key p.size op (p.data % 2 ^ 64) (p.data / 2 ^ 64)
      (s.spoilArea w p).modWarp wid (fun w => (w.raise fl).markDrop bad)

/-- Widen the publication of a warp's own writes to a scope (R205). Log 8. -/
def State.widen (s : State) (wid : Nat) (sc : Scope) : State := s.raiseTo sc (fun h => decide (h.wid = some wid))

/-- Publish the oldest `n` buffered stores of a warp at a scope (R205: in order). Log 8. -/
def State.publishSome (s : State) (wid : Nat) (n : Nat) (sc : Scope) : State :=
  match s.anyWarp? wid with
  | none => s
  | some w =>
    let s := s.modWarp wid (fun w => { w with stores := w.stores.drop n })
    (w.stores.take n).foldl (fun s p => s.perform wid w sc p) s

/-- Publish every earlier store and RED of a warp at a scope (R204). Marks of FENCEO go with them. Log 8. -/
def State.publish (s : State) (wid : Nat) (sc : Scope) : State :=
  match s.anyWarp? wid with
  | none => s
  | some w => (s.publishSome wid w.stores.length sc).widen wid sc

/-- Refresh a warp (R206): its floors are what is published to it now. -/
def State.refreshWarp (s : State) (wid : Nat) : State := s.modWarp wid (fun w => { w with refresh := s.seq, reads := [] })

/-- A boundary (R204, Table 11-2). Log 8. -/
def State.boundary (s : State) (wid : Nat) (sc : Scope) (refresh : Bool) : State :=
  let s := s.publish wid sc
  if refresh then s.refreshWarp wid else s

/-- A boundary of the warp that a token names: one that is not running has published all at its save, so it is refreshed alone (R80, R204). -/
def State.boundaryTok (s : State) (token : Nat) (sc : Scope) (refresh : Bool) : State :=
  if s.runsNow token then s.boundary (tokenWid token) sc refresh
  else if refresh then s.modTok token (fun w => { w with refresh := s.seq, reads := [] })
  else s

/-- Publish a warp's buffered stores up to and including the last one to a bank, as an engine's scratchpad read asks (R213, R287). -/
def State.drainBank (s : State) (wid : Nat) : State :=
  match s.anyWarp? wid with
  | none => s
  | some w =>
    let n := (w.stores.zipIdx.foldl (fun m e => if e.1.bank then e.2 + 1 else m) 0)
    s.publishSome wid n .core

/-- Publish a warp's buffered stores up to and including the last RED that touches bytes it is about to read (R207). -/
def State.flushReds (s : State) (wid : Nat) (k n : Nat) : State :=
  match s.anyWarp? wid with
  | none => s
  | some w =>
    let m := (w.stores.zipIdx.foldl (fun m e =>
      if e.1.red.isSome && decide (e.1.key < k / 4 * 4 + n + 4) && decide (k / 4 * 4 < e.1.key + e.1.size) then e.2 + 1 else m) 0)
    if m = 0 then s else s.publishSome wid m .dev

/-- Publish a warp's buffered stores up to and including the last that touches some bytes: accesses of one warp take effect at an address in program order (R181). Log 21. -/
def State.flushTo (s : State) (wid k n : Nat) : State :=
  match s.anyWarp? wid with
  | none => s
  | some w =>
    let m := w.stores.zipIdx.foldl (fun m e =>
      if !e.1.mark && decide (e.1.key < k / 4 * 4 + n + 4) && decide (k / 4 * 4 < e.1.key + e.1.size) then e.2 + 1 else m) 0
    if m = 0 then s else s.publishSome wid m .dev

/-! ### Reads of a warp (R207) -/

/-- A word as a plain read of a warp finds it: its own po-latest published write since its refresh or an engine's over it (R214), else a write published to it from its floor on, never before one it has read or written; a global word that the snapshot holds keeps its value. Log 21. -/
def State.snapWord (s : State) (w : WarpCore) (k : Nat) : Nat × Word :=
  let es := s.histOf k
  let seen := w.reads.find? (fun r => decide (r.key = k))
  let held := match seen with | some r => r.fixed && !isSpad k | none => false
  let own := es.find? (fun h => decide (h.wid = some w.wid) && decide (w.refresh < h.seq))
  let base := max (floorOf es w.party w.refresh) (match seen with | some r => r.seq | none => 0)
  match own, seen with
  | some h, none => s.choose [8, w.wid, k] (h.seq, h.val) ((h.seq, h.val) :: (enginesOver es w.party h).map (fun e => (e.seq, e.val)))
  | some h, some r =>
    if held && decide (h.seq ≤ r.seq) then (r.seq, r.val)
    else if base ≤ h.seq then s.choose [8, w.wid, k] (h.seq, h.val) ((h.seq, h.val) :: (enginesOver es w.party h).map (fun e => (e.seq, e.val)))
    else s.choose [8, w.wid, k] (r.seq, r.val) (s.candidates es k w.party base)
  | none, some r => if held then (r.seq, r.val) else s.choose [8, w.wid, k] (r.seq, r.val) (s.candidates es k w.party base)
  | none, none => s.choose [8, w.wid, k] (0, s.mem.word k) (s.candidates es k w.party base)

/-- Record a read of a word (R207). -/
def WarpCore.noteRead (w : WarpCore) (k : Nat) (r : Nat × Word) (fixed : Bool) : WarpCore :=
  { w with reads := { key := k, seq := r.1, val := r.2, fixed := fixed } :: w.reads.filter (fun x => decide (x.key ≠ k)) }

/-- A buffered store's byte at a key. -/
def Pending.byteAt? (p : Pending) (k : Nat) : Option Byte :=
  if !p.mark && p.red.isNone && decide (p.key ≤ k) && decide (k < p.key + p.size) then some (BitVec.ofNat 8 (p.data / 256 ^ (k - p.key))) else none

/-- The warp's own buffered stores over a byte, the latest winning (R181). Log 21. -/
def overlay (st : List Pending) (k : Nat) (b : Byte) : Byte := st.foldl (fun b p => (p.byteAt? k).getD b) b

/-- A plain read of bytes (R186, R190, R207): the warp notes what it read. `about` tells the reads of one step apart where contents are free. Log 21. -/
def State.plainBytes (s : State) (wid : Nat) (about : List Nat) (okey k n : Nat) : State × List Byte :=
  let s := s.flushReds wid k n
  match s.anyWarp? wid with
  | none => (s, [])
  | some w =>
    let s := s.touch w.party k n
    let words := (wordKeys k n).map (fun x => (x, s.snapWord w x))
    let bytes := (keysFrom k n).map fun x =>
      let v := match words.find? (fun e => decide (e.1 = x / 4 * 4)) with | some e => e.2.2 | none => 0
      overlay w.stores x (s.found about x (s.underKey okey x (byteOfWord v (x % 4))))
    let bad := s.struck k n
    let s := s.countDrop k n
    (s.modWarp wid (fun w => (words.foldl (fun w e => w.noteRead e.1 e.2 true) w).markDrop bad), bytes)

/-- A read at the home by a warp: LD.dev (R207), under its own buffered stores (R181, R208). It counts as a read. Log 21. -/
def State.devBytes (s : State) (wid : Nat) (about : List Nat) (okey k n : Nat) : State × List Byte :=
  let s := s.flushReds wid k n
  match s.anyWarp? wid with
  | none => (s, [])
  | some w =>
    let s := (s.touch w.party k n).recall w.party k n
    let bytes := ((keysFrom k n).zip (s.homeBytes about okey k n)).map (fun e => overlay w.stores e.1 e.2)
    let newest (x : Nat) : Nat := match (s.histOf x).head? with | some h => h.seq | none => 0
    let bad := s.struck k n
    let s := s.countDrop k n
    (s.modWarp wid (fun w => ((wordKeys k n).foldl (fun w x => w.noteRead x (newest x, s.mem.word x) false) w).markDrop bad), bytes)

end Sys2Proof.Machine
end

