-- ==== Sys2Proof/Machine/Place.lean ====
section
/-! DEFINITION. Placement and start of warps (R69 to R72, R385), launch banks (R70, R166), the fault queue (R369, R384), the end of a context (R390), and reads of its save region (R411). -/

namespace Sys2Proof.Machine

/-! ### Placement (R69) -/

/-- A warp holds callee lanes of a call, as `byCall` numbers calls. -/
def Warp.servesCall (x : Warp) (call : Nat) : Bool :=
  (x.run :: x.help).any (fun w => w.lanes.any (fun l => match l.role with
    | .widen c _ _ => decide (c = call)
    | .keyed c _ _ => decide (2 ^ 32 + c = call)
    | _ => false))

/-- A warp saved for a call keeps its slot and granules for that call's passes (R89, R99), unless a callee warp that had them is evicted. Log 29. -/
def State.keepsSlot (s : State) (v : SavedWarp) : Bool :=
  match v.byCall with
  | none => false
  | some call => (s.warps.find? v.wid).isNone &&
      !s.saved.any (fun x => decide (x.wid = v.wid) && decide (x.byCall = none) && x.warp.servesCall call)

/-- Slots in use on a core, with their allocations: those of resident warps, and those that a call's passes keep. -/
def State.slotsUsed (s : State) (core : Nat) : List (Nat × Nat) :=
  let here : List (Nat × Nat) := (s.warps.filter (fun e => decide (e.1 / 64 = core))).map (fun e => (e.1 % 64, e.2.run.alloc))
  let kept : List (Nat × Nat) := (s.saved.filter (fun v => decide (v.wid / 64 = core) && s.keepsSlot v)).map (fun v => (v.wid % 64, v.warp.run.alloc))
  here ++ kept.eraseDups

/-- Free granules of a quarter. -/
def freeGranules (used : List (Nat × Nat)) (q : Nat) : Nat :=
  64 - (used.filter (fun e => decide (e.1 % 4 = q))).foldl (fun n e => n + e.2 / 32) 0

/-- Lowest free slot of a quarter. -/
def freeSlot (used : List (Nat × Nat)) (q : Nat) : Option Nat :=
  ((List.range 16).map (fun i => 4 * i + q)).find? (fun n => !(used.any (fun e => decide (e.1 = n))))

/-- The slot that R69 gives a warp of allocation `g`: in the quarter with most free granules among those that qualify, ties to the lower quarter. -/
def chooseSlot (used : List (Nat × Nat)) (g : Nat) : Option Nat :=
  let ok := (List.range 4).filter (fun q => (freeSlot used q).isSome && decide (g / 32 ≤ freeGranules used q))
  match ok.foldl (fun (b : Option Nat) q => match b with
    | none => some q
    | some x => if freeGranules used x < freeGranules used q then some q else b) none with
  | some q => freeSlot used q
  | none => none

/-- Slots for `n` warps at once, or none (R69). -/
def chooseSlots (used : List (Nat × Nat)) (g : Nat) : Nat → Option (List Nat)
  | 0 => some []
  | n + 1 =>
    match chooseSlot used g with
    | none => none
    | some x => (chooseSlots ((x, g) :: used) g n).map (fun r => x :: r)

/-! ### Launch banks (R70, R166, R168) -/

/-- A bank's bytes become zero, with nothing of their past. -/
def State.zeroBank (s : State) (core b : Nat) : State :=
  let lo := spadKey core b 0
  let hi := lo + 65536
  let out (k : Nat) : Bool := decide (k < lo) || decide (hi ≤ k)
  let f (w : WarpCore) : WarpCore := { w with reads := w.reads.filter (fun r => out r.key) }
  let g (w : Warp) : Warp := { run := f w.run, help := w.help.map f }
  { s with
    warps := s.warps.map (fun e => (e.1, g e.2))
    mem := s.mem.eraseRange lo hi
    hist := s.hist.filter (fun h => out h.key)
    poison := s.poison.filter out
    undef := cutRanges lo hi s.undef
    syncs := s.syncs.filter out }

/-- Banks that a launch needs (R70). -/
def Launch.banks (l : Launch) : Nat := (l.spad + 65535) / 65536

/-- Does the launch have its banks on a core, or can it get them (R70)? -/
def State.banksFit (s : State) (core launch : Nat) : Bool :=
  !(s.banksOf core launch).isEmpty ||
    decide ((s.launch launch).banks ≤ ((s.core core).banks.filter (fun b => b.owner.isNone)).length)

/-- Everything that the model keeps under the keys of one bank's 65 536 bytes moves to other keys; what was there goes. -/
def State.moveBank (s : State) (lo dest : Nat) : State :=
  let hi := lo + 65536
  let inside (k : Nat) : Bool := decide (lo ≤ k) && decide (k < hi)
  let gone (k : Nat) : Bool := decide (dest ≤ k) && decide (k < dest + 65536)
  let key (k : Nat) : Nat := if inside k then dest + (k - lo) else k
  let keys (l : List Nat) : List Nat := (l.filter (fun k => !gone k)).map key
  let f (w : WarpCore) : WarpCore := { w with
    reads := (w.reads.filter (fun r => !gone r.key)).map (fun (r : SnapRead) => { r with key := key r.key })
    stores := w.stores.map (fun (p : Pending) => { p with key := key p.key }) }
  let g (w : Warp) : Warp := { run := f w.run, help := w.help.map f }
  let kept := (s.mem.eraseRange lo hi).eraseRange dest (dest + 65536)
  { s with
    mem := (s.mem.filter (fun e => inside e.1)).foldl (fun m e => Map.set 0 m (key e.1) e.2) kept
    hist := (s.hist.filter (fun h => !gone h.key)).map (fun (h : HWrite) => { h with key := key h.key })
    poison := keys s.poison
    undef :=
      let u := cutRanges dest (dest + 65536) s.undef
      cutRanges lo hi u ++ ((u.map (fun (r : Nat × Nat) => (max r.1 lo, min r.2 hi))).filter (fun r => decide (r.1 < r.2))).map (fun (r : Nat × Nat) => (key r.1, key (r.2 - 1) + 1))
    syncs := keys s.syncs
    warps := s.warps.map (fun e => (e.1, g e.2))
    saved := s.saved.map (fun (v : SavedWarp) => { v with warp := g v.warp })
    regs := s.regs.map (fun e => (e.1, { e.2 with key := key e.2.key })) }

/-- Waits at scratchpad that a restore finds satisfied, by a write that took its place by their deadline, end with OK_WOKEN; the others go on waiting (R224, R234). -/
def State.recheckSpad (s : State) (core b : Nat) : State :=
  let lo := spadKey core b 0
  let hit := s.regs.filter (fun e => decide (e.2.place = .warp) && decide (lo ≤ e.2.key) && decide (e.2.key < lo + 65536) &&
    s.regHolds e.2 && (e.2.met || s.inTime e.2))
  let s := hit.foldl (fun s e => s.endReg e.1 1) s
  { s with regs := s.regs.map (fun e => if e.2.met && decide (lo ≤ e.2.key) && decide (e.2.key < lo + 65536) then (e.1, { e.2 with met := false }) else e) }

/-- Numbers of the banks that no launch owns. -/
def State.freeBanks (s : State) (core : Nat) : List Nat := ((s.core core).banks.zipIdx.filter (fun b => b.1.owner.isNone)).map (·.2)

/-! ### Who may come (R79, R390) -/

/-- The core indexes of resident warps' contexts: contexts with a warp on a core. -/
def State.contextsOn (s : State) (core : Nat) : List Nat :=
  ((s.warps.filter (fun e => decide (e.1 / 64 = core))).map (fun e => (s.launch e.2.run.launch).asid)).eraseDups

/-- Launches of a context that hold warps on a core, resident or saved. -/
def State.launchesOn (s : State) (core asid : Nat) : List Nat :=
  (((s.warps.filter (fun e => decide (e.1 / 64 = core))).map (fun e => e.2.run.launch) ++
    (s.saved.filter (fun v => decide (v.wid / 64 = core))).map (fun v => v.warp.run.launch)).filter
      (fun l => decide ((s.launch l).asid = asid))).eraseDups

/-- At most four launches of a context hold warps on a core (R390), and at most four contexts are resident there (R79). -/
def State.admits (s : State) (core launch : Nat) : Bool :=
  let a := (s.launch launch).asid
  let ls := s.launchesOn core a
  let cs := s.contextsOn core
  (ls.contains launch || decide (ls.length < 4)) && (cs.contains a || decide (cs.length < 4))

/-- The context exists and the CP may place work of it (R390, R397). Log 43. -/
def State.ctxRuns (s : State) (asid : Nat) : Bool :=
  match s.ctxs.find? asid with
  | some c => !c.suspended && !c.ended
  | none => false

/-! ### Context records (R364) -/

/-- Physical address of a group's generation word (R236). Log 4. -/
def State.genWord (s : State) (g : Nat) : Nat := s.fw.genWords + 4 * g

/-- Barrier groups start with E = 0, G = 0, no members and no arrivals (R236). -/
def State.clearGroups (s : State) (which : Nat → Bool) : State :=
  let held := s.barriers.filter (fun e => which e.1)
  held.foldl (fun s e => { s with barriers := s.barriers.erase e.1 }.homeWrite { wid := none, core := none } .dev none 0 (s.genWord e.1) (bytesOfNat 4 0)) s

/-- Groups that a context is assigned start anew (R236, R364). -/
def State.resetGroups (s : State) (base count : Nat) : State := s.clearGroups (fun g => decide (base ≤ g) && decide (g < base + count))

/-- A record assigns a barrier group. -/
def CtxRecord.assigns (r : CtxRecord) (g : Nat) : Bool := decide (r.bgbase ≤ g) && decide (g < r.bgbase + r.bgcount)

/-- The CP is about to read a context's record at its home (R205, R209): what is not published to it is recalled first. Log 4. -/
def State.callRecord (s : State) (asid : Nat) : State :=
  let k := s.fw.ctxTable + 64 * asid
  (s.touch .dev k 64).recall .dev k 64

/-- The 64 bytes of a context record, as the CP finds them (R4). Log 4. -/
def State.recordOf (s : State) (asid : Nat) : Nat :=
  natOfBytes ((keysFrom (s.fw.ctxTable + 64 * asid) 64).map (fun k => s.found [47] k (s.mem.byte k)))

/-- VALID of a context record; a record that an uncorrectable error struck reads as zero there (R183). -/
def State.recordValid (s : State) (asid : Nat) : Bool := !s.struck (s.fw.ctxTable + 64 * asid) 64 && bit (s.recordOf asid) 192

/-- Fields of a context record (Table 22-1). -/
def ctxRecordOf (v : Nat) : CtxRecord :=
  { save := bits v 511 448, faultq := bits v 447 384, fqcap := bits v 383 352, hamper := bits v 351 288, qtable := bits v 287 224,
    bgbase := bits v 223 214, bgcount := bits v 213 203, nq := bits v 202 196, world := bit v 193 }

/-- A power of two from 16 to 2^20. -/
def fqcapOk (n : Nat) : Bool := (List.range 17).any (fun i => decide (n = 2 ^ (i + 4)))

/-- The fields of a record lie in their ranges (R364); its reserved bits are ignored (R3). -/
def ctxRecordOk (v : Nat) : Bool :=
  let r := ctxRecordOf v
  decide (r.save % 4096 = 0) && decide (r.faultq % 64 = 0) && fqcapOk r.fqcap && decide (r.qtable % 64 = 0) && decide (r.bgbase + r.bgcount ≤ 1024) &&
    decide (r.nq ≤ 63)

/-- Two contexts' barrier groups overlap. -/
def CtxRecord.overlaps (a b : CtxRecord) : Bool :=
  decide (0 < a.bgcount) && decide (0 < b.bgcount) && decide (a.bgbase < b.bgbase + b.bgcount) && decide (b.bgbase < a.bgbase + a.bgcount)

/-- What the CP makes of a context's record (R364): its fields, and whether one breaks its range or its barrier groups overlap those of a context that was created before. -/
def State.askRecord (s : State) (asid born : Nat) : CtxRecord × Bool :=
  let v := s.recordOf asid
  let r := ctxRecordOf v
  (r, !ctxRecordOk v || s.ctxs.any (fun e => decide (e.1 ≠ asid) && decide (e.2.born < born) && r.overlaps e.2.rcd))

/-- The CP reads a context's record anew (R364): barrier groups that it did not assign before start anew (R236). Log 43. -/
def State.rereadContext (s : State) (asid : Nat) : State :=
  let s := s.callRecord asid
  match s.recordValid asid, s.ctxs.find? asid with
  | true, some c =>
    let (r, bad) := s.askRecord asid c.born
    let s := if bad then s else s.clearGroups (fun g => r.assigns g && !c.rcd.assigns g)
    { s with ctxs := s.ctxs.modify asid (fun c => { c with rcd := r, bad := bad }) }
  | _, _ => s

/-- A context comes to a core that holds no warp of it: a placement, at which the CP reads its record (R364). -/
def State.placeContext (s : State) (core asid : Nat) : State := if (s.contextsOn core).contains asid then s else s.rereadContext asid

/-! ### New warps (R71, R72) -/

/-- A lane of a new warp before its frame is set. -/
def LaneState.fresh (seed : Word) (i : Nat) : LaneState :=
  { fp := 0, sp := 0, floor := 0, idx := 0, depth := 0, stream := laneSeed seed i, role := .none, hosts := [], entered := [], doomed := false }

/-- A new warp (R71, R72): registers zero, k0 its live lanes, one READY entry at `pc` with priority 0, streams seeded. -/
def WarpCore.fresh (core slot launch rank gen alloc : Nat) (live : Mask) (pc : Nat) (seed : Word) : WarpCore :=
  { core := core, slot := slot, launch := launch, rank := rank, gen := gen, alloc := alloc, live := live,
    frontier := if live = 0 then [] else [{ prio := 0, pc := pc, lanes := live, state := .ready }],
    regs := [], w := [], k := Map.set 0 [] 0 live, x := [], q := [], lanes := (List.range 32).map (LaneState.fresh seed),
    flags := 0, srng := seed, drop := false, trapvec := 0, wbase := 0, out := [], held := false, drained := 0, yieldTo := none,
    stores := [], refresh := 0, reads := [], owed := false, tags := [], bcuLast := 0, bcuSeq := 0, fenced := [], seamOut := 0,
    handler := none, subs := [], nextSub := 0, due := [], task := 0, job := 0, depth := 0 }

/-- Slice of the frame arena for one lane (R71). -/
def Launch.slice (l : Launch) : Nat := l.arenaSz / (l.warps * 32) / 16 * 16

/-- Frames of a warp's lanes by its rank (R71, R84). -/
def WarpCore.withFrames (w : WarpCore) (l : Launch) : WarpCore :=
  { w with lanes := w.lanes.zipIdx.map fun e =>
      { e.1 with fp := BitVec.ofNat 32 ((32 * w.rank + e.2 + 1) * l.slice)
                 sp := BitVec.ofNat 32 ((32 * w.rank + e.2 + 1) * l.slice)
                 floor := (32 * w.rank + e.2) * l.slice } }

/-- The next GEN of a slot of a launch (R385). -/
def State.takeGen (s : State) (launch wid : Nat) : State × Nat :=
  let n := Map.get 0 (s.launch launch).gens wid
  (s.modLaunch launch (fun l => { l with gens := Map.set 0 l.gens wid (n + 1) }), n % 1024)

/-- Make a warp resident; its floors are what is published to it now (R206). A context that has ended starts none (R390). -/
def State.startWarp (s : State) (w : WarpCore) : State :=
  if (match s.ctxs.find? (s.asidOf w) with | some c => c.ended | none => false) then s
  else { s with warps := s.warps.insert w.wid { run := { w with refresh := s.seq }, help := [] } }

/-! ### The fault queue (R369, R384) -/

/-- A frame as a 512-bit value (Table 24-1). -/
def Frame.bits (f : Frame) (savedw : Nat) : Nat :=
  let b (x : Bool) (i : Nat) : Nat := if x then 2 ^ i else 0
  savedw % 2 ^ 64 * 2 ^ 448 + f.helper % 2 ^ 64 * 2 ^ 384 + f.task % 2 ^ 64 * 2 ^ 320 + f.token % 2 ^ 64 * 2 ^ 256 +
    f.insn % 2 ^ 64 * 2 ^ 192 + f.pc % 2 ^ 57 * 2 ^ 128 + f.faddr % 2 ^ 64 * 2 ^ 64 + f.lanes % 2 ^ 32 * 2 ^ 32 +
    b f.pair 20 + b f.nested 19 + b f.gone 18 + b f.queued 17 + b f.imprecise 16 + f.subcode % 256 * 256 + f.cause % 256

/-- Code of a cause (Table 24-4). -/
def Cause.code : Cause → Nat
  | .illegalOp => 1
  | .reservedField => 2
  | .pageFaultLd => 3
  | .pageFaultSt => 4
  | .protection => 5
  | .world => 6
  | .align => 7
  | .window => 8
  | .badCallee => 9
  | .frameOverflow => 10
  | .softTrap => 11
  | .engineFault => 12
  | .impreciseStore => 13
  | .cancel => 14
  | .adoptedFault => 15
  | .spadBounds => 16
  | .tileBounds => 17
  | .accBounds => 18

/-- A queued frame that no precise trap produced (R386): empty but for its cause and subcode. -/
def Frame.queued_ (cause : Cause) (subcode : Nat) : Frame :=
  { helper := 0, task := 0, token := 0, insn := 0, pc := 0, faddr := 0, lanes := 0, pair := false, nested := false, gone := false,
    queued := true, imprecise := true, subcode := subcode, cause := cause.code }

/-- Write bytes through a context's page tables as a module-wide engine (published at .dev): whether it succeeded. -/
def State.ctxWrite (s : State) (asid va : Nat) (data : List Byte) : State × Bool :=
  match s.engineTranslate .dev asid .store va with
  | (s, .ok (l, pa)) => ((s.fillSpan l pa data.length).engineWrite none l.okey pa data, true)
  | (s, .error _) => (s, false)

/-- Read bytes through a context's page tables at the home; they lie within one page. -/
def State.ctxRead (s : State) (asid va n : Nat) : State × Option (List Byte) :=
  match s.engineTranslate .dev asid .load va with
  | (s, .ok (l, pa)) =>
    let s := ((s.touch .dev pa n).recall .dev pa n).fillSpan l pa n
    (s.countDrop pa n, some (s.homeBytes [9, va] l.okey pa n))
  | (s, .error _) => (s, none)

/-- The dropped-frame count of the fault queue rises, saturating, when the header can be written (R369). -/
def State.loseFrame (s : State) (asid faultq : Nat) : State :=
  match s.ctxRead asid faultq 12 with
  | (s, some h) =>
    let n := natOfBytes (h.drop 8)
    (s.ctxWrite asid (faultq + 8) (bytesOfNat 4 (min (2 ^ 32 - 1) (n + 1)))).1
  | (s, none) => s

/-- Hardware may write at an address of a context. -/
def State.canWrite (s : State) (asid va : Nat) : Bool :=
  match (s.engineTranslate .dev asid .store va).2 with
  | .ok _ => true
  | .error _ => false

/-- Put a frame into a context's fault queue (R369): the frame, then TAIL; a frame with no room, or with no page for it or for the header, is lost. `launch` takes the error status, and its graph counts a frame written. -/
def State.queueFrame (s : State) (asid : Nat) (launch : Option Nat) (f : Frame) (savedw : Nat) : State :=
  let s := match launch with | some l => s.modLaunch l (fun x => { x with faulted := true }) | none => s
  match s.ctxs.find? asid with
  | none => s
  | some c =>
    let q := c.rcd.faultq
    match s.ctxRead asid q 8 with
    | (s, none) => s
    | (s, some h) =>
      let tail := natOfBytes (h.take 4)
      let head := natOfBytes (h.drop 4)
      if (tail + 2 ^ 32 - head) % 2 ^ 32 = c.rcd.fqcap ∨ s.canWrite asid q = false then s.loseFrame asid q
      else
        match s.ctxWrite asid (q + 64 + 64 * (tail % c.rcd.fqcap)) (bytesOfNat 64 (f.bits savedw)) with
        | (s, false) => s.loseFrame asid q
        | (s, true) =>
          let s := (s.ctxWrite asid q (bytesOfNat 4 ((tail + 1) % 2 ^ 32))).1
          match launch with
          | some l =>
            let g := (s.launch l).graph
            { s.modLaunch l (fun x => { x with frames := x.frames + 1 }) with
              graphs := s.graphs.modify g (fun x => { x with faults := min 65535 (x.faults + 1) }) }
          | none => s

/-! ### The end of a context (R390) -/

/-- The warp belongs to a launch of the context. -/
def State.inContext (s : State) (asid : Nat) (w : WarpCore) : Bool := decide ((s.launch w.launch).asid = asid)

/-- A save or frame write, or a dropped save-region read, ends the context (R390, R411): its warps, waits and calls are gone, every launch of it has FAULT, and the CP queues a frame with detail 2. Log 43. -/
def State.endContext (s : State) (asid addr : Nat) : State :=
  let s := s.queueFrame asid none { Frame.queued_ .engineFault 6 with insn := 2, faddr := addr } 0
  let of (l : Nat) : Bool := decide ((s.launch l).asid = asid)
  { s with
    ctxs := s.ctxs.modify asid (fun c => { c with ended := true })
    launches := s.launches.map (fun e => (e.1, if e.2.asid = asid then { e.2 with faulted := true, stopped := true } else e.2))
    warps := s.warps.filter (fun e => !of e.2.run.launch)
    saved := s.saved.filter (fun v => !of v.warp.run.launch)
    evicting := s.evicting.filter (fun k => match s.warp? k with | some w => !of w.launch | none => false)
    widens := s.widens.filter (fun e => !of e.2.launch)
    gathers := s.gathers.filter (fun e => !of e.2.launch)
    keyeds := s.keyeds.filter (fun e => !of e.2.launch)
    regs := s.regs.filter (fun e => decide (e.2.asid ≠ asid)) }

/-! ### Pages of an access -/

/-- An access cut at 256 KiB page bounds. -/
def pageRuns (va n : Nat) : List (Nat × Nat) :=
  if n = 0 then []
  else (List.range ((va + n - 1) / 2 ^ 18 + 1 - va / 2 ^ 18)).map fun i =>
    let lo := max va ((va / 2 ^ 18 + i) * 2 ^ 18)
    let hi := min (va + n) ((va / 2 ^ 18 + i + 1) * 2 ^ 18)
    (lo, hi - lo)

/-- A piece of an access in one page: its leaf, physical address, offset in the access and length. -/
structure Piece where
  leaf : Leaf
  pa : Nat
  off : Nat
  len : Nat
  deriving DecidableEq, Repr

/-- Translate each page that `n` bytes from a virtual address touch (R14, R273): the pieces, or the first failure and its address. -/
def State.pieces (s : State) (holder : Party) (asid : Nat) (acc : Acc) (va n : Nat) : State × Except (AccErr × Nat) (List Piece) :=
  (pageRuns va n).foldl (fun a r =>
    match a with
    | (s, .error e) => (s, .error e)
    | (s, .ok l) =>
      match s.engineTranslate holder asid acc r.1 with
      | (s, .error e) => (s, .error (e, r.1))
      | (s, .ok (leaf, pa)) => (s, .ok (l ++ [{ leaf := leaf, pa := pa, off := r.1 - va, len := r.2 }]))) (s, .ok [])

/-! ### Reads of the save region (R390, R411) -/

/-- Address of a core's save area in a context (Table 24-3). -/
def State.coreArea (s : State) (asid core : Nat) : Nat :=
  match s.ctxs.find? asid with
  | some c => (c.rcd.save + 0x3C0000000 + 0x140000 * core) % 2 ^ 64
  | none => 0

/-- Bytes of a Press image (Table 16-6). -/
def imageBytes : Nat := 470016

/-- Hardware reads `n` bytes of the save region back (R390, R411): the failing address, when a page of them cannot be read or a read of them was dropped, which is counted. -/
def State.readSave (s : State) (asid va n : Nat) : State × Option Nat :=
  match s.pieces .dev asid .load va n with
  | (s, .error f) => (s, some f.2)
  | (s, .ok ps) => (ps.foldl (fun s p => s.countDrop p.pa p.len) s, if ps.any (fun p => s.struck p.pa p.len) then some va else none)

/-- Read several ranges of the save region back, up to the first that fails. -/
def State.readSaves (s : State) (asid : Nat) (l : List (Nat × Nat)) : State × Option Nat :=
  l.foldl (fun a r => match a with
    | (s, some f) => (s, some f)
    | (s, none) => s.readSave asid r.1 r.2) (s, none)

/-! ### Warps that start (R71, R72, R81) -/

/-- Give a launch its banks on a core when it starts there (R70, R166): the lowest unowned ones, zeroed, in SPAD mode; or with what was saved of them (R79), read back from the save region (R411). -/
def State.takeBanks (s : State) (core launch : Nat) : State :=
  if !(s.banksOf core launch).isEmpty then s
  else
    match s.bankSave core launch with
    | some x =>
      let asid := (s.launch launch).asid
      match s.readSaves asid (x.nos.map (fun b => (s.coreArea asid core + 0x10000 * b, 0x10000))) with
      | (s, some f) => s.endContext asid f
      | (s, none) =>
        let s := (x.banks.zip (s.freeBanks core)).zipIdx.foldl (fun s e =>
          let b := e.1.2
          let s := ((s.dropWays core b).moveBank (savedKey launch core (65536 * e.2)) (spadKey core b 0)).modBank core b (fun _ => { e.1.1 with owner := some launch })
          s.recheckSpad core b) s
        { s with bankSaves := s.bankSaves.filter (fun y => decide (y ≠ x)) }
    | none =>
      ((s.freeBanks core).take (s.launch launch).banks).foldl (fun s b =>
        ((s.dropWays core b).zeroBank core b).modBank core b (fun x => { x with owner := some launch, mode := .spad, head := 0, fifo := [] })) s

/-- Start a warp of a launch in a slot, as R71 and R72 give: rank, entry and w registers. -/
def State.startFor (s : State) (core slot launch rank pc : Nat) (live : Mask) (ws : List Word) : State :=
  let l := s.launch launch
  let s := (s.placeContext core l.asid).takeBanks core launch
  let (s, gen) := s.takeGen launch (widOf core slot)
  let w := (WarpCore.fresh core slot launch rank gen l.alloc live (pc / 4 * 4) 1).withFrames l
  let w := { w with x := l.tiles, w := ws.zipIdx.foldl (fun t e => Map.set 0 t e.2 e.1) [] }
  s.startWarp w

end Sys2Proof.Machine
end

