-- ==== Sys2Proof/Machine/Tasks.lean ====
section
/-! DEFINITION. The Darner's own work (R243 to R250, R415): records at their home, claims, the deque and the pending list, `EndTask` and `Finish`, steal requests, the start of a claimed task, the cancel bit. -/

namespace Sys2Proof.Machine

/-- A core's Darner for a launch that has done nothing. -/
def Darner.fresh : Darner :=
  { deque := [], pending := [], mailbox := [], lastVictim := none, request := none, handed := [], ranges := [], pool := [] }

/-- A core's Darner for a launch. -/
def State.darner (s : State) (core launch : Nat) : Darner := ((s.core core).darners.find? launch).getD Darner.fresh

/-- Change a Darner. -/
def State.modDarner (s : State) (core launch : Nat) (f : Darner → Darner) : State :=
  s.modCore core (fun c => { c with darners := c.darners.insert launch (f ((c.darners.find? launch).getD Darner.fresh)) })

/-- A fault in a Darner's own access waits for its frame (R415). -/
def State.darnerFail (s : State) (launch record addr token : Nat) : State :=
  { s with darnerFaults := s.darnerFaults ++ [{ launch := launch, record := record, addr := addr, token := token }] }

/-- Read `n` bytes of a record's surroundings at the home, in the launch's ASID (R415). Log 30. -/
def State.dRead (s : State) (launch record va n token : Nat) : State × Option Nat :=
  match s.ctxRead (s.launch launch).asid va n with
  | (s, some b) => (s, some (natOfBytes b))
  | (s, none) => (s.darnerFail launch record va token, none)

/-- Write bytes as the Darner does: at the home, published at .dev (R243). Log 30. -/
def State.dWrite (s : State) (launch record va : Nat) (data : List Byte) (token : Nat) : State :=
  match s.ctxWrite (s.launch launch).asid va data with
  | (s, true) => s
  | (s, false) => s.darnerFail launch record va token

/-! ### The control word (Table 13-1, bytes 24 to 31) -/

/-- JOIN. -/
def ctlJoin (v : Nat) : Nat := bits v 31 0
/-- KIND: 1 for a range record. -/
def ctlRange (v : Nat) : Bool := bit v 35
/-- JOB. -/
def ctlJob (v : Nat) : Nat := bits v 63 48
/-- A control word. -/
def ctlWord (join state : Nat) (range : Bool) (job : Nat) : Nat :=
  join % 2 ^ 32 + state % 8 * 2 ^ 32 + (if range then 2 ^ 35 else 0) + job % 2 ^ 16 * 2 ^ 48
/-- The control word with another STATE. -/
def ctlSetState (v st : Nat) : Nat := ctlWord (ctlJoin v) st (ctlRange v) (ctlJob v)
/-- The control word with another JOIN. -/
def ctlSetJoin (v j : Nat) : Nat := ctlWord j (ctlState v) (ctlRange v) (ctlJob v)

/-- A record's control word can be written by an atomic in the launch's ASID (R245, R415). -/
def State.controlOk (s : State) (launch record : Nat) : Bool :=
  match (s.engineTranslate .dev (s.launch launch).asid .atomic (record + 24)).2 with
  | .ok _ => true
  | .error _ => false

/-- Write a record's control word by an atomic at .dev (R243). -/
def State.setControl (s : State) (core launch record v token : Nat) : State :=
  let asid := (s.launch launch).asid
  match s.engineTranslate .dev asid .atomic (record + 24) with
  | (s, .error _) => s.darnerFail launch record (record + 24) token
  | (s, .ok (l, pa)) => (s.fillLine l pa).homeWrite { wid := none, core := some core, engine := true } .dev (some .dev) l.okey pa (bytesOfNat 8 v)

/-- Read a record's control word at its home. -/
def State.control (s : State) (launch record token : Nat) : State × Option Nat := s.dRead launch record (record + 24) 8 token

/-- The cancel bit of a job at its home, as LD.dev reads it (R245); none when the Darner cannot read it, which stops the launch (R415). -/
def State.cancelBit (s : State) (launch job record token : Nat) : State × Option Bool :=
  match s.dRead launch record ((s.launch launch).cancel + job / 8) 1 token with
  | (s, some b) => (s, some (bit b (job % 8)))
  | (s, none) => (s, none)

/-- Launches of a launch's context: a record, an address of theirs, may be held by any of them. -/
def State.sameContext (s : State) (launch : Nat) : List Nat :=
  (s.launches.filter (fun e => decide (e.2.asid = (s.launch launch).asid))).map (·.1)

/-- A record has ended: no launch waits for it any more (R247). -/
def State.closeRecord (s : State) (launch record : Nat) : State :=
  (s.sameContext launch).foldl (fun s id => s.modLaunch id (fun l => { l with records := l.records.filter (fun x => decide (x ≠ record)) })) s

/-- Outcome of a claim (R245). -/
inductive Claim where
  | won (control : Nat)
  | lost
  | reserved
  deriving DecidableEq, Repr

/-- Warps of a launch on a core, resident or not, with their ranks. -/
def State.warpsOn (s : State) (core launch : Nat) : List WarpCore :=
  ((s.warps.map (fun e => e.2)) ++ s.saved.map (·.warp)).foldl (fun acc w => acc ++ (w.run :: w.help).filter
    (fun x => decide (x.core = core) && decide (x.launch = launch))) []

/-- Lowest rank that no live warp of the launch on the core holds (R247). -/
def freeRank (ws : List WarpCore) (n : Nat) : Option Nat := (List.range n).find? (fun i => !(ws.any (fun w => decide (w.rank = i))))

/-- Can the core start one more warp of the launch (R68, R69, R70)? -/
def State.taskSlot (s : State) (core launch : Nat) : Option (Nat × Nat) :=
  let l := s.launch launch
  if !s.banksFit core launch then none
  else
    match freeRank (s.warpsOn core launch) l.warps, chooseSlot (s.slotsUsed core) l.alloc with
    | some r, some slot => some (slot, r)
    | _, _ => none

/-- The w registers a task starts with (R247). -/
def taskWords (record frame job : Nat) : List Word :=
  [BitVec.ofNat 32 record, BitVec.ofNat 32 (record / 2 ^ 32), BitVec.ofNat 32 frame, BitVec.ofNat 32 (frame / 2 ^ 32), BitVec.ofNat 32 job]

/-- Bytes of a record that are undefined from now on, when their page can be reached. -/
def State.undefine (s : State) (launch va n : Nat) : State :=
  match s.engineTranslate .dev (s.launch launch).asid .load va with
  | (s, .ok (_, pa)) => { s with undef := wordRange pa n :: s.undef }
  | (s, .error _) => s

/-- A range record's bounds at the claim (R244): LO, HI, GRAIN, with 0 acting as 1; LO and HI in memory are undefined while the task runs. Whether they could be read (R415). Log 30. -/
def State.loadRange (s : State) (core launch record code frame token : Nat) : State × Bool :=
  match s.dRead launch record (record + 32) 12 token with
  | (s, some v) =>
    let g := bits v 95 64
    let r : RangeTask := { lo := bits v 31 0, hi := bits v 63 32, grain := if g = 0 then 1 else g, code := code, frame := frame }
    let s := s.modDarner core launch (fun d => { d with ranges := d.ranges.insert record r })
    (s.undefine launch (record + 32) 8, true)
  | (s, none) => (s, false)

/-- The bounds of a range task return to its record as its run ends (R244). Log 30. -/
def State.storeRange (s : State) (core launch record token : Nat) : State :=
  match (s.darner core launch).ranges.find? record with
  | none => s
  | some r =>
    let s := s.modDarner core launch (fun d => { d with ranges := d.ranges.erase record })
    s.dWrite launch record (record + 32) (bytesOfNat 4 r.lo ++ bytesOfNat 4 r.hi) token

/-- Run a claimed task in a new warp (R247); a record that the Darner cannot read starts none (R415). -/
def State.startTask (s : State) (core launch record control slot rank : Nat) : State :=
  match s.dRead launch record record 16 0 with
  | (s, none) => s
  | (s, some v) =>
    let frame := bits v 127 64
    let (s, read) := if ctlRange control then s.loadRange core launch record (bits v 56 0) frame 0
      else (s.modDarner core launch (fun d => { d with ranges := d.ranges.erase record }), true)
    if !read then s
    else
      let wid := widOf core slot
      let s := s.startFor core slot launch rank (bits v 56 0) 0xFFFFFFFF (taskWords record frame (ctlJob control))
      s.modRun wid (fun w => { w with task := record, job := ctlJob control })

/-- Free the split-pool slot of a record (R250), whichever launch of the context owns the pool. -/
def State.freePool (s : State) (launch record : Nat) : State :=
  let ls := s.sameContext launch
  { s with cores := s.cores.map (fun e => (e.1, { e.2 with darners := e.2.darners.map (fun (x : Nat × Darner) =>
      if ls.contains x.1 then (x.1, { x.2 with pool := x.2.pool.filter (fun y => decide (y ≠ record)) }) else x) })) }

/-- A PARKED record that a full deque cannot take (R248): the oldest steal request gets it, or the pending list keeps it. Log 30. -/
def State.keepPending (s : State) (core launch record : Nat) : State :=
  match (s.darner core launch).mailbox with
  | (thief, _) :: rest =>
    let s := s.modDarner core launch (fun d => { d with mailbox := rest })
    s.modDarner thief launch (fun d => { d with handed := d.handed ++ [record], request := none })
  | [] => s.modDarner core launch (fun d => { d with pending := d.pending ++ [record] })

/-- Finish with STATE `st` (R247), up the chain of parents while each was waiting for its last child. `freed`: the slot and rank that the ending task freed, which may run a record that a full deque cannot take (R248). Log 17. -/
def State.finish (freed : Option (Nat × Nat)) : Nat → State → Nat → Nat → Nat → Nat → Nat → State
  | 0, s, _, _, _, _, _ => s
  | n + 1, s, core, launch, record, st, token =>
    match s.control launch record token with
    | (s, none) => s
    | (s, some v) =>
      let s := s.setControl core launch record (ctlSetState v st) token
      let s := (s.freePool launch record).closeRecord launch record
      match s.dRead launch record (record + 16) 8 token with
      | (s, none) => s
      | (s, some p) =>
        if p = 0 then s
        else
          match s.control launch p token with
          | (s, none) => s
          | (s, some pv) =>
            let j := ctlJoin pv
            let pv' := ctlSetJoin pv (j + 2 ^ 32 - 1)
            let s := s.setControl core launch p pv' token
            if j = 1 ∧ ctlState pv = 2 then
              match s.dRead launch p p 8 token with
              | (s, none) => s
              | (s, some code) =>
                if code = 0 then State.finish freed n s core launch p 4 token
                else
                  match s.cancelBit launch (ctlJob pv) p token with
                  | (s, none) => s
                  | (s, some true) => State.finish freed n s core launch p 6 token
                  | (s, some false) =>
                    let s := s.setControl core launch p (ctlSetState pv' 3) token
                    let d := s.darner core launch
                    if d.deque.length < Config.dequeEntries then s.modDarner core launch (fun d => { d with deque := p :: d.deque })
                    else
                      match freed with
                      | some (slot, rank) =>
                        let s := s.setControl core launch p (ctlSetState pv' 1) token
                        s.startTask core launch p (ctlSetState pv' 1) slot rank
                      | none => s.keepPending core launch p
            else s

/-- Length of a chain of parents that `finish` follows (log 17). -/
def finishFuel : Nat := 65536

/-- `Finish` for a record whose end frees no slot (R247, R248). -/
def State.finishHere (s : State) (core launch record st token : Nat) : State := State.finish none finishFuel s core launch record st token

/-- Claim a record (R245): only an UNSTARTED or PARKED one is won; a cancelled job's becomes DISCARDED; STATE 7 queues a frame, and the record keeps its launch from completing no longer (R247); one whose compare-and-swap or cancel bit cannot be reached stops the launch, and nothing runs; a stopped launch claims nothing (R415). Log 30. -/
def State.claim (s : State) (core launch record token : Nat) : State × Claim :=
  if (s.launch launch).stopped then (s, .lost)
  else
  match s.control launch record token with
  | (s, none) => (s, .lost)
  | (s, some v) =>
    if ctlState v = 7 then
      let s := s.closeRecord launch record
      (s.queueFrame (s.launch launch).asid (some launch) { Frame.queued_ .protection 6 with task := record, token := token } 0, .reserved)
    else if ctlState v = 0 ∨ ctlState v = 3 then
      if !s.controlOk launch record then (s.darnerFail launch record (record + 24) token, .lost)
      else
      let s := s.setControl core launch record (ctlSetState v 1) token
      match s.cancelBit launch (ctlJob v) record token with
      | (s, none) => (s, .lost)
      | (s, some true) => (s.finishHere core launch record 6 token, .lost)
      | (s, some false) => (s, .won (ctlSetState v 1))
    else (s, .lost)

/-- EndTask (R247), with the slot and rank that the task's end frees. -/
def State.endTask (s : State) (freed : Option (Nat × Nat)) (core launch record token : Nat) : State :=
  let s := s.storeRange core launch record token
  match s.control launch record token with
  | (s, none) => s
  | (s, some v) =>
    if ctlJoin v = 0 then State.finish freed finishFuel s core launch record 4 token
    else
      let s := s.dWrite launch record record (bytesOfNat 8 0) token
      s.setControl core launch record (ctlSetState v 2) token

/-- Push a spawned record on the deque, or hand it to the oldest pending request (R248, R250, R252). -/
def State.pushRecord (s : State) (core launch record : Nat) : State :=
  match (s.darner core launch).mailbox with
  | (thief, _) :: rest =>
    let s := s.modDarner core launch (fun d => { d with mailbox := rest })
    s.modDarner thief launch (fun d => { d with handed := d.handed ++ [record], request := none })
  | [] => s.modDarner core launch (fun d => { d with deque := record :: d.deque })

/-- The deque takes no push (R248). -/
def State.dequeFull (s : State) (core launch : Nat) : Bool :=
  let d := s.darner core launch
  decide (Config.dequeEntries ≤ d.deque.length) || !d.pending.isEmpty

/-- The launch has a Darner area (R246). -/
def State.hasDarner (s : State) (launch : Nat) : Bool := (s.launch launch).task

/-- Address of a core's Darner area (R371). -/
def State.darnerArea (s : State) (core launch : Nat) : Nat :=
  let l := s.launch launch
  l.darner + 65536 * l.rankOf core

/-- A cancelled job ends the wait (R267, Table 12-4): not an ACPWAIT, which R280 lets complete with codes 0 and 1 alone, nor a BANKCFG, which has no code and waits for its bank (R196), nor an access that waits for one (R168). Log 55. -/
def WaitKind.cancels : WaitKind → Bool
  | .acp _ => false
  | .bankcfg _ => false
  | .access _ => false
  | .mem _ => true
  | .future _ _ => true
  | .lock _ _ => true
  | .qtake _ _ _ => true
  | .qput _ _ _ _ _ _ => true
  | .fifo _ _ => true
  | .press _ => true
  | .pressOut => true
  | .mxload _ => true
  | .bcu _ => true
  | .bcuAll => true
  | .bcuFence => true
  | .seamOut => true
  | .ctxsave _ => true
  | .snapshot _ _ => true

/-- An access that a BANKCFG holds back is no wait of R267. -/
def WaitKind.isAccess : WaitKind → Bool
  | .access _ => true
  | _ => false

/-- A waiting lane completes with CANCELLED, and a trap is due to it (R267, Table 12-4). -/
def WarpCore.cancelWaits (w : WarpCore) : WarpCore :=
  let waiting := w.frontier.foldl (fun m e => match e.state with | .wait _ t => if t.code.isNone && !t.kind.isAccess then m ||| e.lanes else m | _ => m) 0
  let w := w.recordIf (fun t _ => t.kind.cancels) 4
  { w with lanes := w.lanes.zipIdx.map (fun e => if hasLane waiting e.2 then { e.1 with doomed := true } else e.1) }

/-- Every wait of the running tasks of a job, or of the whole launch, completes with CANCELLED (R267, R415): their registrations are freed. A lane that FIFO or a counter wait holds is taken from it too. -/
def State.cancelLaunchWaits (s : State) (launch : Nat) (job : Option Nat) (everyLane : Bool) : State :=
  let hitW (w : WarpCore) : Bool :=
    decide (w.launch = launch) && decide (w.task ≠ 0) && (match job with | some j => decide (w.job = j) | none => true)
  let dead (id : Nat) : Bool :=
    (s.warps.any (fun e => (e.2.run :: e.2.help).any (fun w => hitW w && w.frontier.any (fun x =>
      match x.state with | .wait _ t => t.code.isNone && decide (t.kind.reg? = some id) | _ => false)))) ||
    (s.saved.any (fun e => (e.warp.run :: e.warp.help).any (fun w => hitW w && w.frontier.any (fun x =>
      match x.state with | .wait _ t => t.code.isNone && decide (t.kind.reg? = some id) | _ => false))))
  let f (w : WarpCore) : WarpCore :=
    if hitW w then
      let w := w.cancelWaits
      if everyLane then { w with lanes := w.lanes.map (fun l => { l with doomed := true }) } else w
    else w
  let g (w : Warp) : Warp := { run := f w.run, help := w.help.map f }
  let toks (w : Warp) : List Nat := ((w.run :: w.help).filter hitW).map WarpCore.token
  let hitToks := (s.warps.map (fun e => toks e.2) ++ s.saved.map (fun v => toks v.warp)).flatten
  let out (b : Bank) : Bank := { b with waiters := b.waiters.filter (fun x => !hitToks.contains x.token) }
  { s with
    regs := s.regs.filter (fun e => !dead e.1)
    warps := s.warps.map (fun e => (e.1, g e.2))
    saved := s.saved.map (fun v => { v with warp := g v.warp
                                            marked := if hitW v.warp.run then some (v.marked.getD s.marks) else v.marked })
    cores := s.cores.map (fun c => (c.1, { c.2 with banks := c.2.banks.map out }))
    bankSaves := s.bankSaves.map (fun x => { x with banks := x.banks.map out }) }

/-- Launches whose cancel bitmap is a launch's (R246): those of its context that name the same one. -/
def State.sameBitmap (s : State) (launch : Nat) : List Nat :=
  (s.launches.filter (fun e => e.2.task && decide (e.2.asid = (s.launch launch).asid) && decide (e.2.cancel = (s.launch launch).cancel))).map (·.1)

/-- A job's cancel bit has become visible (R267): in every launch of its bitmap the waits of its running tasks are cancelled, and those that begin later (`settleCancels`). -/
def State.cancelJob (s : State) (launch job : Nat) : State :=
  (s.sameBitmap launch).foldl (fun s id => (s.modLaunch id (fun l => { l with cancelled := job :: l.cancelled.filter (fun x => decide (x ≠ job)) })).cancelLaunchWaits id (some job) false) s

/-- Waits that began after their job was cancelled, or their launch stopped, complete with CANCELLED too (R267, R415). -/
def State.settleCancels (s : State) : State :=
  s.launches.foldl (fun s e =>
    if e.2.stopped then s.cancelLaunchWaits e.1 none false
    else e.2.cancelled.foldl (fun s j => s.cancelLaunchWaits e.1 (some j) false) s) s

end Sys2Proof.Machine
end

