-- ==== Sys2Proof/Machine/Leave.lean ====
section
/-! DEFINITION. Lanes that leave: exit of lanes (R157), what a callee lane's end means for its call (R91, R96, R100, R101), release from CALLPARK (R218), the end of a warp and of an adopted task (R157, R247, R260). -/

namespace Sys2Proof.Machine

/-- Lanes leave CALLPARK (R204, R218): READY at the PC and priority that their entries hold; a boundary with refresh for their warp, which is marked runnable when it is not resident (R102). -/
def State.release (s : State) (token : Nat) (m : Mask) (sc : Scope) : State :=
  let s := s.modTok token (fun w =>
    let parked := w.frontier.filter (fun e => match e.state with | .callpark => true | _ => false)
    parked.foldl (fun w e => w.place (e.lanes &&& m) e.prio e.pc .ready) w)
  let s := s.boundaryTok token sc true
  { s with
    marks := s.marks + 1
    saved := s.saved.map (fun v => if v.warp.run.token = token ∧ v.byCall = none then { v with marked := some (v.marked.getD s.marks) } else v) }

/-- A callee lane of a keyed collection has ended (R100, R101): one fewer of its key on its core. -/
def Keyed.lower (c : Keyed) (core key : Nat) : Keyed :=
  { c with left := c.left.map (fun e => if e.1 = core ∧ e.2.1 = key then (e.1, e.2.1, e.2.2 - 1) else e) }

/-- Scope of a keyed collection's boundaries: .dev for a launch-scope header (Table 11-2). -/
def Keyed.scope (c : Keyed) : Scope := if c.core.isSome then .core else .dev

/-- What the end of one callee lane does to its call (R91, R96, R100): a sub-lane fewer; the origin released. -/
def State.endRole (s : State) (core key : Nat) (r : Role) : State :=
  match r with
  | .none => s
  | .widen call _ _ => { s with widens := s.widens.modify call (fun c => { c with left := c.left - 1 }) }
  | .keyed coll origin lane =>
    match s.keyeds.find? coll with
    | none => s
    | some c =>
      let s := { s with keyeds := s.keyeds.insert coll (c.lower core key) }
      s.release origin (laneBit lane) c.scope

/-- What the end of one lane does to the calls it takes part in: the gather groups that it hosts lose their host, innermost first (R96), then its own role ends. -/
def State.endLane (s : State) (core : Nat) (x : LaneState) : State :=
  (x.hosts.foldl (fun (s : State) g => { s with gathers := s.gathers.modify g (fun y => { y with host := none }) }) s).endRole core x.idx.toNat x.role

/-- Lanes stop living: their bits leave every mask, their entries go (R63, R157). -/
def WarpCore.kill (w : WarpCore) (m : Mask) : WarpCore :=
  let live := w.live &&& ~~~m
  { w with
    live := live
    frontier := takeLanes m w.frontier
    k := w.k.filterMap (fun e => if e.2 &&& live = 0 then none else some (e.1, e.2 &&& live))
    lanes := w.lanes.zipIdx.map (fun e => if hasLane m e.2 then { e.1 with role := .none, hosts := [], entered := [], doomed := false } else e.1) }

/-- Registrations of a warp's token are freed: nothing of it waits any more (R157). -/
def State.dropRegs (s : State) (wid : Nat) (token : Nat) : State :=
  { s with regs := s.regs.filter (fun e => match e.2.owner with
      | .warp w t => !(decide (w = wid) && decide (t = token))
      | .darner w t _ => !(decide (w = wid) && decide (t = token))
      | _ => true) }

/-- The innermost help frame is popped: the helper runs on, and the wait that adopted goes round its loop, or ends with a code (R260, R261). -/
def State.popHelp (s : State) (wid : Nat) (code : Nat) : State :=
  { s with warps := s.warps.modify wid fun x =>
      match x.help with
      | [] => x
      | h :: rest =>
        let h := h.recordIf (fun t _ => match t.kind with
          | .future none _ => true
          | .lock none _ => true
          | .qtake none _ _ => true
          | _ => false) code
        { run := { h with refresh := s.seq, reads := [] }, help := rest } }

/-- A warp that has no live lane left ends (R157, R247, R260): it publishes at .dev; a task's end is applied; a helper takes its frame back, else the slot is free. -/
def State.endWarp (s : State) (wid : Nat) : State :=
  match s.warps.find? wid with
  | none => s
  | some x =>
    let w := x.run
    let s := s.boundary wid .dev false
    let s := if w.drop then s.modLaunch w.launch (fun l => { l with dropped := true }) else s
    let s := s.dropRegs wid w.token
    let s := if x.help.isEmpty then { s with warps := s.warps.erase wid } else s.popHelp wid 1
    if w.task = 0 then s else s.endTask (if x.help.isEmpty then some (w.slot, w.rank) else none) w.core w.launch w.task w.token

/-- Lanes exit (R157): as EXIT does, with the return effects of callee lanes; a warp with no live lane left ends. -/
def State.exitLanes (s : State) (wid : Nat) (m : Mask) : State :=
  match s.warp? wid with
  | none => s
  | some w =>
    let ls := lanesOf (m &&& w.live)
    let s := s.modRun wid (fun w => w.kill m)
    let s := ls.foldl (fun s l => s.endLane w.core (w.lane l)) s
    if w.live &&& ~~~m = 0 then s.endWarp wid else s

end Sys2Proof.Machine
end

