-- ==== Sys2Proof/WellFormed.lean ====
section
/-! DEFINITION. The decoding checks of R42 to R53, R105, R106, R312 and each entry: which fields of an instruction are reserved, which values are illegal, and how each register field is read. `shape` is the one place that says it; `Instr.check` is what the decoder and the encoder share. -/

namespace Sys2Proof

/-- How an instruction reads a register field (R47, R48, R43, R106, Table 3-5). -/
inductive Opnd where
  /-- reserved: must be 0 -/
  | rsv
  /-- a value of the field itself, no register -/
  | raw
  /-- one register read -/
  | src
  /-- one register written: laneid, warpid, coreid, clk and idx are illegal -/
  | dst
  /-- a pair read: even in v or w, or zero, fp, sp -/
  | pairSrc
  /-- a register and the next one, read as two words: an even number, specials included (R231, R283, R350, R398; log 53) -/
  | evenSrc
  /-- a pair written: even in v or w, or zero; fp and sp are illegal -/
  | pairDst
  /-- a quad read: a multiple of 4 in v or w -/
  | quadSrc
  /-- a quad stored, zero allowed -/
  | quadSrcZ
  /-- a quad written, zero allowed -/
  | quadDst
  deriving DecidableEq, Repr

/-- An operand field of an X-format word (R312). -/
inductive XOpnd where
  | rsv | tile | uni | pair | quad
  deriving DecidableEq, Repr

/-- The specials that no destination may name (Table 3-5). -/
def readOnlySpecial (r : Reg) : Bool :=
  decide (r = 121) || decide (r = 122) || decide (r = 123) || decide (r = 124) || decide (r = 127)

/-- A field value that names a pair under R48. fp is named by the odd value 125 and is a pair all the same: a CALLK whose B names fp passes decoding and traps with BAD_CALLEE, subcode 4, as R154's second case says, though its first calls every odd B reserved (DEDUCED, log 53). -/
def pairField (r : Reg) : Bool :=
  (decide (r.toNat < 120) && decide (r.toNat % 2 = 0)) || decide (r = 120) || decide (r = 125) || decide (r = 126)

/-- A field value that names a quad under R43, zero not counted. -/
def quadField (r : Reg) : Bool := decide (r.toNat < 120) && decide (r.toNat % 4 = 0)

/-- The operand field holds a value that traps with ILLEGAL_OP, wherever it stands. -/
def Opnd.illegal : Opnd → Reg → Bool
  | .dst, r => readOnlySpecial r
  | .pairDst, r => readOnlySpecial r || decide (r = 125) || decide (r = 126)
  | .quadDst, r => readOnlySpecial r
  | .rsv, _ => false
  | .raw, _ => false
  | .src, _ => false
  | .pairSrc, _ => false
  | .evenSrc, _ => false
  | .quadSrc, _ => false
  | .quadSrcZ, _ => false

/-- The role names a register of any kind. -/
def Opnd.names : Opnd → Bool
  | .rsv => false
  | .raw => false
  | .src => true
  | .dst => true
  | .pairSrc => true
  | .evenSrc => true
  | .pairDst => true
  | .quadSrc => true
  | .quadSrcZ => true
  | .quadDst => true

/-- A D field, written or read, names laneid, warpid, coreid, clk or idx (R48, R43): ILLEGAL_OP. -/
def Opnd.illegalD (o : Opnd) (r : Reg) : Bool := o.names && readOnlySpecial r

/-- The operand field holds a value that traps with RESERVED_FIELD. -/
def Opnd.reserved : Opnd → Reg → Bool
  | .rsv, r => decide (r ≠ 0)
  | .pairSrc, r => !pairField r
  | .evenSrc, r => decide (r.toNat % 2 ≠ 0)
  | .pairDst, r => !pairField r
  | .quadSrc, r => !quadField r
  | .quadSrcZ, r => !quadField r && decide (r ≠ 120)
  | .quadDst, r => !quadField r && decide (r ≠ 120)
  | .raw, _ => false
  | .src, _ => false
  | .dst, _ => false

/-- How many registers the field reaches, for WINDOW (R47). -/
def Opnd.span : Opnd → Nat
  | .rsv => 0
  | .raw => 0
  | .src => 1
  | .dst => 1
  | .pairSrc => 2
  | .evenSrc => 2
  | .pairDst => 2
  | .quadSrc => 4
  | .quadSrcZ => 4
  | .quadDst => 4

/-- The payload of an extension word, 0 when there is none (R44). -/
def pxVal (px : Option (BitVec 25)) : Nat := (px.getD 0).toNat

/-- The sub code of an R-format extension payload (Table 3-3). -/
def sub (px : Option (BitVec 25)) : Nat := bits (pxVal px) 3 0

/-- Bit `i` of the sub code. -/
def subBit (px : Option (BitVec 25)) (i : Nat) : Bool := bit (sub px) i

/-- fmtA of an R-format extension payload (Table 3-3). -/
def fmtA (px : Option (BitVec 25)) : Nat := bits (pxVal px) 9 4

/-- fmtB of an R-format extension payload (Table 3-3). -/
def fmtB (px : Option (BitVec 25)) : Nat := bits (pxVal px) 15 10

/-- What an R-format instruction takes from the payload (R105): an empty list means the field is reserved. -/
structure Use where
  subs : List Nat := []
  fa : List Nat := []
  fb : List Nat := []
  /-- any extension word traps with RESERVED_FIELD (R342, R350, R394) -/
  forbid : Bool := false

/-- A used field whose value the entry does not accept (ILLEGAL_OP, R105). -/
def Use.illegal (u : Use) (px : Option (BitVec 25)) : Bool :=
  (!u.subs.isEmpty && !u.subs.contains (sub px)) || (!u.fa.isEmpty && !u.fa.contains (fmtA px)) ||
    (!u.fb.isEmpty && !u.fb.contains (fmtB px))

/-- A field the entry does not use, nonzero (RESERVED_FIELD, R44, R105). -/
def Use.reserved (u : Use) (px : Option (BitVec 25)) : Bool :=
  (u.subs.isEmpty && decide (sub px ≠ 0)) || (u.fa.isEmpty && decide (fmtA px ≠ 0)) ||
    (u.fb.isEmpty && decide (fmtB px ≠ 0)) || decide (pxVal px / 65536 ≠ 0) || (u.forbid && px.isSome)

/-- What the decoding checks need of one instruction: illegal and reserved conditions, register fields with their roles, and whether the constructor is the one its fields name. -/
structure Shape where
  ill : Bool := false
  rsv : Bool := false
  ops : List (Opnd × Reg) := []
  ok : Bool := true

/-- Add an illegal condition. -/
def Shape.andIll (s : Shape) (b : Bool) : Shape := { s with ill := s.ill || b }

/-- Add a reserved condition. -/
def Shape.andRsv (s : Shape) (b : Bool) : Shape := { s with rsv := s.rsv || b }

/-- All sixteen sub codes. -/
def allSubs : List Nat := [0, 1, 2, 3, 4, 5, 6, 7, 8, 9, 10, 11, 12, 13, 14, 15]

/-- Codes of the b8pP and u8pP formats (Table 2-1). -/
def binary8Codes : List Nat :=
  [0x11, 0x12, 0x13, 0x14, 0x15, 0x16, 0x17, 0x19, 0x1A, 0x1B, 0x1C, 0x1D, 0x1E, 0x1F,
   0x21, 0x22, 0x23, 0x24, 0x25, 0x26, 0x27, 0x29, 0x2A, 0x2B, 0x2C, 0x2D, 0x2E, 0x2F]

/-- Destinations of CVTN and targets of SCALEQ (R130, R132). -/
def narrowTargets : List Nat := [0x0C, 0x0D, 0x0E, 0x0F] ++ binary8Codes

/-- Destinations of CVT: every code but raw, sc8 and the reserved ones (R129). -/
def cvtTargets : List Nat := [1, 2, 3, 4, 8, 9, 10, 11, 12, 13, 14, 15] ++ binary8Codes

/-- Sources of CVT: as the destinations, and sc8 (R129). -/
def cvtSources : List Nat := 0x30 :: cvtTargets

/-- The shape of an R-format word with these roles and this use of the payload. -/
def rShape (r : RArgs) (d a b : Opnd) (u : Use) : Shape :=
  { ill := u.illegal r.px || d.illegalD r.d, rsv := u.reserved r.px, ops := [(d, r.d), (a, r.a), (b, r.b)] }

/-- The shape of ADDI, ANDI, ORI and XORI: payload [24:21] reserved (Table 3-3). -/
def iShape (i : IArgs) : Shape :=
  { ops := [(.dst, i.d), (.src, i.a)], rsv := decide (pxVal i.px / 2 ^ 21 ≠ 0) }

/-- Destination role of a load of size code `c` (R43). -/
def sizedDst (c : Nat) : Opnd := if c = 5 then .pairDst else if c = 6 then .quadDst else .dst

/-- Source role of a store of size code `c` (R43). -/
def sizedSrc (c : Nat) : Opnd := if c = 5 then .pairSrc else if c = 6 then .quadSrcZ else .src

/-- Size and destination codes that Table 10-2 allows. -/
def ldtOk (size dst : Nat) : Bool :=
  (decide (size = 2) && (decide (dst = 1) || decide (dst = 2))) || (decide (size = 4) && decide (dst ≠ 3)) ||
    decide (size = 5) || decide (size = 6)

/-- The shape of ATOM, ATOMS, RED and REDS (R192): `op` is the operation of Table 3-4, `spad` that it is a scratchpad form. -/
def atomShape (r : RArgs) (op : Nat) (spad : Bool) : Shape :=
  let wide := subBit r.px 0
  let b : Opnd := if op = 9 then (if wide then .quadSrc else .pairSrc) else if wide then .pairSrc else .src
  ((rShape r (if wide then .pairDst else .dst) .pairSrc b { subs := allSubs }).andIll (wide && decide (op = 10))).andRsv
    (subBit r.px 1 || (spad && decide (sub r.px / 4 ≠ 0)))

/-- The shape of a mask instruction of MAJ 0x15: which of kD, kA, kB it uses; the others are reserved, and a value of 12 to 15 is illegal in any of them (R46, R49). -/
def kShape (k : KArgs) (d a b : Bool) (r : Opnd) : Shape :=
  { ill := decide (11 < k.kd.toNat) || decide (11 < k.ka.toNat) || decide (11 < k.kb.toNat)
    rsv := (!d && decide (k.kd ≠ 0)) || (!a && decide (k.ka ≠ 0)) || (!b && decide (k.kb ≠ 0))
    ops := [(r, k.r)] }

/-- The operand field of an X-format word holds a reserved value (R312). -/
def XOpnd.reserved : XOpnd → BitVec 4 → Bool
  | .rsv, v => decide (v ≠ 0)
  | .pair, v => decide (v.toNat % 2 ≠ 0)
  | .quad, v => decide (v.toNat % 4 ≠ 0)
  | .tile, _ => false
  | .uni, _ => false

/-- Some defined bit pattern `m` covers every set bit of `p[25:0]`. -/
def payloadWithin (p m : Nat) : Bool := decide ((p % 2 ^ 26) &&& ((2 ^ 26 - 1) ^^^ m) = 0)

/-- The shape of an X-format instruction: roles of its fields, the payload bits it defines, and that its hold flags are allowed (R300, R312). -/
def xShape (x : XArgs) (o : XOpnd × XOpnd × XOpnd) (defined : Nat) (flagsOk : Bool) : Shape :=
  { rsv := x.rsv || o.1.reserved x.xd || o.2.1.reserved x.xa || o.2.2.reserved x.xb || !payloadWithin x.payload.toNat defined ||
      !flagsOk || (!x.hold && decide (x.h ≠ 0)) }

/-- A control register of 64 bits (Table 3-6). -/
def ctlWide (b : Reg) : Bool := decide (b = 3) || decide (b = 7) || decide (b = 11)

/-- The decoding checks of every instruction; an event has none. -/
def shape : Instr → Shape
  | .add r => rShape r .dst .src .src {}
  | .sub r => rShape r .dst .src .src {}
  | .mul r => rShape r .dst .src .src {}
  | .mulh r => rShape r .dst .src .src {}
  | .mulhU r => rShape r .dst .src .src {}
  | .mad r => rShape r .dst .src .src {}
  | .div r => rShape r .dst .src .src {}
  | .divU r => rShape r .dst .src .src {}
  | .mod r => rShape r .dst .src .src {}
  | .modU r => rShape r .dst .src .src {}
  | .min r => rShape r .dst .src .src {}
  | .minU r => rShape r .dst .src .src {}
  | .max r => rShape r .dst .src .src {}
  | .maxU r => rShape r .dst .src .src {}
  | .abs r => rShape r .dst .src .rsv {}
  | .neg r => rShape r .dst .src .rsv {}
  | .and r => rShape r .dst .src .src {}
  | .or r => rShape r .dst .src .src {}
  | .xor r => rShape r .dst .src .src {}
  | .not r => rShape r .dst .src .rsv {}
  | .shl r => rShape r .dst .src .src {}
  | .shr r => rShape r .dst .src .src {}
  | .sra r => rShape r .dst .src .src {}
  | .bfx r => rShape r .dst .src .src {}
  | .bfi r => rShape r .dst .src .src {}
  | .popc r => rShape r .dst .src .rsv {}
  | .clz r => rShape r .dst .src .rsv {}
  | .brev r => rShape r .dst .src .rsv {}
  | .lea r => rShape r .pairDst .pairSrc .src { subs := [0, 1, 2, 3, 4, 5, 6, 7, 8, 9, 10, 11, 12, 13, 14, 15] }
  | .addi i => iShape i
  | .andi i => iShape i
  | .ori i => iShape i
  | .xori i => iShape i
  | .shli i => (iShape i).andRsv (decide (i.imm.toNat / 32 ≠ 0) || decide (pxVal i.px ≠ 0))
  | .lui i => { ops := [(.dst, i.d), (.rsv, i.a)], rsv := decide (pxVal i.px ≠ 0) }
  | .fadd r => rShape r .dst .src .src { subs := [0, 1, 2, 3, 4] }
  | .fsub r => rShape r .dst .src .src { subs := [0, 1, 2, 3, 4] }
  | .fmul r => rShape r .dst .src .src { subs := [0, 1, 2, 3, 4] }
  | .ffma r => rShape r .dst .src .src { subs := [0, 1, 2, 3, 4] }
  | .fmin r => rShape r .dst .src .src {}
  | .fmax r => rShape r .dst .src .src {}
  | .fcmp r => (rShape r .dst (if fmtA r.px = 4 then .pairSrc else .src) (if fmtA r.px = 4 then .pairSrc else .src) { subs := [0, 1, 2, 3, 4, 5, 6, 7], fa := [0, 1, 4] })
  | .fsel r => rShape r .dst .src .src {}
  | .frnd r => rShape r .dst .src .rsv { subs := [0, 1, 2, 3, 4] }
  | .fclass r => (rShape r .dst (if fmtA r.px = 4 then .pairSrc else .src) .rsv { fa := [0, 1, 2, 3, 4] })
  | .frcp r => rShape r .dst .src .rsv { subs := [0, 1, 2, 3, 4] }
  | .frsq r => rShape r .dst .src .rsv { subs := [0] }
  | .fsqrt r => rShape r .dst .src .rsv { subs := [0, 1, 2, 3, 4] }
  | .fex2 r => rShape r .dst .src .rsv { subs := [0] }
  | .flg2 r => rShape r .dst .src .rsv { subs := [0] }
  | .fsin r => rShape r .dst .src .rsv { subs := [0] }
  | .fcos r => rShape r .dst .src .rsv { subs := [0] }
  | .dadd r => rShape r .pairDst .pairSrc .pairSrc { subs := [0, 1, 2, 3, 4] }
  | .dmul r => rShape r .pairDst .pairSrc .pairSrc { subs := [0, 1, 2, 3, 4] }
  | .dfma r => rShape r .pairDst .pairSrc .pairSrc { subs := [0, 1, 2, 3, 4] }
  | .cvt r => (rShape r (if fmtB r.px = 4 then .pairDst else .dst) (if fmtA r.px = 4 then .pairSrc else .src) .rsv { subs := [0, 1, 2, 3, 4], fa := cvtSources, fb := cvtTargets })
  | .cvtn r => rShape r .dst .src .src { subs := [0, 1, 2, 3, 4], fa := [0, 1, 2, 3], fb := narrowTargets }
  | .amax r => rShape r .dst .src .rsv { subs := [0, 1, 2, 3] }
  | .scaleq r => rShape r .dst .src .rsv { fa := [0, 1], fb := narrowTargets }
  | .pack r => rShape r .dst .src .src { subs := [0, 1, 2] }
  | .unpack r => rShape r .dst .src .src { subs := [0, 1, 2, 4, 5, 6] }
  | .cmpset r => rShape r .dst .src .src { subs := [0, 1, 2, 3, 4, 5, 6, 7, 8, 9] }
  | .shfl r => rShape r .dst .src .src { subs := [0, 1, 2, 3, 4, 5, 6, 7, 8, 9, 10, 11, 12, 13, 14, 15] }
  | .vote r => rShape r .dst .src .rsv { subs := [0, 1, 2, 3] }
  | .redw r => rShape r .dst .src .rsv { subs := [0, 1, 2, 3, 4, 5, 6, 7, 8, 9, 10] }
  | .scanw r => rShape r .dst .src .rsv { subs := [0, 1, 2, 3, 4, 5, 6, 7, 8, 9, 10] }
  | .matchLanes r => (rShape r .dst (if sub r.px = 1 then .pairSrc else .src) .rsv { subs := [0, 1] })
  | .kset k => kShape k true false false .src
  | .kmov k => kShape k false true false .dst
  | .kpop k => kShape k false true false .dst
  | .join k => kShape k true false false .rsv
  | .leave k => kShape k true false false .rsv
  | .kwait k => kShape k true false false .rsv
  | .klogAnd k => kShape k true true true .rsv
  | .klogOr k => kShape k true true true .rsv
  | .klogXor k => kShape k true true true .rsv
  | .klogAndn k => kShape k true true true .rsv
  | .prio i => { ops := [(.rsv, i.d), (.rsv, i.a)], rsv := decide (i.imm.toNat / 16 ≠ 0) || decide (pxVal i.px ≠ 0) }
  | .bra _ => {}
  | .brc c => { ops := [(.src, c.cond)] }
  | .jmpi r => (rShape r .rsv .pairSrc .raw {}).andRsv (r.b.toNat / 16 ≠ 0)
  | .callw r => rShape r .raw .pairSrc .rsv {}
  | .callk r => rShape r .raw .pairSrc .pairSrc {}
  | .retw r => rShape r .rsv .rsv .rsv {}
  | .retwB r => rShape r .rsv .rsv .rsv {}
  | .retk r => rShape r .rsv .rsv .rsv {}
  | .exit r => rShape r .rsv .rsv .rsv {}
  | .nop r => rShape r .rsv .rsv .rsv {}
  | .yield r => rShape r .rsv .rsv .rsv {}
  | .yieldExpiry _ => {}
  | .wbase r => (rShape r .rsv .rsv .raw {}).andRsv (r.b.toNat / 16 ≠ 0)
  | .ld m => { ops := [(sizedDst m.size.toNat, m.d), (.pairSrc, m.a)], ill := decide (m.size = 7) }
  | .st m => { ops := [(sizedSrc m.size.toNat, m.d), (.pairSrc, m.a)], ill := (sizedSrc m.size.toNat).illegalD m.d || decide (m.size = 7) || decide (m.size = 1) || decide (m.size = 3) }
  | .bteBulkCopy _ => {}
  | .ldt m => { ops := [(sizedDst m.size.toNat, m.d), (.pairSrc, m.a)], ill := !ldtOk m.size.toNat m.hint.toNat }
  | .lds m => { ops := [(sizedDst m.size.toNat, m.d), (.pairSrc, m.a)], ill := decide (m.size = 7), rsv := decide (m.hint ≠ 0) }
  | .sts m => { ops := [(sizedSrc m.size.toNat, m.d), (.pairSrc, m.a)], ill := (sizedSrc m.size.toNat).illegalD m.d || decide (m.size = 7) || decide (m.size = 1) || decide (m.size = 3), rsv := decide (m.hint ≠ 0) }
  | .atomAdd r => { atomShape r 0 false with ok := decide (r.d ≠ 120) }
  | .atomMinS r => { atomShape r 1 false with ok := decide (r.d ≠ 120) }
  | .atomMaxS r => { atomShape r 2 false with ok := decide (r.d ≠ 120) }
  | .atomMinU r => { atomShape r 3 false with ok := decide (r.d ≠ 120) }
  | .atomMaxU r => { atomShape r 4 false with ok := decide (r.d ≠ 120) }
  | .atomAnd r => { atomShape r 5 false with ok := decide (r.d ≠ 120) }
  | .atomOr r => { atomShape r 6 false with ok := decide (r.d ≠ 120) }
  | .atomXor r => { atomShape r 7 false with ok := decide (r.d ≠ 120) }
  | .atomExch r => { atomShape r 8 false with ok := decide (r.d ≠ 120) }
  | .atomCas r => { atomShape r 9 false with ok := decide (r.d ≠ 120) }
  | .atomAddF32 r => { atomShape r 10 false with ok := decide (r.d ≠ 120) }
  | .red op r => { atomShape r op.toNat false with ok := decide (r.d = 120) && decide (op.toNat < 11) }
  | .atomsAdd r => { atomShape r 0 true with ok := decide (r.d ≠ 120) }
  | .atomsMinS r => { atomShape r 1 true with ok := decide (r.d ≠ 120) }
  | .atomsMaxS r => { atomShape r 2 true with ok := decide (r.d ≠ 120) }
  | .atomsMinU r => { atomShape r 3 true with ok := decide (r.d ≠ 120) }
  | .atomsMaxU r => { atomShape r 4 true with ok := decide (r.d ≠ 120) }
  | .atomsAnd r => { atomShape r 5 true with ok := decide (r.d ≠ 120) }
  | .atomsOr r => { atomShape r 6 true with ok := decide (r.d ≠ 120) }
  | .atomsXor r => { atomShape r 7 true with ok := decide (r.d ≠ 120) }
  | .atomsExch r => { atomShape r 8 true with ok := decide (r.d ≠ 120) }
  | .atomsCas r => { atomShape r 9 true with ok := decide (r.d ≠ 120) }
  | .atomsAddF32 r => { atomShape r 10 true with ok := decide (r.d ≠ 120) }
  | .reds op r => { atomShape r op.toNat true with ok := decide (r.d = 120) && decide (op.toNat < 11) }
  | .fpush r => rShape r .dst .pairSrc .src {}
  | .fpop r => rShape r .pairDst .pairSrc .rsv {}
  | .pref r => rShape r .rsv .pairSrc .rsv { subs := [0, 1] }
  | .chint r => rShape r .rsv .pairSrc .src { subs := [0, 1, 2] }
  | .bankcfg r => rShape r .rsv .src .rsv { subs := [0, 1, 2] }
  | .bankcfgComplete _ _ => {}
  | .phase r => rShape r .rsv .rsv .rsv { subs := [0, 1, 2, 3] }
  | .fenceo r => rShape r .rsv .rsv .rsv {}
  | .fencer r => rShape r .rsv .pairSrc .rsv { subs := [0, 1] }
  | .publish r => rShape r .rsv .src .rsv { subs := [0, 1, 2, 3] }
  | .shadowset r => rShape r .src .pairSrc .pairSrc { subs := [0] }
  | .shadowsetDel r => rShape r .src .pairSrc .pairSrc { subs := [1] }
  | .ldc r => (rShape r (sizedDst (sub r.px + 4)) .pairSrc .src { subs := [0, 1, 2] })
  | .waitu _ r => ((rShape r .dst .pairSrc (if subBit r.px 0 then .quadSrc else .evenSrc) { subs := allSubs }).andRsv (decide (sub r.px / 2 ≠ 0)))
  | .waitl _ r => ((rShape r .dst .pairSrc (if subBit r.px 0 then .quadSrc else .evenSrc) { subs := allSubs }).andRsv (decide (sub r.px / 4 ≠ 0)))
  | .pegRegistration _ => {}
  | .pegRetry _ => {}
  | .homeWrite _ => {}
  | .pegTimeout _ => {}
  | .barr r => rShape r .dst .src .rsv {}
  | .bwait r => rShape r .dst .src .pairSrc {}
  | .bsetm r => rShape r .rsv .src .quadSrc {}
  | .tspawn r => rShape r .dst .pairSrc .rsv {}
  | .trange r => rShape r .dst .pairSrc .rsv {}
  | .tnext r => rShape r .pairDst .rsv .rsv {}
  | .tjoin r => rShape r .rsv .pairSrc .rsv {}
  | .tend r => rShape r .rsv .rsv .rsv {}
  | .tcancel r => rShape r .dst .src .pairSrc {}
  | .tself r => (rShape r (if sub r.px = 0 then .pairDst else .dst) .rsv .rsv { subs := [0, 1, 2] })
  | .fset r => rShape r .dst .pairSrc .pairSrc {}
  | .fwait r => rShape r .quadDst .pairSrc .src {}
  | .lockw r => rShape r .dst .pairSrc .src {}
  | .unlock r => rShape r .rsv .pairSrc .rsv {}
  | .qput r => rShape r .pairDst .pairSrc .pairSrc { subs := [0] }
  | .qputProm r => rShape r .pairDst .pairSrc .pairSrc { subs := [1] }
  | .qputFill r => rShape r .pairDst .pairSrc .quadSrc { subs := [2] }
  | .qtake r => rShape r .quadDst .pairSrc .src {}
  | .darnerPop _ _ => {}
  | .stealRequest _ _ => {}
  | .stealWithdraw _ _ => {}
  | .darnerAccessFault => {}
  | .acp r => (rShape r .src .pairSrc .src { subs := [0, 1, 2, 3, 4, 5, 6, 7, 8, 9, 10, 11, 12, 13, 14, 15] }).andRsv (subBit r.px 3)
  | .acpLand _ _ => {}
  | .acpwait r => rShape r .dst .src .rsv {}
  | .tplset r => rShape r .rsv .src .src {}
  | .swinit r => rShape r .rsv .src .src {}
  | .syncw r => rShape r .dst .src .evenSrc {}
  | .btestat r => rShape r .dst .src .rsv { subs := [0, 1, 2] }
  | .btestatClr r => rShape r .dst .src .rsv { subs := [3] }
  | .bteRowLand _ _ _ => {}
  | .gather r => rShape r .src .src .evenSrc { forbid := true }
  | .scatter r => rShape r .src .src .evenSrc { forbid := true }
  | .scatadd r => rShape r .src .src .evenSrc { forbid := true }
  | .gswait r => rShape r .dst .rsv .src { subs := [0] }
  | .gswaitDup r => rShape r .dst .rsv .rsv { subs := [1] }
  | .gswaitOut r => rShape r .dst .rsv .rsv { subs := [2] }
  | .seamRowRequest _ _ _ => {}
  | .seamEntryLand _ _ _ => {}
  | .tslice t => { ops := [(.src, t.idx), (if t.wr then .src else .dst, t.reg)], rsv := decide (pxVal t.px / 512 ≠ 0) }
  | .tbind x => xShape x (.tile, .quad, .rsv) 0 (!x.hold && decide (x.h = 0))
  | .tzero x => xShape x (.tile, .rsv, .rsv) 3 true
  | .mxlw x => xShape x (.rsv, if bit x.payload.toNat 0 then .pair else .tile, .rsv) 3 true
  | .mxswap x => xShape x (.rsv, .rsv, .rsv) 0 true
  | .mxmm x => xShape x (.uni, .tile, .uni) 0x20001FF true
  | .mxmms x => xShape x (.uni, .tile, .uni) 0x20001FF true
  | .mxep x => (xShape x (match bits x.payload.toNat 18 17 with | 0 => .rsv | 1 => .tile | _ => .pair, .uni, if bit x.payload.toNat 16 || bit x.payload.toNat 15 then .pair else .rsv) 0x3FF81FF true).andIll (decide (bits x.payload.toNat 18 17 = 3))
  | .mxsel x => { (xShape x (.rsv, .uni, if bit x.payload.toNat 17 then .uni else .rsv) (if bit x.payload.toNat 17 then 0x3FFF800 else 0x3FE0000) true).andIll (decide (2 ≤ bits x.payload.toNat 25 24)) with ok := decide (bits x.payload.toNat 25 24 ≠ 1) }
  | .mxselRead x => { xShape x (.uni, .rsv, .rsv) 0x3000000 true with ok := decide (bits x.payload.toNat 25 24 = 1) }
  | .accld x => xShape x (.uni, .uni, .rsv) 0x7FFF true
  | .accst x => xShape x (.uni, .uni, .rsv) 0x7FFF true
  | .accz x => xShape x (.uni, .rsv, .rsv) 0x7FFF true
  | .mxsave x => xShape x (.rsv, .pair, .rsv) 0 true
  | .mxload x => xShape x (.rsv, .pair, .rsv) 0 true
  | .pressCommandComplete _ => {}
  | .tpset k => { ill := decide (7 < k.kd.toNat), rsv := decide (k.ka ≠ 0) || decide (k.kb ≠ 0), ops := [(.pairSrc, k.r)] }
  | .tplogAnd k => { ill := decide (7 < k.kd.toNat) || decide (7 < k.ka.toNat) || decide (7 < k.kb.toNat), ops := [(.rsv, k.r)] }
  | .tplogOr k => { ill := decide (7 < k.kd.toNat) || decide (7 < k.ka.toNat) || decide (7 < k.kb.toNat), ops := [(.rsv, k.r)] }
  | .tplogXor k => { ill := decide (7 < k.kd.toNat) || decide (7 < k.ka.toNat) || decide (7 < k.kb.toNat), ops := [(.rsv, k.r)] }
  | .tplogAndn k => { ill := decide (7 < k.kd.toNat) || decide (7 < k.ka.toNat) || decide (7 < k.kb.toNat), ops := [(.rsv, k.r)] }
  | .mxseq r => rShape r .dst .rsv .rsv { subs := [0, 1, 2] }
  | .mxwait r => rShape r .dst .src .src { subs := [0] }
  | .mxwaitOut r => rShape r .dst .rsv .src { subs := [1] }
  | .bmv r => rShape r .pairSrc .pairSrc .quadSrc { subs := [0, 1] }
  | .bfenceW r => rShape r .rsv .pairSrc .src { subs := [0] }
  | .bfenceR r => rShape r .rsv .rsv .rsv { subs := [1] }
  | .bmwait r => rShape r .dst .src .src { subs := [0] }
  | .bmwaitAll r => rShape r .dst .rsv .src { subs := [1] }
  | .bmwaitSeq r => rShape r .dst .rsv .rsv { subs := [2] }
  | .bmwaitLast r => rShape r .dst .rsv .rsv { subs := [3] }
  | .bcuCommandComplete _ => {}
  | .xres r => rShape r .dst .src .pairSrc { subs := [0] }
  | .xresRel r => rShape r .rsv .src .rsv { subs := [1] }
  | .xhit r => rShape r .rsv .src .rsv { forbid := true }
  | .xage r => rShape r .rsv .src .rsv { forbid := true }
  | .xageNow r => rShape r .rsv .rsv .rsv { subs := [1] }
  | .xquery r => rShape r .dst .src .rsv { forbid := true }
  | .hamperStagingComplete _ => {}
  | .hamperAgeingStep _ => {}
  | .trap r => (rShape r .rsv .rsv .raw { forbid := true })
  | .tret r => rShape r .rsv .rsv .rsv { subs := [0] }
  | .tretSkip r => rShape r .rsv .rsv .rsv { subs := [1] }
  | .rdctl r => ((rShape r (if ctlWide r.b then .pairDst else .dst) .rsv .raw {}).andIll (decide (11 < r.b.toNat)))
  | .wrctl r => ((rShape r .rsv (if ctlWide r.b then .pairSrc else .src) .raw {}).andIll (decide (11 < r.b.toNat)))
  | .ctxsave r => rShape r .dst .src .src {}
  | .ctxload r => rShape r .dst .src .rsv { subs := [0] }
  | .ctxloadRearm r => rShape r .dst .src .rsv { subs := [1] }
  | .tlbinv r => rShape r .rsv .pairSrc .evenSrc {}
  | .smcVersion r => { rShape r .rsv .rsv .raw { forbid := true } with ok := decide (r.b = 0) || decide (8 < r.b.toNat) }
  | .smcAttest r => { rShape r .rsv .rsv .raw { forbid := true } with ok := decide (r.b = 1) }
  | .smcLoadKeySlot r => { rShape r .rsv .rsv .raw { forbid := true } with ok := decide (r.b = 2) }
  | .smcSetRegionEntry r => { rShape r .rsv .rsv .raw { forbid := true } with ok := decide (r.b = 3) }
  | .smcReadErrorCounters r => { rShape r .rsv .rsv .raw { forbid := true } with ok := decide (r.b = 4) }
  | .smcPowerState r => { rShape r .rsv .rsv .raw { forbid := true } with ok := decide (r.b = 5) }
  | .smcSnapshot r => { rShape r .rsv .rsv .raw { forbid := true } with ok := decide (r.b = 6) }
  | .smcBindFabricJob r => { rShape r .rsv .rsv .raw { forbid := true } with ok := decide (r.b = 7) }
  | .smcLoadSnapshot r => { rShape r .rsv .rsv .raw { forbid := true } with ok := decide (r.b = 8) }
  | .registerWritePerformed _ _ _ => {}
  | .impreciseStoreFault => {}
  | .chunkClaim _ _ => {}
  | .warpEvictionSave _ => {}
  | .warpRestore _ => {}
  | .contextCreate _ => {}
  | .cpServeEntry _ _ => {}
  | .nodeKernel _ => {}
  | .nodeTaskroot _ => {}
  | .nodeCopy _ => {}
  | .copyNodeComplete _ => {}
  | .nodeCond _ => {}
  | .nodeLoop _ => {}
  | .nodeWaitmem _ => {}
  | .nodeSignal _ => {}
  | .nodeEnd _ => {}
  | .hostWrite _ _ => {}
  | .hostRead _ => {}
  | .flitReceive _ _ => {}
  | .linkHeartbeat _ => {}
  | .moduleFailureDetect _ => {}
  | .moduleReset => {}
  | .bringupStage _ _ => {}
  | .powerStateChange _ _ _ => {}
  | .warpWaitDeadline _ => {}
  | .pipeIntervalEnd _ _ _ => {}

/-- Why decoding refuses an instruction (R46). -/
inductive DecodeTrap where
  | illegalOp | reservedField
  deriving DecidableEq, Repr

/-- The checks of R46 that need no state, in their order. -/
def Instr.check (i : Instr) : Option DecodeTrap :=
  let s := shape i
  if s.ill || s.ops.any (fun o => o.1.illegal o.2) then some .illegalOp
  else if s.rsv || s.ops.any (fun o => o.1.reserved o.2) then some .reservedField
  else none

/-- A well-formed instruction: its fields pass the decoding checks, and its constructor is the one they name. -/
def Instr.WellFormed (i : Instr) : Prop := (shape i).ok = true ∧ i.check = none

/-- Decided by evaluation. -/
def Instr.wellFormed (i : Instr) : Bool := (shape i).ok && decide (i.check = none)

end Sys2Proof
end

