-- ==== Sys2Proof/Machine/Ops.lean ====
section
/-! DEFINITION. The operations that meanings share: the frame of an instruction's meaning, how its lanes go on, taking a precise fault (R381 to R387, R417) and returning from it (R389), the save region (R80, R390), and starting and completing a wait (R220). -/

namespace Sys2Proof.Machine

/-- Address of the instruction after this one; a pair takes eight bytes (R44). -/
def Issue.next (c : Issue) : Nat := (c.pc + c.len) % 2 ^ 57

/-- A field reaches past the thread's allocation (R47). -/
def WarpCore.windowFails (w : WarpCore) (i : Instr) : Bool :=
  (shape i).ops.any (fun o => decide (0 < o.1.span) && decide (o.2.toNat < 96) && decide (w.alloc < w.wbase + o.2.toNat + o.1.span))

/-- A trap with no address. -/
def trapOf (cause : Cause) (subcode : Nat) : Trap := { cause := cause, subcode := subcode, faddr := 0 }

/-- A trap with its FADDR (Table 24-9). -/
def trapAt (cause : Cause) (faddr : Nat) : Trap := { cause := cause, subcode := 0, faddr := faddr }

/-! ### The save region (R80, R390) -/

/-- Address of a warp's save slot, where its frame lies (Table 24-3). -/
def State.saveSlot (s : State) (w : WarpCore) : Nat :=
  match s.ctxs.find? (s.asidOf w) with
  | some c => (c.rcd.save + 0xA0000 * (64 * w.core + w.slot)) % 2 ^ 64
  | none => 0

/-- Hardware saves `n` bytes into the save region (R390): a page that cannot be written ends the context. The bytes are the image of state that the model holds elsewhere, in a layout that the manual leaves open (log 12). -/
def State.saveBytes (s : State) (asid va n : Nat) : State :=
  let (s, r) := s.pieces .dev asid .store va n
  match r with
  | .ok ps => { s with
      undef := ps.map (fun p => wordRange p.pa p.len) ++ s.undef
      poison := s.poison.filter (fun x => !ps.any (fun p => decide (p.pa ≤ x) && decide (x < p.pa + p.len))) }
  | .error (_, a) => s.endContext asid a

/-- What the save waits for: the warp's ACPs, and its outstanding BFENCE.Ws. -/
def State.saveReady (s : State) (x : Warp) : Bool :=
  (x.run :: x.help).all fun w =>
    !(s.core w.core).acps.any (fun a => decide (a.token = w.token)) && !s.bcus.any (fun c => decide (c.token = w.token) && c.fence.isSome && !c.complete)

/-- Bytes of a warp's save slot that hold its state (Table 24-3): offset and length. Log 12. -/
def Warp.image (x : Warp) : List (Nat × Nat) :=
  (0x140, 3776) :: (0x1000, 128 * x.run.alloc) ::
    (x.help.zipIdx.map (fun e => [(0x11000 + 0x11000 * e.2, 0x1000), (0x12000 + 0x11000 * e.2, 128 * e.1.alloc)])).flatten

/-- Write a warp's state into its save slot, in a layout that the manual leaves open (log 12). -/
def State.saveWarpImage (s : State) (x : Warp) : State :=
  x.image.foldl (fun s e => s.saveBytes (s.asidOf x.run) (s.saveSlot x.run + e.1) e.2) s

/-! ### Taking a precise fault (R381 to R387) -/

/-- Priority of a lane's entry. -/
def WarpCore.prioOf (w : WarpCore) (l : Nat) : Nat :=
  match w.entryOf l with
  | some e => e.prio
  | none => 0

/-- The frame of a precise fault (Table 24-1). -/
def SubWarp.frame (b : SubWarp) (w : WarpCore) (nested queued : Bool) : Frame :=
  { helper := 0, task := w.task, token := w.token, insn := b.insn, pc := b.pc, faddr := b.trap.faddr, lanes := b.lanes.toNat, pair := b.pair,
    nested := nested, gone := false, queued := queued, imprecise := false, subcode := b.trap.subcode, cause := b.trap.cause.code }

/-- The resume array (R387): priority and PC of each lane of the sub-warp, zero for the others. -/
def SubWarp.resume (b : SubWarp) (w : WarpCore) : List Byte :=
  ((List.range 32).map (fun l => if hasLane b.lanes l then bytesOfNat 8 (w.prioOf l * 2 ^ 60 + b.pc / 4 * 4) else bytesOfNat 8 0)).flatten

/-- w0 and w1 as one value. -/
def WarpCore.w01 (w : WarpCore) : Nat := (w.held? 0 (.uni 0)).toNat + (w.held? 0 (.uni 1)).toNat * 2 ^ 32

/-- Write w0 and w1 at once; no earlier write of them is outstanding any more. -/
def WarpCore.setW01 (w : WarpCore) (v : Nat) : WarpCore :=
  let w := (w.putLoc 0 (.uni 0) (BitVec.ofNat 32 v)).putLoc 0 (.uni 1) (BitVec.ofNat 32 (v / 2 ^ 32))
  { w with out := w.out.filter (fun o => decide (o.loc ≠ .uni 0) && decide (o.loc ≠ .uni 1)) }

/-- Start the handler for a parked sub-warp (R382): frame and resume array into the save slot, the lowest lane READY at `ctl.trapvec` with priority 15, the frame's address in w0:w1. A save slot that cannot be written ends the context (R390). -/
def State.startHandler (s : State) (wid : Nat) (b : SubWarp) : State :=
  match s.warp? wid with
  | none => s
  | some w =>
    let at_ := s.saveSlot w
    let asid := s.asidOf w
    let bytes := bytesOfNat 64 ((b.frame w false false).bits w.w01) ++ b.resume w
    match s.engineTranslate w.party asid .store at_ with
    | (s, .error _) => s.endContext asid at_
    | (s, .ok (l, pa)) =>
      let s := ((s.fillSpan l pa bytes.length).flushTo wid pa bytes.length).homeWrite w.writer .dev none l.okey pa bytes
      let h := lowest b.lanes
      s.modRun wid fun w =>
        let w := w.place (laneBit h) 15 (w.trapvec.toNat % 2 ^ 57) .ready
        let w := w.setW01 at_
        { w with handler := some { lane := h, frame := at_, sub := b } }

/-- A sub-warp's fault goes to the fault queue and its lanes exit (R383). -/
def State.faultToQueue (s : State) (wid : Nat) (b : SubWarp) (lanes : Mask) (nested : Bool) : State :=
  match s.warp? wid with
  | none => s
  | some w =>
    let s := s.queueFrame (s.asidOf w) (some w.launch) (b.frame w nested true) w.w01
    s.exitLanes wid lanes

/-- A waiting sub-warp takes the handler, in the order in which they faulted (R382, R389): its frame is written after outstanding register writes; with `ctl.trapvec` 0 its fault goes to the queue instead, and the next one follows (R383). At most one sub-warp for each lane waits. -/
def State.nextHandler : Nat → State → Nat → State
  | 0, s, _ => s
  | n + 1, s, wid =>
    match s.warp? wid with
    | none => s
    | some w =>
      match w.subs with
      | [] => s
      | b :: rest =>
        let s := s.modRun wid (fun w => { w.drainRegs with subs := rest })
        if w.trapvec = 0 then State.nextHandler n (s.faultToQueue wid b b.lanes false) wid
        else s.startHandler wid b

/-- A fault in an adopted task is charged to it (R261): its lanes stop, a frame ADOPTED_FAULT is queued, its bounds return to a range record (R244), the record becomes FAULTED, and the helper goes on with ABANDONED. -/
def State.adoptedFault (s : State) (wid : Nat) (b : SubWarp) : State :=
  match s.warps.find? wid with
  | none => s
  | some x =>
    let w := x.run
    let helper := match x.help with | h :: _ => h.token | [] => 0
    let f := { b.frame w false true with imprecise := true, cause := Cause.adoptedFault.code, subcode := b.trap.cause.code, helper := helper }
    let s := s.queueFrame (s.asidOf w) (some w.launch) f 0
    let s := s.boundary wid .dev false
    let s := s.dropRegs wid w.token
    let s := (lanesOf w.live).foldl (fun s l => s.endLane w.core (w.lane l)) s
    let s := s.popHelp wid 3
    let s := s.storeRange w.core w.launch w.task w.token
    s.finishHere w.core w.launch w.task 5 w.token

/-- Take a precise fault in some lanes of the issuing entry (R381 to R383): they form one TRAPPED entry at the instruction's PC; a handler starts, or waits for the active one, or the fault goes to the queue. Log 28. -/
def State.takeTrap (s : State) (c : Issue) (lanes : Mask) (t : Trap) : State :=
  match s.warp? c.wid with
  | none => s
  | some w =>
    let b : SubWarp := { num := w.nextSub, lanes := lanes, pc := c.pc, trap := t, insn := c.insn, pair := c.pair, wide := decide (c.len = 8) }
    if 0 < w.depth then s.adoptedFault c.wid b
    else
      let s := s.modRun c.wid (fun w => { (w.drainRegs.place lanes c.prio c.pc (.trapped b.num)) with nextSub := w.nextSub + 1 })
      match w.handler with
      | some h =>
        if hasLane lanes h.lane then
          let s := s.faultToQueue c.wid b (lanes ||| h.sub.lanes) true
          (s.modRun c.wid (fun w => { w with handler := none })).nextHandler 33 c.wid
        else s.modRun c.wid (fun w => { w with subs := w.subs ++ [b] })
      | none =>
        if w.trapvec = 0 then s.faultToQueue c.wid b lanes false
        else s.startHandler c.wid b

/-- Every active lane traps; the instruction has no other effect. -/
def State.trapAll (s : State) (c : Issue) (t : Trap) : State := { s.takeTrap c c.lanes t with cur := none }

/-- Lanes that go on with the next instruction at their own priority (R62). -/
def State.advance (s : State) (c : Issue) (m : Mask) : State := s.modRun c.wid (fun w => w.place m c.prio c.next .ready)

/-- The end of an instruction whose lanes fall through but for those that fault (R62, R381): the frame records the lowest faulting lane's cause. Log 28. -/
def State.conclude (s : State) (c : Issue) (faults : List (Nat × Trap)) : State :=
  let bad := maskOf (faults.map (·.1))
  let s := { s.advance c (c.lanes &&& ~~~bad) with cur := none }
  match faults with
  | [] => s
  | f :: _ => s.takeTrap c bad f.2

/-- As `conclude`, for an instruction that has placed its other lanes itself. -/
def State.concludePlaced (s : State) (c : Issue) (faults : List (Nat × Trap)) : State :=
  let s := { s with cur := none }
  match faults with
  | [] => s
  | f :: _ => s.takeTrap c (maskOf (faults.map (·.1))) f.2

/-- The frame of every meaning of an encoded instruction: the warp that issues it, and the WINDOW check (R46, R47). Log 51. -/
def onWarp (i : Instr) (s : State) (body : Issue → WarpCore → State) : Host.Outcome State Fault Refusal :=
  match s.cur with
  | none => .fault .noIssue
  | some c =>
    match s.warp? c.wid with
    | none => .fault .noIssue
    | some w => .next (if w.windowFails i then s.trapAll c (trapOf .window 0) else body c w)

/-! ### Return from a handler (R389) -/

/-- One lane of the sub-warp resumes: where its entry in the resume array says, out of every mask when the handler redirected it. -/
def WarpCore.resumeLane (w : WarpCore) (l entry pc after : Nat) : WarpCore :=
  let t := bits entry 56 2 * 4
  let prio := bits entry 63 60
  if t = pc then w.place (laneBit l) prio after .ready
  else
    let w := w.place (laneBit l) prio t .ready
    { w with k := w.k.filterMap (fun e => if e.2 &&& ~~~(laneBit l) = 0 then none else some (e.1, e.2 &&& ~~~(laneBit l))) }

/-- TRET of the handler lane (R389), with the frame and the resume array as it reads them. -/
def State.returnFrom (s : State) (c : Issue) (h : Handler) (bytes : List Byte) (skip : Bool) : State :=
  let frame := natOfBytes (bytes.take 64)
  let pc := bits frame 184 128
  let lanes : Mask := BitVec.ofNat 32 (bits frame 63 32)
  let after := if skip then (pc + (if h.sub.wide then 8 else 4)) % 2 ^ 57 else pc
  let leaving := h.sub.lanes &&& ~~~lanes
  let staying := lanesOf (h.sub.lanes &&& lanes)
  let s := s.modRun c.wid fun w =>
    let w := { w.setW01 (bits frame 511 448) with handler := none }
    staying.foldl (fun w l => w.resumeLane l (natOfBytes ((bytes.drop (64 + 8 * l)).take 8)) pc after) w
  (s.exitLanes c.wid leaving).nextHandler 33 c.wid

/-! ### Waits (R220) -/

/-- Lanes start to wait at the next instruction; register writes are performed first (R41). The wait keeps the instruction's switch marker (R40). -/
def State.startWait (s : State) (c : Issue) (m : Mask) (barrier : Bool) (t : Wait) : State :=
  s.modRun c.wid (fun w => w.drainRegs.place m c.prio c.next (.wait barrier { t with sw := bit c.insn 31 }))

/-- Lanes whose access reaches a bank with a BANKCFG that has not completed wait where they stand, and issue again when it has (R168). Log 52. -/
def State.holdAccess (s : State) (c : Issue) (bank : Nat) : State :=
  let t : Wait := { kind := .access bank, deadline := none, dst := .none, core := true, code := none, slept := false, again := false, val := 0, final := true, sw := false }
  { s.modRun c.wid (fun w => w.place c.lanes c.prio c.pc (.wait false t)) with cur := none }

/-- A wait without a code yet. -/
def Wait.mk' (kind : WaitKind) (deadline : Option Nat) (dst : Loc) (core : Bool) : Wait :=
  { kind := kind, deadline := deadline, dst := dst, core := core, code := none, slept := false, again := false, val := 0, final := false, sw := false }

/-- The deadline of a wait of `t` ns that issues now (R224); 0xFFFFFFFF is no limit. -/
def State.deadline (s : State) (t : Word) : Option Nat := if t = 0xFFFFFFFF then none else some (s.ns + t.toNat)

/-- The register `n` after a place, in a run. -/
def Loc.plus (c : Loc) (n : Nat) : Loc :=
  match c with
  | .thread k => .thread (k + n)
  | .uni k => .uni (k + n)
  | .fp => if n = 0 then .fp else .none
  | .sp => if n = 0 then .sp else .none
  | .none => .none

/-- Write one value to a place in each lane; a warp-uniform place takes it once, from the lowest lane (R47). -/
def WarpCore.writeLanes (s : State) (w : WarpCore) (c : Loc) (vals : List (Nat × Word)) : WarpCore :=
  match c with
  | .uni _ => match vals with
    | [] => w
    | v :: _ => w.writeLoc s v.1 c v.2
  | _ => vals.foldl (fun w v => w.writeLoc s v.1 c v.2) w

/-- A code into a place, for every lane of a set. -/
def WarpCore.writeCode (s : State) (w : WarpCore) (m : Mask) (c : Loc) (code : Nat) : WarpCore :=
  w.writeLanes s c ((lanesOf m).map (fun l => (l, BitVec.ofNat 32 code)))

/-- Lanes of a WAIT entry become READY where they stand (R62). -/
def WarpCore.wake (w : WarpCore) (m : Mask) : WarpCore :=
  match w.entryOf (lowest m) with
  | some e => w.place m e.prio e.pc .ready
  | none => w

/-- Lanes whose CANCEL trap is due (R267). Log 28. -/
def WarpCore.doomedOf (w : WarpCore) (m : Mask) : List (Nat × Trap) :=
  ((lanesOf m).filter (fun l => (w.lane l).doomed)).map (fun l => (l, trapOf .cancel 0))

/-- The CANCEL trap of these lanes is taken: it is due no more. -/
def State.clearDoomed (s : State) (wid : Nat) (m : Mask) : State :=
  s.modRun wid (fun w => { w with lanes := w.lanes.zipIdx.map (fun e => if hasLane m e.2 then { e.1 with doomed := false } else e.1) })

/-- What the other lanes of an instruction fault with, when some of them do: it issues for them with every trap parked behind an active handler. -/
def State.otherFault (s : State) (c : Issue) (body : State → Issue → State) : Option (Mask × Trap) :=
  let none_ : SubWarp := { num := 0, lanes := 0, pc := 0, trap := trapOf .cancel 0, insn := 0, pair := false, wide := false }
  match (body (s.modRun c.wid (fun w => { w with handler := some { lane := 32, frame := 0, sub := none_ }, subs := [] })) c).warp? c.wid with
  | some w => w.subs.head?.map (fun b => (b.lanes, b.trap))
  | none => none

/-- As `orCancel`, for the lanes at which the instruction is a boundary or a wait. Log 28. -/
def State.orCancelIf (s : State) (c : Issue) (w : WarpCore) (p : Nat → Bool) (body : State → Issue → State) : State :=
  match (w.doomedOf c.lanes).filter (fun e => p e.1) with
  | [] => body s c
  | f :: r =>
    let m := maskOf ((f :: r).map (·.1))
    let rest := c.lanes &&& ~~~m
    let s := s.clearDoomed c.wid m
    if rest = 0 ∨ 0 < w.depth then { s.takeTrap c m f.2 with cur := none }
    else
      match s.otherFault { c with lanes := rest } body with
      | none =>
        let s := body s { c with lanes := rest }
        { s.takeTrap c m f.2 with cur := if s.cur.isSome then some { c with lanes := rest } else none }
      | some (n, t) =>
        let s := if rest &&& ~~~n = 0 then s else body s { c with lanes := rest &&& ~~~n }
        { s.takeTrap c (m ||| n) (if lowest n < lowest m then t else f.2) with cur := none }

/-- A meaning at which a cancelled lane's trap falls due (R267): those lanes trap with CANCEL, in one sub-warp with the lanes at which the instruction itself faults (R381), and it issues for the others. -/
def State.orCancel (s : State) (c : Issue) (w : WarpCore) (body : State → Issue → State) : State := s.orCancelIf c w (fun _ => true) body

end Sys2Proof.Machine
end

