-- ==== Sys2Proof/Machine/Operands.lean ====
section
/-! DEFINITION. Operand forms: registers, pairs and quads as fields name them (R43, R47, R48, Table 3-5), immediates and offsets under an extension word (Table 3-3), addresses (R179), and the frames of meanings that compute one result for each lane (R103). -/

namespace Sys2Proof.Machine

/-- Read a register field for a lane; `pos` tells the reads of one instruction apart (R41, R47, Table 3-5). Log 49. -/
def State.rd (s : State) (w : WarpCore) (l r pos : Nat) : Word :=
  if r = 121 then BitVec.ofNat 32 l
  else if r = 122 then BitVec.ofNat 32 w.slot
  else if r = 123 then BitVec.ofNat 32 (coreId w.core)
  else if r = 124 then BitVec.ofNat 32 s.clk
  else if r = 127 then (w.lane l).idx
  else WarpCore.readLoc s w l (w.resolve r) pos

/-- Read a pair (R48): zero reads 0, fp and sp read the arena plus their offset. Log 20. -/
def State.rdPair (s : State) (w : WarpCore) (l r pos : Nat) : DWord :=
  if r = 120 then 0
  else if r = 125 ∨ r = 126 then BitVec.ofNat 64 (s.arenaOf w + (s.rd w l r pos).toNat)
  else pairOf (s.rd w l r pos) (s.rd w l (r + 1) (pos + 1))

/-- Read a quad as 128 bits, lowest register first; zero reads 0 (R43). Log 20. -/
def State.rdQuad (s : State) (w : WarpCore) (l r pos : Nat) : Nat :=
  if r = 120 then 0
  else (s.rdPair w l r pos).toNat + (s.rdPair w l (r + 2) (pos + 2)).toNat * 2 ^ 64

/-- Position numbers of the fields of one instruction. -/
def posD : Nat := 0
/-- Position of field A. -/
def posA : Nat := 16
/-- Position of field B. -/
def posB : Nat := 32

/-- A branch target (R45): the address of the word with the offset, or of the extension word before it, plus four times the offset. -/
def branchTarget (pc : Nat) (off : Int) : Nat := (((pc : Int) + 4 * off) % 2 ^ 57).toNat

/-- Bytes of an access by its size code (Table 3-2). -/
def sizeBytes (code : Nat) : Nat :=
  if code ≤ 1 then 1 else if code ≤ 3 then 2 else if code = 4 then 4 else if code = 5 then 8 else 16

end Sys2Proof.Machine

namespace Sys2Proof

open Sys2Proof.Machine

/-- Read fields of an R-format word. -/
def RArgs.vD (r : RArgs) (s : State) (w : WarpCore) (l : Nat) : Word := s.rd w l r.d.toNat posD
/-- vA. -/
def RArgs.vA (r : RArgs) (s : State) (w : WarpCore) (l : Nat) : Word := s.rd w l r.a.toNat posA
/-- vB. -/
def RArgs.vB (r : RArgs) (s : State) (w : WarpCore) (l : Nat) : Word := s.rd w l r.b.toNat posB
/-- The register after vB. With the field 120 both registers of the block read 0 (log 20). -/
def RArgs.vB1 (r : RArgs) (s : State) (w : WarpCore) (l : Nat) : Word := if r.b = 120 then 0 else s.rd w l (r.b.toNat + 1) (posB + 1)
/-- Pair vD. -/
def RArgs.pairD (r : RArgs) (s : State) (w : WarpCore) (l : Nat) : DWord := s.rdPair w l r.d.toNat posD
/-- Pair vA. -/
def RArgs.pairA (r : RArgs) (s : State) (w : WarpCore) (l : Nat) : DWord := s.rdPair w l r.a.toNat posA
/-- Pair vB. -/
def RArgs.pairB (r : RArgs) (s : State) (w : WarpCore) (l : Nat) : DWord := s.rdPair w l r.b.toNat posB

/-- The rounding mode that sub names (R25). -/
def RArgs.mode (r : RArgs) : Nat := sub r.px

/-- The immediate of an I-format word: imm11 extended, or imm32 under an extension word (Table 3-3). -/
def IArgs.imm32 (i : IArgs) : Word :=
  match i.px with
  | none => i.imm.signExtend 32
  | some e => ((e.setWidth 21 : BitVec 21) ++ i.imm)

/-- The signed word offset of a J-format word (Table 3-3). -/
def JArgs.offset (j : JArgs) : Int :=
  match j.px with
  | none => j.off.toInt
  | some e => (e ++ j.off).toInt

/-- The signed word offset of a C-format word (Table 3-3). -/
def CArgs.offset (x : CArgs) : Int :=
  match x.px with
  | none => x.off.toInt
  | some e => (e ++ x.off).toInt

/-- The signed offset of an M-format word in units of the access size (Table 3-3). -/
def MArgs.units (m : MArgs) : Int :=
  match m.px with
  | none => m.off.toInt
  | some e => (e ++ m.off).toInt

/-- The address of an M-format access (R179). -/
def MArgs.ea (m : MArgs) (s : State) (w : WarpCore) (l : Nat) : Nat :=
  let base := (s.rdPair w l m.a.toNat posA).toNat
  (((base : Int) + m.units * (sizeBytes m.size.toNat : Nat)) % 2 ^ 64).toNat

end Sys2Proof

namespace Sys2Proof.Machine

/-- The registers that a loaded value fills, lowest first (Table 3-2). -/
def loadedWords (code : Nat) (v : Nat) : List Word :=
  if code = 1 then [(BitVec.ofNat 8 v).signExtend 32]
  else if code = 3 then [(BitVec.ofNat 16 v).signExtend 32]
  else if code ≤ 4 then [BitVec.ofNat 32 v]
  else if code = 5 then [BitVec.ofNat 32 v, BitVec.ofNat 32 (v / 2 ^ 32)]
  else [BitVec.ofNat 32 v, BitVec.ofNat 32 (v / 2 ^ 32), BitVec.ofNat 32 (v / 2 ^ 64), BitVec.ofNat 32 (v / 2 ^ 96)]

/-- Write a run of registers, each in every listed lane; a D of zero discards. Log 20. -/
def WarpCore.writeRun (s : State) (w : WarpCore) (r : Nat) (vals : List (Nat × List Word)) : WarpCore :=
  let n := match vals with | [] => 0 | v :: _ => v.2.length
  (List.range n).foldl (fun w j =>
    WarpCore.writeLanes s w (if r = 120 then .none else (w.resolve r).plus j) (vals.map (fun v => (v.1, (v.2[j]?).getD 0)))) w

/-- One result for each active lane, into a single register (R103): every source is read before any destination is written. -/
def State.perLane (s : State) (c : Issue) (d : Reg) (f : Nat → Word × Flags) : State :=
  let res := (lanesOf c.lanes).map (fun l => (l, f l))
  let s := s.modRun c.wid (fun w =>
    (WarpCore.writeLanes s w (w.resolve d.toNat) (res.map (fun e => (e.1, e.2.1)))).raise (gatherFlags (res.map (fun e => e.2.2))))
  s.conclude c []

/-- One 64-bit result for each active lane, into a pair (R103, R106). -/
def State.perLanePair (s : State) (c : Issue) (d : Reg) (f : Nat → DWord × Flags) : State :=
  let res := (lanesOf c.lanes).map (fun l => (l, f l))
  let s := s.modRun c.wid (fun w =>
    (WarpCore.writeRun s w d.toNat (res.map (fun e => (e.1, [loWord e.2.1, hiWord e.2.1])))).raise (gatherFlags (res.map (fun e => e.2.2))))
  s.conclude c []

/-- The lowest active lane, from which uniform operands come. -/
def Issue.lead (c : Issue) : Nat := lowest c.lanes

/-- The same words in every active lane, into a run of registers. Log 20. -/
def State.giveAll (s : State) (c : Issue) (d : Nat) (vals : List Word) : State :=
  s.modRun c.wid (fun w => WarpCore.writeRun s w d ((lanesOf c.lanes).map (fun l => (l, vals))))

/-- A fold over the active lanes in ascending order (R181): each lane changes the state or faults. -/
def State.eachLane (s : State) (ls : List Nat) (f : State → Nat → State × Option Trap) : State × List (Nat × Trap) :=
  ls.foldl (fun a l => match f a.1 l with | (s, none) => (s, a.2) | (s, some t) => (s, a.2 ++ [(l, t)])) (s, [])

/-- An access of a wave to global memory (R180, R188, R403): aperture, then alignment, then translation. -/
def inAperture (ea n : Nat) : Bool := decide (0xFFFFF00000000000 < ea + n) && decide (ea < 0xFFFFF00000000200)

/-- Translate a wave's access to `n` bytes, with its precise faults (R179, R180). -/
def State.waveAccess (s : State) (w : WarpCore) (acc : Acc) (ea n : Nat) : State × Except Trap (Leaf × Nat) :=
  if inAperture ea n then (s, .error { cause := .protection, subcode := 0, faddr := ea })
  else if ea % n ≠ 0 then (s, .error (trapAt .align ea))
  else
    match s.translate w.party (s.asidOf w) (s.warpWorld w) acc ea with
    | (s, .ok x) => (s, .ok x)
    | (s, .error e) => (s, .error (e.trap acc ea))

/-- A wave's scratchpad access of `n` bytes (R167, R180): its key, or its fault. -/
def State.spadAccess (s : State) (w : WarpCore) (ea n : Nat) : Except Trap Nat :=
  if ea % n ≠ 0 then .error (trapAt .align ea)
  else
    match s.spadFail w.core w.launch ea n, s.spadByte w.core w.launch ea with
    | none, some k => .ok k
    | some o, _ => .error (trapAt .spadBounds o)
    | none, none => .error (trapAt .spadBounds ea)

/-- A BANKCFG has issued on the bank that holds an offset and has not completed: new accesses wait (R168). -/
def State.bankBusy (s : State) (w : WarpCore) (ea : Nat) : Bool :=
  match s.bankAt w.core w.launch ea with
  | some b => !(s.bank w.core b).cfg.isEmpty
  | none => false

/-- Some active lane's access reaches a bank whose BANKCFG has issued and not completed: the instruction waits (R168). -/
def State.anyBusy (s : State) (w : WarpCore) (eas : List Nat) : Bool := eas.any (fun ea => s.bankBusy w ea)

/-- The launch's bank that the first such access reaches. -/
def State.busyBank (s : State) (w : WarpCore) (eas : List Nat) : Nat := ((eas.find? (fun ea => s.bankBusy w ea)).getD 0) / 65536

end Sys2Proof.Machine
end

