-- ==== Sys2Proof/Machine/Alu.lean ====
section
/-! DEFINITION. Integer, bitwise, shift, bit-field and address instructions (R107 to R118), and the integer compare (R134): MAJ 0x00 to 0x07 and CMPSET. None sets a flag (R104). -/

namespace Sys2Proof.Machine

/-- An instruction of two sources and the old destination, without flags (R103, R104). -/
def aluR (i : Instr) (r : RArgs) (s : State) (f : Word → Word → Word → Word) : Host.Outcome State Fault Refusal :=
  onWarp i s fun c w => s.perLane c r.d fun l => (f (r.vD s w l) (r.vA s w l) (r.vB s w l), 0)

/-- An instruction of one source and an immediate (R107, R112, R114, R115). -/
def aluI (i : Instr) (a : IArgs) (s : State) (f : Word → Word) : Host.Outcome State Fault Refusal :=
  onWarp i s fun c w => s.perLane c a.d fun l => (f (s.rd w l a.a.toNat posA), 0)

/-- Signed quotient, truncated, with Table 6-2. -/
def divS (a b : Word) : Word :=
  if b = 0 then 0xFFFFFFFF else if a = 0x80000000 ∧ b = 0xFFFFFFFF then 0x80000000 else BitVec.ofInt 32 (a.toInt.tdiv b.toInt)

/-- Signed remainder, with the sign of `a`, with Table 6-2. -/
def modS (a b : Word) : Word :=
  if b = 0 then 0xFFFFFFFF else if a = 0x80000000 ∧ b = 0xFFFFFFFF then 0 else BitVec.ofInt 32 (a.toInt.tmod b.toInt)

/-- Unsigned quotient, with Table 6-2. -/
def divU (a b : Word) : Word := if b = 0 then 0xFFFFFFFF else a / b

/-- Unsigned remainder, with Table 6-2. -/
def modU (a b : Word) : Word := if b = 0 then 0xFFFFFFFF else a % b

/-- High word of the signed product (R108). -/
def mulhS (a b : Word) : Word := BitVec.ofInt 32 (a.toInt * b.toInt / 2 ^ 32)

/-- High word of the unsigned product (R108). -/
def mulhU (a b : Word) : Word := BitVec.ofNat 32 (a.toNat * b.toNat / 2 ^ 32)

/-- Magnitude (R110). -/
def absW (a : Word) : Word := if a.msb then 0 - a else a

/-- Left shift by the whole amount (R113). -/
def shlW (a n : Word) : Word := if n.toNat < 32 then a <<< n.toNat else 0

/-- Logical right shift by the whole amount (R113). -/
def shrW (a n : Word) : Word := if n.toNat < 32 then a >>> n.toNat else 0

/-- Arithmetic right shift by the whole amount (R113). -/
def sraW (a n : Word) : Word := if n.toNat < 32 then a.sshiftRight n.toNat else if a.msb then 0xFFFFFFFF else 0

/-- Position of a bit-field descriptor (R116). -/
def fieldPos (b : Word) : Nat := bits b.toNat 4 0

/-- Width of a bit-field descriptor (R116). -/
def fieldWid (b : Word) : Nat := min (bits b.toNat 13 8) 32

/-- BFX (R116). -/
def bfxW (a b : Word) : Word :=
  let wid := fieldWid b
  let f := (a.toNat / 2 ^ fieldPos b) % 2 ^ wid
  if b.toNat / 2 ^ 15 % 2 = 1 ∧ 0 < wid then BitVec.ofInt 32 (signedOf wid f) else BitVec.ofNat 32 f

/-- BFI (R116). -/
def bfiW (d a b : Word) : Word :=
  let m : Word := BitVec.ofNat 32 ((2 ^ fieldWid b - 1) * 2 ^ fieldPos b)
  (d &&& ~~~m) ||| ((a <<< fieldPos b) &&& m)

/-- Number of set bits (R117). -/
def popcount (a : Word) : Word := BitVec.ofNat 32 ((List.range 32).filter (fun i => a.getLsbD i)).length

/-- Zero bits above the highest set bit (R117). -/
def clzW (a : Word) : Word := BitVec.ofNat 32 (32 - bitLength a.toNat)

/-- Bits reversed (R117). -/
def brevW (a : Word) : Word := maskOf ((List.range 32).filter (fun j => a.getLsbD (31 - j)))

/-- Conditions of CMPSET (R134). -/
def cmpsetHolds (cond : Nat) (a b : Word) : Bool :=
  match cond with
  | 0 => decide (a = b)
  | 1 => decide (a ≠ b)
  | 2 => a.slt b
  | 3 => a.sle b
  | 4 => b.slt a
  | 5 => b.sle a
  | 6 => a.ult b
  | 7 => a.ule b
  | 8 => b.ult a
  | _ => b.ule a

/-- ADD (R107). -/
def execAdd (r : RArgs) (s : State) : Host.Outcome State Fault Refusal := aluR (.add r) r s fun _ a b => a + b
/-- SUB (R107). -/
def execSub (r : RArgs) (s : State) : Host.Outcome State Fault Refusal := aluR (.sub r) r s fun _ a b => a - b
/-- MUL (R108). -/
def execMul (r : RArgs) (s : State) : Host.Outcome State Fault Refusal := aluR (.mul r) r s fun _ a b => a * b
/-- MULH (R108). -/
def execMulh (r : RArgs) (s : State) : Host.Outcome State Fault Refusal := aluR (.mulh r) r s fun _ a b => mulhS a b
/-- MULH.U (R108). -/
def execMulhU (r : RArgs) (s : State) : Host.Outcome State Fault Refusal := aluR (.mulhU r) r s fun _ a b => mulhU a b
/-- MAD (R108). -/
def execMad (r : RArgs) (s : State) : Host.Outcome State Fault Refusal := aluR (.mad r) r s fun d a b => a * b + d
/-- DIV (R109). -/
def execDiv (r : RArgs) (s : State) : Host.Outcome State Fault Refusal := aluR (.div r) r s fun _ a b => divS a b
/-- DIV.U (R109). -/
def execDivU (r : RArgs) (s : State) : Host.Outcome State Fault Refusal := aluR (.divU r) r s fun _ a b => divU a b
/-- MOD (R109). -/
def execMod (r : RArgs) (s : State) : Host.Outcome State Fault Refusal := aluR (.mod r) r s fun _ a b => modS a b
/-- MOD.U (R109). -/
def execModU (r : RArgs) (s : State) : Host.Outcome State Fault Refusal := aluR (.modU r) r s fun _ a b => modU a b
/-- MIN (R110). -/
def execMin (r : RArgs) (s : State) : Host.Outcome State Fault Refusal := aluR (.min r) r s fun _ a b => if a.slt b then a else b
/-- MIN.U (R110). -/
def execMinU (r : RArgs) (s : State) : Host.Outcome State Fault Refusal := aluR (.minU r) r s fun _ a b => if a.ult b then a else b
/-- MAX (R110). -/
def execMax (r : RArgs) (s : State) : Host.Outcome State Fault Refusal := aluR (.max r) r s fun _ a b => if a.slt b then b else a
/-- MAX.U (R110). -/
def execMaxU (r : RArgs) (s : State) : Host.Outcome State Fault Refusal := aluR (.maxU r) r s fun _ a b => if a.ult b then b else a
/-- ABS (R110). -/
def execAbs (r : RArgs) (s : State) : Host.Outcome State Fault Refusal := aluR (.abs r) r s fun _ a _ => absW a
/-- NEG (R110). -/
def execNeg (r : RArgs) (s : State) : Host.Outcome State Fault Refusal := aluR (.neg r) r s fun _ a _ => 0 - a
/-- AND (R111). -/
def execAnd (r : RArgs) (s : State) : Host.Outcome State Fault Refusal := aluR (.and r) r s fun _ a b => a &&& b
/-- OR (R111). -/
def execOr (r : RArgs) (s : State) : Host.Outcome State Fault Refusal := aluR (.or r) r s fun _ a b => a ||| b
/-- XOR (R111). -/
def execXor (r : RArgs) (s : State) : Host.Outcome State Fault Refusal := aluR (.xor r) r s fun _ a b => a ^^^ b
/-- NOT (R111). -/
def execNot (r : RArgs) (s : State) : Host.Outcome State Fault Refusal := aluR (.not r) r s fun _ a _ => ~~~a
/-- SHL (R113). -/
def execShl (r : RArgs) (s : State) : Host.Outcome State Fault Refusal := aluR (.shl r) r s fun _ a b => shlW a b
/-- SHR (R113). -/
def execShr (r : RArgs) (s : State) : Host.Outcome State Fault Refusal := aluR (.shr r) r s fun _ a b => shrW a b
/-- SRA (R113). -/
def execSra (r : RArgs) (s : State) : Host.Outcome State Fault Refusal := aluR (.sra r) r s fun _ a b => sraW a b
/-- BFX (R116). -/
def execBfx (r : RArgs) (s : State) : Host.Outcome State Fault Refusal := aluR (.bfx r) r s fun _ a b => bfxW a b
/-- BFI (R116). -/
def execBfi (r : RArgs) (s : State) : Host.Outcome State Fault Refusal := aluR (.bfi r) r s fun d a b => bfiW d a b
/-- POPC (R117). -/
def execPopc (r : RArgs) (s : State) : Host.Outcome State Fault Refusal := aluR (.popc r) r s fun _ a _ => popcount a
/-- CLZ (R117). -/
def execClz (r : RArgs) (s : State) : Host.Outcome State Fault Refusal := aluR (.clz r) r s fun _ a _ => clzW a
/-- BREV (R117). -/
def execBrev (r : RArgs) (s : State) : Host.Outcome State Fault Refusal := aluR (.brev r) r s fun _ a _ => brevW a

/-- Base plus scaled index (R118): sub[3] zero-extends vB, sub[2:0] is the shift. -/
def leaAddr (k : Nat) (base : DWord) (b : Word) : DWord :=
  let x : DWord := if 8 ≤ k then b.setWidth 64 else b.signExtend 64
  base + (x <<< (k % 8))

/-- LEA (R118). -/
def execLea (r : RArgs) (s : State) : Host.Outcome State Fault Refusal :=
  onWarp (.lea r) s fun c w => s.perLanePair c r.d fun l => (leaAddr (sub r.px) (r.pairA s w l) (r.vB s w l), 0)

/-- ADDI (R107). -/
def execAddi (i : IArgs) (s : State) : Host.Outcome State Fault Refusal := aluI (.addi i) i s fun a => a + i.imm32
/-- ANDI (R112). -/
def execAndi (i : IArgs) (s : State) : Host.Outcome State Fault Refusal := aluI (.andi i) i s fun a => a &&& i.imm32
/-- ORI (R112). -/
def execOri (i : IArgs) (s : State) : Host.Outcome State Fault Refusal := aluI (.ori i) i s fun a => a ||| i.imm32
/-- XORI (R112). -/
def execXori (i : IArgs) (s : State) : Host.Outcome State Fault Refusal := aluI (.xori i) i s fun a => a ^^^ i.imm32
/-- SHLI (R114). -/
def execShli (i : IArgs) (s : State) : Host.Outcome State Fault Refusal := aluI (.shli i) i s fun a => a <<< (i.imm.toNat % 32)
/-- LUI (R115). -/
def execLui (i : IArgs) (s : State) : Host.Outcome State Fault Refusal := aluI (.lui i) i s fun _ => (i.imm.setWidth 32 : Word) <<< 21

/-- CMPSET (R134). -/
def execCmpset (r : RArgs) (s : State) : Host.Outcome State Fault Refusal :=
  aluR (.cmpset r) r s fun _ a b => if cmpsetHolds (sub r.px) a b then 1 else 0

end Sys2Proof.Machine
end

