-- ==== Sys2Proof/Machine/Loads.lean ====
section
/-! DEFINITION. Loads and stores of global memory and of scratchpad, the typed load, the uniform load, and the cache hints (R173, R179 to R191, R195, R210, R215). -/

namespace Sys2Proof.Machine

/-! ### Reads of global memory -/

/-- The leaf through which a warp reads a visible page (R215): the one in force at its last refresh, whatever the scope of the PUBLISH that replaced it. Log 27. -/
def State.readLeaf (s : State) (w : WarpCore) (l : Leaf) (va : Nat) : Leaf :=
  match s.ctxs.find? (s.asidOf w) with
  | none => l
  | some c =>
    match (c.swaps.filter (fun x => decide (x.2.2.2.1 = va / 2 ^ 18 * 2 ^ 18) && decide (w.refresh < x.1))).getLast? with
    | some x => x.2.2.2.2
    | none => l

/-- Where a warp reads a visible page's byte, which it has translated to `pa` (R215): the leaf and the address in the generation of its last refresh. Log 27. -/
def State.readPlace (s : State) (w : WarpCore) (l : Leaf) (va pa : Nat) : Leaf × Nat :=
  let o := s.readLeaf w l va
  if o = l then (l, pa) else (o, o.pa va)

/-- A warp reads bytes of global memory through a leaf (R186, R207, R215): undefined through a shadow mapping, zero bits where the region table denies the read on arrival (R406). -/
def State.readGlobal (s : State) (wid : Nat) (w : WarpCore) (dev : Bool) (l : Leaf) (va n : Nat) : State × List Byte :=
  if l.shadow then (s, bytesOfNat n (Config.free s.free [13, va]))
  else
    let l := s.readLeaf w l va
    let pa := l.pa va
    if !s.regionAllows (s.warpWorld w) pa then
      ((s.modRun wid (fun w => w.markDrop true)).count (homeDie pa) 3 1, List.replicate n 0)
    else if dev then s.devBytes wid [va] l.okey pa n
    else s.plainBytes wid [va] l.okey pa n

/-- A load's values for its lanes, in ascending order (R181): the lanes that faulted, and what the others loaded. -/
def State.loadLanes (s : State) (ls : List Nat) (f : State → Nat → State × Except Trap Nat) : State × List (Nat × Trap) × List (Nat × Nat) :=
  ls.foldl (fun a l =>
    match f a.1 l with
    | (s, .error t) => (s, a.2.1 ++ [(l, t)], a.2.2)
    | (s, .ok v) => (s, a.2.1, a.2.2 ++ [(l, v)])) (s, [], [])

/-- Write what a load returned, and conclude (R40, R186). Log 20. -/
def finishLoad (c : Issue) (code d : Nat) (x : State × List (Nat × Trap) × List (Nat × Nat)) : State :=
  (x.1.modRun c.wid (fun w => WarpCore.writeRun x.1 w d (x.2.2.map (fun e => (e.1, loadedWords code e.2))))).conclude c x.2.1

/-- LD of one lane (R186): its value, or its fault. -/
def State.ldLane (s : State) (c : Issue) (w : WarpCore) (m : MArgs) (l : Nat) : State × Except Trap Nat :=
  let n := sizeBytes m.size.toNat
  let ea := m.ea s w l
  match s.waveAccess w .load ea n with
  | (s, .error t) => (s, .error t)
  | (s, .ok (leaf, pa)) =>
    let (s, b) := (s.useLine w.core leaf pa m.hint.toNat).readGlobal c.wid ((s.warp? c.wid).getD w) (decide (m.hint = 3)) leaf ea n
    (s, .ok (natOfBytes b))

/-- LD (R186). -/
def execLd (m : MArgs) (s : State) : Host.Outcome State Fault Refusal :=
  onWarp (.ld m) s fun c w => finishLoad c m.size.toNat m.d.toNat (s.loadLanes (lanesOf c.lanes) fun s l => s.ldLane c w m l)

/-- The bytes an ST stores: the low bytes of vD, of its pair or of its quad (R186, R345). -/
def storeData (m : MArgs) (s : State) (w : WarpCore) (l : Nat) : Nat :=
  if m.size = 6 then s.rdQuad w l m.d.toNat posD
  else if m.size = 5 then (s.rdPair w l m.d.toNat posD).toNat
  else (s.rd w l m.d.toNat posD).toNat % 256 ^ sizeBytes m.size.toNat

/-- A lane's store, buffered in its warp until it is published (R205). -/
def storeOf (c : Issue) (l va key size data okey : Nat) (bank : Bool) : Pending :=
  { mark := false, red := none, scope := .dev, key := key, size := size, data := data, okey := okey, bank := bank, queue := none, va := va, lane := l, pc := c.pc, insn := c.insn }

/-- Buffer a store of the issuing warp. -/
def State.bufferStore (s : State) (wid : Nat) (p : Pending) : State := s.modRun wid (fun w => { w with stores := w.stores ++ [p] })

/-- The BTE channel that an aperture store names (R188). -/
def apertureChannel (m : MArgs) (ea : Nat) : Option Nat :=
  if m.size = 5 ∧ m.hint = 0 ∧ 0xFFFFF00000000000 ≤ ea ∧ ea < 0xFFFFF00000000200 ∧ (ea - 0xFFFFF00000000000) % 64 = 0 then
    some ((ea - 0xFFFFF00000000000) / 64)
  else none

/-- ST of one lane (R186 to R188): a command of the aperture, or a plain store that waits for publication. -/
def State.stLane (s : State) (c : Issue) (w : WarpCore) (m : MArgs) (l : Nat) : State × Option Trap :=
  let n := sizeBytes m.size.toNat
  let ea := m.ea s w l
  match apertureChannel m ea with
  | some ch =>
    let s := s.drainBank c.wid
    let a : ApertureStore := { chan := ch, value := BitVec.ofNat 64 (storeData m s w l), wid := c.wid, token := w.token, launch := w.launch, since := s.seq, fresh := w.refresh }
    (s.modCore w.core (fun x => { x with aperture := x.aperture ++ [a] }), none)
  | none =>
    match s.waveAccess w .store ea n with
    | (s, .error t) => (s, some t)
    | (s, .ok (leaf, pa)) => ((s.useLine w.core leaf pa m.hint.toNat).bufferStore c.wid (storeOf c l ea pa n (storeData m s w l) leaf.okey false), none)

/-- ST (R186 to R188); one with the hint .dev goes to its home at once with every earlier store (R210). -/
def execSt (m : MArgs) (s : State) : Host.Outcome State Fault Refusal :=
  onWarp (.st m) s fun c w =>
    let (s, faults) := s.eachLane (lanesOf c.lanes) fun s l => s.stLane c w m l
    let s := if m.hint = 3 then s.publish c.wid .dev else s
    s.conclude c faults

/-! ### LDT (R189) -/

/-- The format that LDT's dst code names (Table 10-1). -/
def ldtFormat (dst : Nat) : FloatFmt := if dst = 0 then f32 else if dst = 1 then bf16 else if dst = 2 then f16 else f64

/-- Elements of an LDT (Table 10-2). -/
def ldtCount (size dst : Nat) : Nat := sizeBytes size * 8 / (ldtFormat dst).width

/-- Element format of a page: FP32 for an untyped one (R189). -/
def Leaf.elem (l : Leaf) : ElemFmt := if l.fmt = 0 then .flt f32 else (elemFmt l.fmt).getD (.flt f32)

/-- Elements that share a scale under a geometry (R176); 0: no scale. -/
def Leaf.block (l : Leaf) : Nat := if l.fmt = 0 ∨ l.geo = 0 then 0 else if l.geo = 2 then 16 else 32

/-- Physical address of the scale byte of a page's element (R176). Log 25. -/
def Leaf.scaleByte (l : Leaf) (e : Nat) : Nat := l.scFrame + 8192 * l.slot + e / l.block

/-- Decode `n` elements that begin at a bit offset of a page, under their scales (R33, R176): `scale` gives the scale codes. DESIGN CHOICE (log 54): an element of a page without scales keeps its own zero, -0 as -0; the +0 of R33's last sentence is read as that of a scaled element. -/
def Leaf.decodeRun (l : Leaf) (raw : Nat) (first n : Nat) (scale : Nat → Nat) : List FVal :=
  let w := l.elem.width
  (List.range n).map fun i =>
    let x := l.elem.decode (raw / 2 ^ (w * i) % 2 ^ w)
    if l.block = 0 then x else scaledVal x (scale (first + i))

/-- Scale codes of elements `first` to `first + n − 1` as a warp's plain reads find them (R177). Log 25. -/
def State.readScales (s : State) (wid : Nat) (w : WarpCore) (l : Leaf) (first n : Nat) : State × (Nat → Nat) :=
  if l.block = 0 ∨ n = 0 then (s, fun _ => 127)
  else
    let lo := l.scaleByte first
    let hi := l.scaleByte (first + n - 1)
    if !s.regionAllows (s.warpWorld w) lo then
      ((s.modRun wid (fun w => w.markDrop true)).count (homeDie lo) 3 1, fun _ => 0)
    else
      let (s, b) := s.plainBytes wid [15] l.okey lo (hi + 1 - lo)
      (s, fun e => ((b[l.scaleByte e - lo]?).getD 0).toNat)

/-- LDT of one lane (R189): the packed elements and the flags of their rounding. DESIGN CHOICE (log 54): a base inside the BTE aperture is translated first, as R189 orders, and so gives PAGE_FAULT_LD; R188 gives a load of the aperture PROTECTION, which an effective address there takes when its base lies outside. -/
def State.ldtLane (s : State) (c : Issue) (w : WarpCore) (m : MArgs) (l : Nat) : State × Except Trap (Nat × Flags) :=
  let base := (s.rdPair w l m.a.toNat posA).toNat
  let f := ldtFormat m.hint.toNat
  let n := ldtCount m.size.toNat m.hint.toNat
  match s.translate w.party (s.asidOf w) (s.warpWorld w) .load base with
  | (s, .error e) => (s, .error (e.trap .load base))
  | (s, .ok (b, _)) =>
    let ew := b.elem.width
    if n * ew % 8 ≠ 0 then (s, .error (trapAt .align base))
    else
      let size := n * ew / 8
      let ea := (((base : Int) + m.units * (size : Nat)) % 2 ^ 64).toNat
      match s.waveAccess w .load ea size with
      | (s, .error t) => (s, .error t)
      | (s, .ok (leaf, pa)) =>
        if leaf.elem.width ≠ ew then (s, .error (trapAt .align ea))
        else
          let (s, bytes) := (s.fillCore w.core false leaf pa).readGlobal c.wid ((s.warp? c.wid).getD w) false leaf ea size
          let used := s.readLeaf w leaf ea
          let first := ea % (if leaf.big then 2 ^ 31 else 2 ^ 18) * 8 / ew
          let (s, scale) := s.readScales c.wid ((s.warp? c.wid).getD w) used first n
          let els := (used.decodeRun (natOfBytes bytes) first n scale).map (fun x => f.roundTo 0 x 0)
          (s, .ok (els.zipIdx.foldl (fun v e => v + e.1.code * 2 ^ (f.width * e.2)) 0, gatherFlags (els.map (·.flags))))

/-- LDT of one lane with its flags raised. -/
def State.ldtFlagged (s : State) (c : Issue) (w : WarpCore) (m : MArgs) (l : Nat) : State × Except Trap Nat :=
  match s.ldtLane c w m l with
  | (s, .error t) => (s, .error t)
  | (s, .ok (v, fl)) => (s.modRun c.wid (fun w => w.raise fl), .ok v)

/-- LDT (R189). -/
def execLdt (m : MArgs) (s : State) : Host.Outcome State Fault Refusal :=
  onWarp (.ldt m) s fun c w => finishLoad c m.size.toNat m.d.toNat (s.loadLanes (lanesOf c.lanes) fun s l => s.ldtFlagged c w m l)

/-! ### Scratchpad (R190) -/

/-- Scratchpad bytes as a wave reads them: undefined bytes read free, dropped ones zero. -/
def State.readBank (s : State) (wid va key n : Nat) : State × List Byte := s.plainBytes wid [va] 0 key n

/-- LDS of one lane (R190). -/
def State.ldsLane (s : State) (c : Issue) (w : WarpCore) (m : MArgs) (l : Nat) : State × Except Trap Nat :=
  let n := sizeBytes m.size.toNat
  let ea := m.ea s w l
  match s.spadAccess w ea n with
  | .error t => (s, .error t)
  | .ok key =>
    let (s, b) := s.readBank c.wid ea key n
    (s, .ok (natOfBytes b))

/-- LDS (R190). -/
def execLds (m : MArgs) (s : State) : Host.Outcome State Fault Refusal :=
  onWarp (.lds m) s fun c w =>
    if s.anyBusy w ((lanesOf c.lanes).map (fun l => m.ea s w l)) then s.holdAccess c (s.busyBank w ((lanesOf c.lanes).map (fun l => m.ea s w l)))
    else finishLoad c m.size.toNat m.d.toNat (s.loadLanes (lanesOf c.lanes) fun s l => s.ldsLane c w m l)

/-- STS of one lane (R190): buffered until it is published. -/
def State.stsLane (s : State) (c : Issue) (w : WarpCore) (m : MArgs) (l : Nat) : State × Option Trap :=
  let n := sizeBytes m.size.toNat
  let ea := m.ea s w l
  match s.spadAccess w ea n with
  | .error t => (s, some t)
  | .ok key => (s.bufferStore c.wid (storeOf c l ea key n (storeData m s w l) 0 true), none)

/-- STS (R190). -/
def execSts (m : MArgs) (s : State) : Host.Outcome State Fault Refusal :=
  onWarp (.sts m) s fun c w =>
    if s.anyBusy w ((lanesOf c.lanes).map (fun l => m.ea s w l)) then s.holdAccess c (s.busyBank w ((lanesOf c.lanes).map (fun l => m.ea s w l)))
    else
      let (s, faults) := s.eachLane (lanesOf c.lanes) fun s l => s.stsLane c w m l
      s.conclude c faults

/-! ### LDC (R191) and hints (R195) -/

/-- LDC (R191): one address and one value for the whole warp; a fault traps every active lane. -/
def execLdc (r : RArgs) (s : State) : Host.Outcome State Fault Refusal :=
  onWarp (.ldc r) s fun c w =>
    let code := sub r.px + 4
    let n := sizeBytes code
    let ea := ((r.pairA s w c.lead).toNat + (r.vB s w c.lead).toNat) % 2 ^ 64
    match s.waveAccess w .load ea n with
    | (s, .error t) => s.trapAll c t
    | (s, .ok (leaf, pa)) =>
      let (s, b) := (s.fillCore w.core false leaf pa).readGlobal c.wid w false leaf ea n
      (s.giveAll c r.d.toNat (loadedWords code (natOfBytes b))).conclude c []

/-- PREF (R195): the line of a mapped, readable address is filled, into the L1 and the LLC (sub 0) or into the LLC only (sub 1); nothing else changes. Log 26. -/
def execPref (r : RArgs) (s : State) : Host.Outcome State Fault Refusal :=
  onWarp (.pref r) s fun c w =>
    let s := (lanesOf c.lanes).foldl (fun s l =>
      match s.translate w.party (s.asidOf w) (s.warpWorld w) .load (r.pairA s w l).toNat with
      | (s, .ok (leaf, pa)) => if sub r.px = 0 then s.fillCore w.core false leaf pa else s.fillLine leaf pa
      | (s, .error _) => s) s
    s.conclude c []

/-- CHINT (R195): a class on up to 4 096 lines for each lane; lines that cannot be reached are skipped. Log 26. -/
def execChint (r : RArgs) (s : State) : Host.Outcome State Fault Refusal :=
  onWarp (.chint r) s fun c w =>
    let s := (lanesOf c.lanes).foldl (fun s l =>
      let line := (r.pairA s w l).toNat / 128
      (List.range (min 4096 (r.vB s w l).toNat)).foldl (fun s i =>
        match s.translate w.party (s.asidOf w) (s.warpWorld w) .load (128 * (line + i)) with
        | (s, .ok (_, pa)) => s.hintLine w.core (sub r.px) pa
        | (s, .error _) => s) s) s
    s.conclude c []

end Sys2Proof.Machine
end

