-- ==== Sys2Proof/Machine/Atomics.lean ====
section
/-! DEFINITION. Atomics on global and scratchpad words, with and without a result (R192, R193, R209). -/

namespace Sys2Proof.Machine

/-- Bytes of an atomic: 8 with sub[0], else 4 (R192). -/
def atomBytes (r : RArgs) : Nat := if subBit r.px 0 then 8 else 4

/-- Scope of an ATOM or RED (R192). -/
def atomScope (r : RArgs) : Scope :=
  let n := sub r.px / 4 % 4
  if n = 0 then .dev else if n = 1 then .core else if n = 2 then .die else .sys

/-- Operands of an atomic: vB, and for cas the new value (R192). DESIGN CHOICE (log 20): the 32-bit cas takes its block as two words, so with B naming fp or sp it compares the register's own bits and takes the next special as the new value. -/
def atomOperands (op : Nat) (r : RArgs) (s : State) (w : WarpCore) (l : Nat) : Nat × Nat :=
  if subBit r.px 0 then
    if op = 9 then let q := s.rdQuad w l r.b.toNat posB; (q % 2 ^ 64, q / 2 ^ 64) else ((r.pairB s w l).toNat, 0)
  else ((r.vB s w l).toNat, if op = 9 then (r.vB1 s w l).toNat else 0)

/-- One lane's atomic on global memory, at its home (R192, R193): what it returns. One that the region table denies on arrival reads zero bits, sets `ctl.drop` and writes nothing (R406). Through a shadow mapping the word's contents are undefined, and a visible page is that of the warp's last refresh (R215). Log 22. -/
def State.atomGlobal (s : State) (c : Issue) (w : WarpCore) (op size : Nat) (sc : Scope) (ea b x : Nat) : State × Except Trap Nat :=
  match s.waveAccess w .atomic ea size with
  | (s, .error t) => (s, .error t)
  | (s, .ok (leaf, pa)) =>
    let (leaf, pa) := s.readPlace w leaf ea pa
    let s := (s.fillCore w.core (!s.pegged w.writer pa size) leaf pa).flushTo c.wid pa size
    if !s.regionAllows (s.warpWorld w) pa then
      ((s.modRun c.wid (fun w => w.markDrop true)).count (homeDie pa) 3 1, .ok 0)
    else
      let s := if leaf.shadow then { s with undef := wordRange pa size :: s.undef } else s
      let bad := s.struck pa size
      let (s, old, fl) := s.atomicAt w.writer w.party sc leaf.okey pa size op b x
      ((s.spoilDarner (s.asidOf w) ea size).modRun c.wid (fun w => (w.raise fl).markDrop bad), .ok old)

/-- One lane's atomic on a scratchpad word. -/
def State.atomSpad (s : State) (c : Issue) (w : WarpCore) (op size ea b x : Nat) : State × Except Trap Nat :=
  match s.spadAccess w ea size with
  | .error t => (s, .error t)
  | .ok key =>
    let s := s.flushTo c.wid key size
    let bad := s.struck key size
    let (s, old, fl) := s.atomicAt w.writer w.party .core 0 key size op b x
    (s.modRun c.wid (fun w => (w.raise fl).markDrop bad), .ok old)

/-- Address of an atomic: the pair vA (R192). -/
def atomAddress (r : RArgs) (s : State) (w : WarpCore) (l : Nat) : Nat := (r.pairA s w l).toNat

/-- ATOM of one lane. -/
def State.atomLane (s : State) (c : Issue) (w : WarpCore) (op : Nat) (r : RArgs) (l : Nat) : State × Except Trap Nat :=
  let (b, x) := atomOperands op r s w l
  s.atomGlobal c w op (atomBytes r) (atomScope r) (atomAddress r s w l) b x

/-- ATOMS of one lane. -/
def State.atomsLane (s : State) (c : Issue) (w : WarpCore) (op : Nat) (r : RArgs) (l : Nat) : State × Except Trap Nat :=
  let (b, x) := atomOperands op r s w l
  s.atomSpad c w op (atomBytes r) (atomAddress r s w l) b x

/-- ATOM with an operation of Table 3-4 (R192): lanes in ascending order, each at once at the home. -/
def atomWith (i : Instr) (op : Nat) (r : RArgs) (s : State) : Host.Outcome State Fault Refusal :=
  onWarp i s fun c w =>
    finishLoad c (if subBit r.px 0 then 5 else 4) r.d.toNat (s.loadLanes (lanesOf c.lanes) fun s l => s.atomLane c w op r l)

/-- ATOMS with an operation of Table 3-4 (R192, R193); it waits while a BANKCFG on its bank has not completed (R168). -/
def atomsWith (i : Instr) (op : Nat) (r : RArgs) (s : State) : Host.Outcome State Fault Refusal :=
  onWarp i s fun c w =>
    if s.anyBusy w ((lanesOf c.lanes).map (fun l => atomAddress r s w l)) then s.holdAccess c (s.busyBank w ((lanesOf c.lanes).map (fun l => atomAddress r s w l)))
    else
      finishLoad c (if subBit r.px 0 then 5 else 4) r.d.toNat (s.loadLanes (lanesOf c.lanes) fun s l => s.atomsLane c w op r l)

/-- ATOM.add (R192). -/
def execAtomAdd (r : RArgs) (s : State) : Host.Outcome State Fault Refusal := atomWith (.atomAdd r) 0 r s
/-- ATOM.min.s (R192). -/
def execAtomMinS (r : RArgs) (s : State) : Host.Outcome State Fault Refusal := atomWith (.atomMinS r) 1 r s
/-- ATOM.max.s (R192). -/
def execAtomMaxS (r : RArgs) (s : State) : Host.Outcome State Fault Refusal := atomWith (.atomMaxS r) 2 r s
/-- ATOM.min.u (R192). -/
def execAtomMinU (r : RArgs) (s : State) : Host.Outcome State Fault Refusal := atomWith (.atomMinU r) 3 r s
/-- ATOM.max.u (R192). -/
def execAtomMaxU (r : RArgs) (s : State) : Host.Outcome State Fault Refusal := atomWith (.atomMaxU r) 4 r s
/-- ATOM.and (R192). -/
def execAtomAnd (r : RArgs) (s : State) : Host.Outcome State Fault Refusal := atomWith (.atomAnd r) 5 r s
/-- ATOM.or (R192). -/
def execAtomOr (r : RArgs) (s : State) : Host.Outcome State Fault Refusal := atomWith (.atomOr r) 6 r s
/-- ATOM.xor (R192). -/
def execAtomXor (r : RArgs) (s : State) : Host.Outcome State Fault Refusal := atomWith (.atomXor r) 7 r s
/-- ATOM.exch (R192). -/
def execAtomExch (r : RArgs) (s : State) : Host.Outcome State Fault Refusal := atomWith (.atomExch r) 8 r s
/-- ATOM.cas (R192). -/
def execAtomCas (r : RArgs) (s : State) : Host.Outcome State Fault Refusal := atomWith (.atomCas r) 9 r s
/-- ATOM.add.f32 (R192). -/
def execAtomAddF32 (r : RArgs) (s : State) : Host.Outcome State Fault Refusal := atomWith (.atomAddF32 r) 10 r s

/-- ATOMS.add (R192). -/
def execAtomsAdd (r : RArgs) (s : State) : Host.Outcome State Fault Refusal := atomsWith (.atomsAdd r) 0 r s
/-- ATOMS.min.s (R192). -/
def execAtomsMinS (r : RArgs) (s : State) : Host.Outcome State Fault Refusal := atomsWith (.atomsMinS r) 1 r s
/-- ATOMS.max.s (R192). -/
def execAtomsMaxS (r : RArgs) (s : State) : Host.Outcome State Fault Refusal := atomsWith (.atomsMaxS r) 2 r s
/-- ATOMS.min.u (R192). -/
def execAtomsMinU (r : RArgs) (s : State) : Host.Outcome State Fault Refusal := atomsWith (.atomsMinU r) 3 r s
/-- ATOMS.max.u (R192). -/
def execAtomsMaxU (r : RArgs) (s : State) : Host.Outcome State Fault Refusal := atomsWith (.atomsMaxU r) 4 r s
/-- ATOMS.and (R192). -/
def execAtomsAnd (r : RArgs) (s : State) : Host.Outcome State Fault Refusal := atomsWith (.atomsAnd r) 5 r s
/-- ATOMS.or (R192). -/
def execAtomsOr (r : RArgs) (s : State) : Host.Outcome State Fault Refusal := atomsWith (.atomsOr r) 6 r s
/-- ATOMS.xor (R192). -/
def execAtomsXor (r : RArgs) (s : State) : Host.Outcome State Fault Refusal := atomsWith (.atomsXor r) 7 r s
/-- ATOMS.exch (R192). -/
def execAtomsExch (r : RArgs) (s : State) : Host.Outcome State Fault Refusal := atomsWith (.atomsExch r) 8 r s
/-- ATOMS.cas (R192). -/
def execAtomsCas (r : RArgs) (s : State) : Host.Outcome State Fault Refusal := atomsWith (.atomsCas r) 9 r s
/-- ATOMS.add.f32 (R192). -/
def execAtomsAddF32 (r : RArgs) (s : State) : Host.Outcome State Fault Refusal := atomsWith (.atomsAddF32 r) 10 r s

/-- A lane's RED, buffered until the warp's next boundary at the latest (R193, R209). -/
def redOf (c : Issue) (l va key size op b x okey : Nat) (sc : Scope) (bank : Bool) : Pending :=
  { mark := false, red := some op, scope := sc, key := key, size := size, data := b % 2 ^ 64 + x % 2 ^ 64 * 2 ^ 64, okey := okey, bank := bank, queue := none, va := va,
    lane := l, pc := c.pc, insn := c.insn }

/-- RED of one lane (R193): checked at issue, performed later. -/
def State.redLane (s : State) (c : Issue) (w : WarpCore) (op : Nat) (r : RArgs) (l : Nat) : State × Option Trap :=
  let ea := atomAddress r s w l
  let (b, x) := atomOperands op r s w l
  match s.waveAccess w .atomic ea (atomBytes r) with
  | (s, .error t) => (s, some t)
  | (s, .ok (leaf, pa)) =>
    let (leaf, pa) := s.readPlace w leaf ea pa
    let s := if leaf.shadow then { s with undef := wordRange pa (atomBytes r) :: s.undef } else s
    ((s.fillCore w.core (!s.pegged w.writer pa (atomBytes r)) leaf pa).bufferStore c.wid (redOf c l ea pa (atomBytes r) op b x leaf.okey (atomScope r) false), none)

/-- RED (R193); it writes no register. -/
def execRed (op : BitVec 4) (r : RArgs) (s : State) : Host.Outcome State Fault Refusal :=
  onWarp (.red op r) s fun c w =>
    let (s, faults) := s.eachLane (lanesOf c.lanes) fun s l => s.redLane c w op.toNat r l
    s.conclude c faults

/-- REDS of one lane (R193). -/
def State.redsLane (s : State) (c : Issue) (w : WarpCore) (op : Nat) (r : RArgs) (l : Nat) : State × Option Trap :=
  let ea := atomAddress r s w l
  let (b, x) := atomOperands op r s w l
  match s.spadAccess w ea (atomBytes r) with
  | .error t => (s, some t)
  | .ok key => (s.bufferStore c.wid (redOf c l ea key (atomBytes r) op b x 0 .core true), none)

/-- REDS (R193). -/
def execReds (op : BitVec 4) (r : RArgs) (s : State) : Host.Outcome State Fault Refusal :=
  onWarp (.reds op r) s fun c w =>
    if s.anyBusy w ((lanesOf c.lanes).map (fun l => atomAddress r s w l)) then s.holdAccess c (s.busyBank w ((lanesOf c.lanes).map (fun l => atomAddress r s w l)))
    else
      let (s, faults) := s.eachLane (lanesOf c.lanes) fun s l => s.redsLane c w op.toNat r l
      s.conclude c faults

end Sys2Proof.Machine
end

