-- ==== Sys2Proof/Machine/Peg.lean ====
section
/-! DEFINITION. The Peg Table (R221 to R230), the waits on memory (R231 to R235), and the barrier network (R236 to R240). -/

namespace Sys2Proof.Machine

/-! ### Where registrations are (R226 to R228) -/

/-- Registrations of a slice in a place. -/
def State.regsAt (s : State) (slice : Nat) (p : RegPlace) : Nat :=
  (s.regs.filter (fun e => decide (e.2.place = p) && decide (homeSlice e.2.key = slice))).length

/-- Where a slice takes a new registration: its table, its overflow list, or nowhere yet (R226 to R228). -/
def State.admitPlace (s : State) (key : Nat) : RegPlace :=
  if s.regsAt (homeSlice key) .table < Config.pegEntries then .table
  else if s.regsAt (homeSlice key) .spilled < Config.spillEntries then .spilled
  else .held

/-- The party for which a registration's read is made. -/
def Registration.party (r : Registration) : Party :=
  match r.owner with
  | .warp wid _ => .core (wid / 64)
  | .darner wid _ _ => .core (wid / 64)
  | .queue _ _ => .dev
  | .graph _ => .dev

/-- The read of a registration, made at the home as LD.dev makes it (R183, R207, R221, R406): what is written elsewhere is recalled first, and a warp's read of dropped bytes or of bytes that the region table denies sets `ctl.drop`. Log 48. -/
def State.readReg (s : State) (r : Registration) : State × Nat :=
  let bad := s.deniedReg r || s.struck r.key r.size
  let s := match bad, r.owner with | true, .warp wid _ => s.modWarp wid (fun w => w.markDrop true) | _, _ => s
  if s.deniedReg r then (s.count (homeDie r.key) 3 1, 0)
  else
    let s := ((s.touch r.party r.key r.size).recall r.party r.key r.size).countDrop r.key r.size
    (s, s.watched r)

/-- The wait rests on another registration. -/
def WaitKind.mapReg (f : Nat → Nat) (k : WaitKind) : WaitKind :=
  match k with
  | .mem r => .mem (f r)
  | .qput r va i v st c => .qput (f r) va i v st c
  | .future (some r) va => .future (some (f r)) va
  | .lock (some r) va => .lock (some (f r)) va
  | .qtake (some r) va i => .qtake (some (f r)) va i
  | _ => k

/-- The waits of a warp rest on other registrations. -/
def WarpCore.mapRegs (f : Nat → Nat) (w : WarpCore) : WarpCore :=
  { w with frontier := w.frontier.map fun e =>
      match e.state with
      | .wait b t => { e with state := .wait b { t with kind := t.kind.mapReg f } }
      | _ => e }

/-- The waits of the warp in a slot, resident or not, rest on other registrations. -/
def State.mapRegs (s : State) (wid : Nat) (f : Nat → Nat) : State :=
  let g (x : Warp) : Warp := { run := x.run.mapRegs f, help := x.help.map (WarpCore.mapRegs f) }
  { s with
    warps := s.warps.modify wid g
    saved := s.saved.map (fun v => if v.wid = wid then { v with warp := g v.warp } else v) }

/-- The entry of the same warp that a registration shares (R225): they agree in address, width, comparison, operand and deadline, and stand in the same table. -/
def State.twin (s : State) (id : Nat) (r : Registration) : Option Nat :=
  ((s.regs.filter (fun e => decide (e.1 ≠ id) && decide (e.2.owner = r.owner) && (match r.owner with | .warp _ _ => true | _ => false) &&
      decide ((e.2.asid, e.2.key, e.2.w64, e.2.cmp, e.2.operand, e.2.deadline) = (r.asid, r.key, r.w64, r.cmp, r.operand, r.deadline)) && decide (e.2.shadow = r.shadow) &&
      (match r.place, e.2.place with
        | .monitor, .monitor => true
        | .warp, .warp => true
        | .inFlight, .table => true
        | .inFlight, .spilled => true
        | .held, .table => true
        | .held, .spilled => true
        | _, _ => false))).head?).map (·.1)

/-- A registration joins an entry of its warp (R225). -/
def State.joinReg (s : State) (id into : Nat) (r : Registration) : State :=
  let s := { s with regs := (s.regs.erase id).modify into (fun x =>
    { x with lanes := x.lanes ||| r.lanes, also := if x.va = r.va ∨ r.va ∈ x.also then x.also else r.va :: x.also }) }
  match r.owner with
  | .warp wid _ => s.mapRegs wid (fun x => if x = id then into else x)
  | _ => s

/-- The read and evaluation of a registration where its entry stands or would be made (R221, R225, R259): it completes with OK_NOW, with TIMEOUT or as its owner record asks, joins an entry, or is put in a place. The first entry of a line ends its exclusive copies (R223). Log 48. -/
def State.evalReg (s : State) (id : Nat) (r : Registration) (p : RegPlace) : State :=
  let (s, v) := s.readReg r
  if cmpHolds r.cmp r.w64 v r.operand then s.endReg id 0
  else
    match s.ownerEnds r with
    | some code => s.endReg id code
    | none =>
      if r.zero then s.endReg id 2
      else
        match s.twin id r with
        | some t => s.joinReg id t r
        | none => { s.recallExclusive (r.key / 128) with regs := s.regs.insert id { r with place := p } }

/-- A registration arrives at its home (R221); with no room it is held at the core (R228). Log 48. -/
def State.register (s : State) (id : Nat) : State :=
  match s.regs.find? id with
  | none => s
  | some r =>
    if (s.twin id r).isSome then s.evalReg id r r.place
    else
      match s.admitPlace r.key with
      | .held => { s with regs := s.regs.insert id { r with place := .held } }
      | p => s.evalReg id r p

/-- A registration on its way reaches its home slice (R221). Log 48. -/
def execPegRegistration (id : Nat) (s : State) : Host.Outcome State Fault Refusal :=
  .next (match s.regs.find? id with
    | some r => if r.place = .inFlight then s.register id else s
    | none => s)

/-- A held registration is tried again (R228); one whose deadline has passed completes with TIMEOUT. -/
def execPegRetry (id : Nat) (s : State) : Host.Outcome State Fault Refusal :=
  .next (match s.regs.find? id with
    | some r =>
      if r.place = .held then
        if (match r.deadline with | some d => decide (d < s.ns) | none => false) then s.endReg id 2 else s.register id
      else s
    | none => s)

/-- The deadline of a registration at its home, in a monitor or held at its core has passed (R224, R228). Log 48. -/
def execPegTimeout (id : Nat) (s : State) : Host.Outcome State Fault Refusal :=
  .next (match s.regs.find? id with
    | some r =>
      match r.place, r.deadline with
      | .inFlight, _ => s
      | .warp, _ => s
      | _, some d => if d < s.ns then s.endReg id 2 else s
      | _, none => s
    | none => s)

/-! ### WAITU and WAITL (R231 to R235) -/

/-- What one lane asks of a wait. -/
structure Ask where
  key : Nat
  okey : Nat
  va : Nat
  operand : Nat
  timeout : Word
  shadow : Bool := false
  deriving DecidableEq, Repr

/-- Operand and timeout from the operand block (R231). -/
def waitOperand (r : RArgs) (s : State) (w : WarpCore) (l : Nat) : Nat × Word :=
  if subBit r.px 0 then ((s.rdPair w l r.b.toNat posB).toNat, s.rd w l (r.b.toNat + 2) (posB + 2))
  else ((r.vB s w l).toNat, r.vB1 s w l)

/-- Lanes of one instruction that ask the same make one registration (R225). -/
def State.startAsk (s : State) (c : Issue) (w : WarpCore) (place : RegPlace) (w64 : Bool) (cmp : Nat) (dst : Loc) (core barrier : Bool)
    (m : Mask) (a : Ask) : State × Nat :=
  let id := s.regs.fresh 0
  let reg : Registration :=
    { owner := .warp c.wid w.token, place := place, asid := s.asidOf w, va := a.va, key := a.key, okey := a.okey, w64 := w64, cmp := cmp, operand := a.operand,
      deadline := s.deadline a.timeout, zero := decide (a.timeout = 0), shadow := a.shadow, lanes := m }
  let s := { s with regs := s.regs.insert id reg }
  (s.startWait c m barrier (Wait.mk' (.mem id) (s.deadline a.timeout) dst core), id)

/-- Lanes grouped by what they ask, in ascending lane order. -/
def groupAsks (as : List (Nat × Ask)) : List (Mask × Ask) :=
  ((as.map (·.2)).eraseDups).map (fun a => (maskOf ((as.filter (fun e => decide (e.2 = a))).map (·.1)), a))

/-- The asks of the active lanes, and the lanes that fault. -/
def State.askLanes (s : State) (ls : List Nat) (f : State → Nat → State × Except Trap Ask) : State × List (Nat × Trap) × List (Nat × Ask) :=
  ls.foldl (fun a l =>
    match f a.1 l with
    | (s, .error t) => (s, a.2.1 ++ [(l, t)], a.2.2)
    | (s, .ok x) => (s, a.2.1, a.2.2 ++ [(l, x)])) (s, [], [])

/-- A warp's own earlier stores to a word take their place before it waits on the word (R181, R208). -/
def State.ownFirst (s : State) (wid k n : Nat) : State :=
  match s.anyWarp? wid with
  | none => s
  | some w =>
    let m := w.stores.zipIdx.foldl (fun m e =>
      if !e.1.mark && decide (e.1.key < k + n) && decide (k < e.1.key + e.1.size) then e.2 + 1 else m) 0
    if m = 0 then s else s.publishSome wid m .dev

/-- The address of a lane's wait on global memory, with its faults (R221, R231), in the generation of its last refresh (R215); a monitor fills the line into the L1 (R235). -/
def State.askGlobal (s : State) (c : Issue) (w : WarpCore) (r : RArgs) (fill : Bool) (l : Nat) : State × Except Trap Ask :=
  let n := if subBit r.px 0 then 8 else 4
  let ea := (r.pairA s w l).toNat
  match s.waveAccess w .load ea n with
  | (s, .error t) => (s, .error t)
  | (s, .ok (leaf, pa)) =>
    let (o, t) := waitOperand r s w l
    let (leaf, pa) := s.readPlace w leaf ea pa
    let s := s.ownFirst c.wid pa n
    (if fill then s.fillCore w.core false leaf pa else s, .ok { key := pa, okey := leaf.okey, va := ea, operand := o, timeout := t, shadow := leaf.shadow })

/-- WAITU (R231): each lane's registration sets out for its home. -/
def execWaitu (cmp : BitVec 3) (r : RArgs) (s : State) : Host.Outcome State Fault Refusal :=
  onWarp (.waitu cmp r) s fun c w => s.orCancel c w fun s c =>
    let dst := w.resolve r.d.toNat
    let (s, faults, asks) := s.askLanes (lanesOf c.lanes) (fun s l => s.askGlobal c w r false l)
    let s := (groupAsks asks).foldl (fun s g => (s.startAsk c w .inFlight (subBit r.px 0) cmp.toNat dst false false g.1 g.2).1) s
    s.concludePlaced c faults

/-- Monitors in use on a core (R235). DESIGN CHOICE (log 48): a lane that waits in FPUSH or FPOP takes none of the 64, since R12 says that its wait rests on the L1 monitor, and no rule counts it among the entries. -/
def State.monitorsUsed (s : State) (core : Nat) : Nat :=
  (s.regs.filter (fun e => decide (e.2.place = .monitor) && (match e.2.owner with | .warp wid _ => decide (wid / 64 = core) | _ => false))).length

/-- A global WAITL has a monitor: one is free, and the core has a CACHE bank (R235). -/
def State.monitorFree (s : State) (core : Nat) : Bool :=
  decide (s.monitorsUsed core < Config.monitors) && (s.core core).banks.any (fun b => decide (b.mode = .cache))

/-- A registration that is armed at once, in a monitor or at a bank (R234, R235): it completes at issue when its condition holds. -/
def State.armNow (s : State) (id : Nat) : State :=
  match s.regs.find? id with
  | none => s
  | some r => s.evalReg id r r.place

/-- WAITL (R233 to R235): on global memory in a monitor, or in the Peg Table when there is none; on scratchpad at its bank. -/
def execWaitl (cmp : BitVec 3) (r : RArgs) (s : State) : Host.Outcome State Fault Refusal :=
  onWarp (.waitl cmp r) s fun c w => s.orCancel c w fun s c =>
    let dst := w.resolve r.d.toNat
    let wide := subBit r.px 0
    let n := if wide then 8 else 4
    if subBit r.px 1 then
      if s.anyBusy w ((lanesOf c.lanes).map (fun l => (r.pairA s w l).toNat)) then s.holdAccess c (s.busyBank w ((lanesOf c.lanes).map (fun l => (r.pairA s w l).toNat)))
      else
        let (s, faults, asks) := s.askLanes (lanesOf c.lanes) fun s l =>
          let ea := (r.pairA s w l).toNat
          match s.spadAccess w ea n with
          | .error t => (s, .error t)
          | .ok key =>
            let (o, t) := waitOperand r s w l
            (s.ownFirst c.wid key n, .ok { key := key, okey := 0, va := ea, operand := o, timeout := t })
        let s := (groupAsks asks).foldl (fun s g =>
          let (s, id) := s.startAsk c w .warp wide cmp.toNat dst true false g.1 g.2
          s.armNow id) s
        s.concludePlaced c faults
    else
      let (s, faults, asks) := s.askLanes (lanesOf c.lanes) (fun s l => s.askGlobal c w r (s.monitorFree w.core) l)
      let s := (groupAsks asks).foldl (fun s g =>
        if s.monitorFree w.core then
          let (s, id) := s.startAsk c w .monitor wide cmp.toNat dst true false g.1 g.2
          s.armNow id
        else (s.startAsk c w .inFlight wide cmp.toNat dst true false g.1 g.2).1) s
      s.concludePlaced c faults

/-- A registration of a monitor moves to the Peg Table: it joins an entry of its warp (R225), or takes one, and the line has no exclusive copy from then on (R223); without room it is held at the core (R228). -/
def State.moveMonitor (s : State) (id : Nat) (r : Registration) : State :=
  match s.twin id { r with place := .inFlight } with
  | some t => s.joinReg id t r
  | none =>
    let p := s.admitPlace r.key
    { if p = .held then s else s.recallExclusive (r.key / 128) with regs := s.regs.insert id { r with place := p } }

/-- Registrations of a warp in monitors move to the Peg Table when it is evicted (R229, R235). -/
def State.moveMonitors (s : State) (wid : Nat) : State :=
  let mine := s.regs.filter (fun e => decide (e.2.place = .monitor) && (match e.2.owner with | .warp x _ => decide (x = wid) | _ => false))
  mine.foldl (fun s e => s.moveMonitor e.1 e.2) s

/-- The deadline of a wait that rests on the warp's own state has passed (R224): SYNCW and scratchpad WAITL, MXWAIT, BMWAIT, GSWAIT, CTXSAVE. -/
def State.warpDeadline (s : State) (wid : Nat) : State :=
  let local_ (k : WaitKind) : Bool := match k with
    | .mem id => (match s.regs.find? id with | some r => decide (r.place = .warp) && !r.met | none => false)
    | .press _ => true
    | .pressOut => true
    | .bcu _ => true
    | .bcuAll => true
    | .seamOut => true
    | .ctxsave _ => true
    | _ => false
  let late (t : Wait) : Bool := local_ t.kind && (match t.deadline with | some d => decide (d < s.ns) | none => false)
  let gone := s.regs.filter (fun e => decide (e.2.place = .warp) && !e.2.met && (match e.2.owner with | .warp x _ => decide (x = wid) | _ => false) &&
    (match e.2.deadline with | some d => decide (d < s.ns) | none => false))
  { s.recordIf wid (fun t _ => late t) 2 with regs := s.regs.filter (fun e => !(gone.any (fun g => decide (g.1 = e.1)))) }

/-- WARP_WAIT_DEADLINE (R224). -/
def execWarpWaitDeadline (wid : Nat) (s : State) : Host.Outcome State Fault Refusal := .next (s.warpDeadline wid)

/-! ### The barrier network (R236 to R240) -/

/-- A group that nothing has configured (R236). -/
def Barrier.fresh : Barrier := { x := 0, y := 0, logw := 0, logh := 0, slots := 0, expect := 0, arrived := 0, gen := 0, heldSet := none }

/-- A barrier group. -/
def State.barrier (s : State) (g : Nat) : Barrier := (s.barriers.find? g).getD Barrier.fresh

/-- A held membership and expected count take effect (R240). -/
def Barrier.takeHeld (b : Barrier) : Barrier :=
  match b.heldSet with
  | some (x, y, lw, lh, sl, e) => { b with x := x, y := y, logw := lw, logh := lh, slots := sl, expect := e, heldSet := none }
  | none => b

/-- One arrival on a group with E > 0 (R236): the generation completes in one step when the count reaches E. -/
def State.arrive (s : State) (g : Nat) : State :=
  let b := s.barrier g
  if b.arrived + 1 = b.expect then
    let b' := { b.takeHeld with arrived := 0, gen := b.gen + 1 }
    let s := { s with barriers := s.barriers.insert g b' }
    s.homeWrite { wid := none, core := none } .dev none 0 (s.genWord g) (bytesOfNat 4 b'.gen.toNat)
  else { s with barriers := s.barriers.insert g { b with arrived := b.arrived + 1 } }

/-- An engine's arrival for a command (R238): discarded on a group whose E is 0. -/
def State.engineArrive (s : State) (g : Nat) : State := if (s.barrier g).expect = 0 then s else s.arrive g

/-- The group is assigned to a context (R236, R364). -/
def State.groupOf (s : State) (asid g : Nat) : Bool :=
  match s.ctxs.find? asid with
  | some c => decide (c.rcd.bgbase ≤ g) && decide (g < c.rcd.bgbase + c.rcd.bgcount)
  | none => false

/-- A warp is a member of a group. -/
def Barrier.member (b : Barrier) (core slot : Nat) : Bool :=
  decide (b.x ≤ coreX core) && decide (coreX core < b.x + 2 ^ b.logw) && decide (b.y ≤ coreY core) && decide (coreY core < b.y + 2 ^ b.logh) && bit b.slots.toNat slot

/-- PROTECTION subcode of BARR (Table 12-5). -/
def State.barrFault (s : State) (w : WarpCore) (g : Nat) : Option Nat :=
  if !s.groupOf (s.asidOf w) g then some 1
  else if (s.barrier g).expect = 0 then some 2
  else if !(s.barrier g).member w.core w.slot then some 3
  else none

/-- Group number of a barrier instruction (R237). -/
def groupNumber (r : RArgs) (s : State) (w : WarpCore) (l : Nat) : Nat := (r.vA s w l).toNat % 1024

/-- BARR (R238). -/
def execBarr (r : RArgs) (s : State) : Host.Outcome State Fault Refusal :=
  onWarp (.barr r) s fun c w => s.orCancel c w fun s c =>
    let g := groupNumber r s w c.lead
    match s.barrFault w g with
    | some n => s.trapAll c (trapOf .protection n)
    | none =>
      let gen := (s.barrier g).gen
      let s := (s.boundary c.wid .dev true).arrive g
      (s.giveAll c r.d.toNat [gen]).conclude c []

/-- BWAIT (R239): lanes register on the generation word. -/
def execBwait (r : RArgs) (s : State) : Host.Outcome State Fault Refusal :=
  onWarp (.bwait r) s fun c w => s.orCancel c w fun s c =>
    let g := groupNumber r s w c.lead
    if !s.groupOf (s.asidOf w) g then s.trapAll c (trapOf .protection 1)
    else
      let dst := w.resolve r.d.toNat
      let asks := (lanesOf c.lanes).map (fun l =>
        (l, ({ key := s.genWord g, okey := 0, va := 0, operand := (r.vB s w l).toNat, timeout := r.vB1 s w l } : Ask)))
      let s := (groupAsks asks).foldl (fun s x => (s.startAsk c w .inFlight false 8 dst false true x.1 x.2).1) s
      s.concludePlaced c []

/-- The rectangle is an aligned sub-rectangle of a launch's (R66, R67). -/
def Launch.holdsRect (l : Launch) (x y lw lh : Nat) : Bool :=
  decide (lw ≤ 4) && decide (lh ≤ 4) && decide (x % 2 ^ lw = 0) && decide (y % 2 ^ lh = 0) &&
    decide (l.x ≤ x) && decide (x + 2 ^ lw ≤ l.x + 2 ^ l.logw) && decide (l.y ≤ y) && decide (y + 2 ^ lh ≤ l.y + 2 ^ l.logh)

/-- BSETM with E = 0 (R240): arrivals are discarded and every BWAIT on the group ends with ABANDONED. -/
def State.unconfigure (s : State) (g : Nat) : State :=
  let b := s.barrier g
  let s := { s with barriers := s.barriers.insert g { Barrier.fresh with gen := b.gen } }
  let hit := s.regs.filter (fun e => decide (e.2.cmp = 8) && decide (e.2.key = s.genWord g))
  hit.foldl (fun s e => s.endReg e.1 3) s

/-- BSETM (R240). -/
def execBsetm (r : RArgs) (s : State) : Host.Outcome State Fault Refusal :=
  onWarp (.bsetm r) s fun c w =>
    let g := groupNumber r s w c.lead
    let q := s.rdQuad w c.lead r.b.toNat posB
    let x := bits q 3 0
    let y := bits q 8 4
    let lw := bits q 11 9
    let lh := bits q 14 12
    let e := bits q 55 32
    if !s.groupOf (s.asidOf w) g then s.trapAll c (trapOf .protection 1)
    else if bits q 31 15 ≠ 0 ∨ !(s.launch w.launch).holdsRect x y lw lh then s.trapAll c (trapOf .protection 4)
    else if e = 0 then (s.unconfigure g).conclude c []
    else
      let b := s.barrier g
      let set := some (x, y, lw, lh, BitVec.ofNat 64 (q / 2 ^ 64), e)
      let b' := { b with heldSet := set }
      { s with barriers := s.barriers.insert g (if b.arrived = 0 then b'.takeHeld else b') }.conclude c []

end Sys2Proof.Machine
end

