-- ==== Sys2Proof/Machine/Calls.lean ====
section
/-! DEFINITION. Calls that change width (R82 to R102): link records, arena accesses of calls and returns, callee warps and where they run, the end of a widen call, the firing of a gather group and its release, the close of a keyed collection. The instructions are in Control. -/

namespace Sys2Proof.Machine

/-! ### Arena accesses -/

/-- Translate every page of an access of a warp: leaves and keys, or the first fault. A load reads a visible page in the generation of the warp's last refresh (R215). -/
def State.runsAccess (s : State) (w : WarpCore) (acc : Acc) (va n : Nat) : State × Except Trap (List (Leaf × Nat × Nat × Nat)) :=
  (pageRuns va n).foldl (fun a r =>
    match a with
    | (s, .error t) => (s, .error t)
    | (s, .ok l) =>
      match s.engineTranslate w.party (s.asidOf w) acc r.1 with
      | (s, .error e) => (s, .error (e.trap acc r.1))
      | (s, .ok (leaf, pa)) =>
        let (leaf, pa) := if acc = .load then s.readPlace w leaf r.1 pa else (leaf, pa)
        if s.regionAllows (s.warpWorld w) pa then (s, .ok (l ++ [(leaf, pa, r.1 - va, r.2)])) else (s, .error (AccErr.trap acc r.1 .world))) (s, .ok [])

/-- Write bytes at a virtual address as a warp's own, published at .dev at once, after the warp's own older stores to them (R86, R88, R95, R162, R181); the lines take their page's class (R14); nothing is written when a page faults. -/
def State.callWrite (s : State) (w : WarpCore) (va : Nat) (data : List Byte) : State × Option Trap :=
  match s.runsAccess w .store va data.length with
  | (s, .error t) => (s, some t)
  | (s, .ok rs) =>
    (rs.foldl (fun s r => ((s.flushTo w.wid r.2.1 r.2.2.2).fillOwn w.core r.1 r.2.1 r.2.2.2).homeWrite w.writer .dev none r.1.okey r.2.1 ((data.drop r.2.2.1).take r.2.2.2)) s, none)

/-- Read bytes at a virtual address as the running warp's own loads would (R14, R85, R162, R215). -/
def State.callRead (s : State) (wid : Nat) (w : WarpCore) (va n : Nat) : State × Except Trap (List Byte) :=
  match s.runsAccess w .load va n with
  | (s, .error t) => (s, .error t)
  | (s, .ok rs) =>
    let (s, b) := rs.foldl (fun a r => 
      if r.1.shadow then (a.1, a.2 ++ bytesOfNat r.2.2.2 (Config.free a.1.free [62, r.2.1]))
      else let (s, b) := (a.1.fillOwn w.core r.1 r.2.1 r.2.2.2).plainBytes wid [10] r.1.okey r.2.1 r.2.2.2; (s, a.2 ++ b)) (s, [])
    (s, .ok b)

/-- Read bytes at a virtual address at the home, as LD.dev does (R14, R91, R205, R209, R215). -/
def State.callHome (s : State) (w : WarpCore) (va n : Nat) : State × Except Trap (List Byte) :=
  match s.runsAccess w .load va n with
  | (s, .error t) => (s, .error t)
  | (s, .ok rs) =>
    let (s, b) := rs.foldl (fun a r =>
      if r.1.shadow then (a.1, a.2 ++ bytesOfNat r.2.2.2 (Config.free a.1.free [62, r.2.1]))
      else
        let s := ((a.1.fillSpan r.1 r.2.1 r.2.2.2).touch w.party r.2.1 r.2.2.2).recall w.party r.2.1 r.2.2.2
        (s.countDrop r.2.1 r.2.2.2, a.2 ++ s.homeBytes [11] r.1.okey r.2.1 r.2.2.2)) (s, ([] : List Byte))
    (s, .ok b)

/-! ### Link records (Table 5-2) -/

/-- Kinds of record. -/
inductive LinkKind where
  | same | widen | gather | keyed
  deriving DecidableEq, Repr

/-- Code of a kind. -/
def LinkKind.code : LinkKind → Nat
  | .same => 0
  | .widen => 1
  | .gather => 2
  | .keyed => 3

/-- The 16 bytes of a record. -/
def linkRecord (k : LinkKind) (prio rpc : Nat) (csp cfp : Word) : List Byte :=
  bytesOfNat 16 (prio % 16 * 2 ^ 124 + k.code * 2 ^ 122 + rpc % 2 ^ 57 * 2 ^ 64 + csp.toNat * 2 ^ 32 + cfp.toNat)

/-- A record as a return reads it. -/
structure Link5 where
  prio : Nat
  kind : Nat
  rpc : Nat
  csp : Word
  cfp : Word
  deriving DecidableEq, Repr

/-- Fields of a record. -/
def readLink (b : List Byte) : Link5 :=
  let v := natOfBytes b
  { prio := bits v 127 124, kind := bits v 123 122, rpc := bits v 120 64, csp := BitVec.ofNat 32 (bits v 63 32), cfp := BitVec.ofNat 32 (bits v 31 0) }

/-- Round up to a multiple of 16. -/
def up16 (n : Nat) : Nat := (n + 15) / 16 * 16

/-! ### Callee warps (R87, R89) -/

/-- One callee lane: arguments, idx, frame and floor, widen depth (R92), role. -/
structure CalleeLane where
  args : List Word
  idx : Word
  fp : Word
  floor : Nat
  depth : Nat
  role : Role
  deriving DecidableEq, Repr

/-- Argument registers of a parked caller, in the places its call named (R82, R160). -/
def WarpCore.argRun (w : WarpCore) (l run n : Nat) : List Word := (List.range n).map (fun r => w.held? l (.thread (run + r)))

/-- Start a callee warp in a slot (R87): lanes with their registers, the w registers, trap vector and allocation copied, streams from a seed; with the launch's banks, when they were saved (R81, R102). DESIGN CHOICE (log 29): it holds task record 0, job 0 and help depth 0, whatever the calling warp's are, since R87 names none of them among what it starts with. -/
def State.startCallee (s : State) (core slot launch alloc entry : Nat) (ws : Table Word) (tv : DWord) (seed : Word) (cl : List CalleeLane) : State :=
  let s := (s.placeContext core (s.launch launch).asid).takeBanks core launch
  let (s, gen) := s.takeGen launch (widOf core slot)
  let live : Mask := maskOf (List.range cl.length)
  let w := WarpCore.fresh core slot launch 64 gen alloc live entry seed
  let w := { w with w := ws, trapvec := tv, x := (s.launch launch).tiles }
  let w := cl.zipIdx.foldl (fun w e =>
    let w := e.1.args.zipIdx.foldl (fun w a => w.putLoc e.2 (.thread a.2) a.1) w
    w.modLane e.2 (fun x => { x with idx := e.1.idx, fp := e.1.fp, sp := e.1.fp - 16, floor := e.1.floor, depth := e.1.depth, role := e.1.role, entered := [entry] })) w
  s.startWarp w

/-- Save a warp as R80 does while its slot runs a pass of a call (R89, R99): registers performed, stores published at .dev, monitors moved, its state written into its save slot. Log 29. -/
def State.saveForCall (s : State) (wid call : Nat) : State :=
  let s := ((s.modRun wid WarpCore.drainRegs).boundary wid .dev false).moveMonitors wid
  match s.warps.find? wid with
  | none => s
  | some x =>
    let s := s.saveWarpImage x
    if (s.warps.find? wid).isNone then s
    else { s with warps := s.warps.erase wid, saved := s.saved ++ [{ wid := wid, warp := x, byCall := some call, marked := none }] }

/-- A calling warp may be saved for its call now: it runs, it is not leaving its core, and what its save waits for is done (R80, R89, R99). -/
def State.maySave (s : State) (token : Nat) : Bool :=
  s.runsNow token && !s.evicting.contains (tokenWid token) &&
    (match s.warps.find? (tokenWid token) with | some x => s.saveReady x | none => false)

/-- Put back the warp that was saved for a call, when its slot is free (R89, R99). -/
def State.restoreForCall (s : State) (call : Nat) : State :=
  match s.saved.find? (fun v => decide (v.byCall = some call) && (s.warps.find? v.wid).isNone) with
  | none => s
  | some v =>
    let s := { s with warps := s.warps.insert v.wid v.warp, saved := s.saved.filter (fun x => decide (x ≠ v)) }
    s.refreshWarp v.wid

/-- Where a callee warp of a call of a warp on its core goes: a slot under R69, or the calling warp's own when the warp is saved for this call and its slot is free. -/
def State.calleeSlot (s : State) (core alloc call : Nat) : Option Nat :=
  match s.saved.find? (fun v => decide (v.byCall = some call) && decide (v.wid / 64 = core) && (s.warps.find? v.wid).isNone) with
  | some v => some (v.wid % 64)
  | none => chooseSlot (s.slotsUsed core) alloc

/-- Callee warps of a launch may start on a core (R79 to R81, R102): its context runs, and is not leaving the core, nor kept from it by four others, and its banks have room there. Log 29. -/
def State.calleesMay (s : State) (core launch : Nat) : Bool :=
  let a := (s.launch launch).asid
  let here := (s.warps.filter (fun e => decide (e.1 / 64 = core) && decide ((s.launch e.2.run.launch).asid = a))).map (·.1)
  s.ctxRuns a && s.banksFit core launch && (if here.isEmpty then decide ((s.contextsOn core).length < 4) else here.any (fun x => !s.evicting.contains x))

/-! ### Widen (R87 to R92) -/

/-- Bytes of one caller's result buffer (R88). -/
def widenBuffer (n nres : Nat) : Nat := up16 (4 * 2 ^ n * nres)

/-- Slice of one sub-lane (R88, R92). -/
def widenSlice (n nres sp floor : Nat) (serial : Bool) : Nat :=
  (sp - widenBuffer n nres - floor) / (if serial then 1 else 2 ^ n) / 16 * 16

/-- fp and floor of sub-lane `j` (R88, R92). -/
def widenFrame (n nres sp floor : Nat) (serial : Bool) (j : Nat) : Nat × Nat :=
  let sl := widenSlice n nres sp floor serial
  let fp := sp - widenBuffer n nres - (if serial then 0 else j * sl)
  (fp, fp - sl)

/-- Sub-lanes of a call in order, cut into callee warps (R87, R92). -/
def widenWarps (callers n : Nat) (serial : Bool) : List (List (Nat × Nat)) :=
  let all := ((List.range callers).map (fun c => (List.range (2 ^ n)).map (fun j => (c, j)))).flatten
  if serial then all.map (fun x => [x])
  else (List.range ((all.length + 31) / 32)).map (fun w => (all.drop (32 * w)).take 32)

/-- The record of a caller whose sub-lanes run one at a time, as each of them finds it at its start: an earlier one may have changed it (R92). Log 29. -/
def State.rewriteRecord (s : State) (c : WidenCall) (cw : WarpCore) (x : Nat × Nat × Nat) : State :=
  match cw.entryOf x.1 with
  | none => s
  | some e =>
    let fp := (widenFrame c.n c.nres x.2.1 x.2.2 true 0).1
    (s.callWrite cw ((s.arenaOf cw + fp - 16) % 2 ^ 64) (linkRecord .widen e.prio e.pc (cw.lane x.1).sp (cw.lane x.1).fp)).1

/-- Place the next waiting callee warps of a widen call (R89, R92); `fuel` bounds how many. Log 29. -/
def State.placeWiden : Nat → State → Nat → State
  | 0, s, _ => s
  | fuel + 1, s, id =>
    match s.widens.find? id with
    | none => s
    | some c =>
      match c.waiting, s.tokWarp? c.token with
      | (seed, subs) :: rest, some cw =>
        let running := decide (c.waiting.foldl (fun n x => n + x.2.length) 0 < c.left)
        let core := cw.core
        if (c.serial && running) || !s.calleesMay core c.launch then s
        else
          let start (s : State) (slot : Nat) : State :=
            let lanes := subs.map fun x =>
              let (l, sp, floor) := (c.callers[x.1]?).getD (0, 0, 0)
              let (fp, fl) := widenFrame c.n c.nres sp floor c.serial x.2
              { args := cw.argRun l c.run c.nargs, idx := BitVec.ofNat 32 x.2, fp := BitVec.ofNat 32 fp, floor := fl,
                depth := min 4 ((cw.lane l).depth + 1), role := Role.widen id x.1 x.2 }
            let s := { s with widens := s.widens.insert id { c with waiting := rest } }
            let s := if c.serial then subs.foldl (fun s x => s.rewriteRecord c cw ((c.callers[x.1]?).getD (0, 0, 0))) s else s
            s.startCallee core slot c.launch c.alloc c.entry c.w c.trapvec seed lanes
          match s.calleeSlot core c.alloc id with
          | some slot => (start s slot).placeWiden fuel id
          | none =>
            if running then s
            else if s.maySave c.token then
              let s := s.saveForCall (tokenWid c.token) id
              if (s.widens.find? id).isNone then s else (start s (tokenWid c.token % 64)).placeWiden fuel id
            else s
      | _, _ => s

/-- Node operation of a widen reduction (Table 5-4), for codes 0 to 10. -/
def widenNode (op : Nat) : Word → Word → Word × Flags := (redOp op).1

/-- One caller's result register from its rows (Table 5-4). -/
def widenResult (op n : Nat) (rows : List Word) : Word × Flags :=
  if op = 11 then (rows.headD 0, 0)
  else if op = 12 then (rows.getLastD 0, 0)
  else if op = 13 then pairwiseTree (widenNode 0) n (rows.map (fun x => if x = 0 then 0 else 1))
  else pairwiseTree (widenNode op) n rows

/-- The end of a widen call (R91): every caller's results by the tree, then every caller leaves CALLPARK together. DESIGN CHOICE (log 29): rows of a caller whose page can be read no more count as zero. -/
def State.endWiden (s : State) (id : Nat) (c : WidenCall) : State :=
  let s := s.restoreForCall id
  match s.tokWarp? c.token with
  | none => { s with widens := s.widens.erase id }
  | some cw =>
    let arena := s.arenaOf cw
    let s := c.callers.foldl (fun s x =>
      let (l, sp, _) := x
      let n := 4 * 2 ^ c.n * c.nres
      let (s, rows) := match s.callHome cw ((arena + sp - widenBuffer c.n c.nres) % 2 ^ 64) n with
        | (s, .ok b) => (s, b)
        | (s, .error _) => (s, List.replicate n 0)
      let row (j r : Nat) : Word := BitVec.ofNat 32 (natOfBytes ((rows.drop (4 * (j * c.nres + r))).take 4))
      let res := (List.range c.nres).map (fun r => widenResult c.redop c.n ((List.range (2 ^ c.n)).map (fun j => row j r)))
      s.modTok c.token (fun w => res.zipIdx.foldl (fun w e => (w.putLoc l (.thread (c.run + e.2)) e.1.1).raise e.1.2) w)) s
    let s := s.release c.token (maskOf (c.callers.map (·.1))) .core
    { s with widens := s.widens.erase id }

/-! ### Gather (R93 to R96) -/

/-- The entry's lanes are READY (Table 4-2): an access that waits for its bank is an instruction that has not issued (log 52). -/
def Entry.countsReady (e : Entry) : Bool :=
  e.isReady || (match e.state with | .wait _ t => t.kind.isAccess | _ => false)

/-- A lane of the warp counts as READY (R94): a READY entry, a handler, or a fault still due. -/
def WarpCore.anyReady (w : WarpCore) : Bool := w.frontier.any Entry.countsReady || w.handler.isSome || !w.due.isEmpty

/-- Warps of a launch, resident or not, with their help frames. -/
def State.warpsOfLaunch (s : State) (launch : Nat) : List WarpCore :=
  (((s.warps.map (fun e => e.2)) ++ s.saved.map (·.warp)).map (fun w => w.run :: w.help)).flatten.filter (fun w => decide (w.launch = launch))

/-- No live lane of a scope instance is READY (R94 b). Log 29. -/
def State.idleInstance (s : State) (launch : Nat) (core : Option Nat) (warp : Option Nat) : Bool :=
  !((s.warpsOfLaunch launch).any (fun w =>
    (match core with | some c => decide (w.core = c) | none => true) &&
    (match warp with | some t => decide (w.token = t) | none => true) && w.anyReady))

/-- Order of callers: warp slot, then lane (R93). -/
def callerBefore (a b : Caller) : Bool :=
  decide (tokenWid a.token < tokenWid b.token) || (decide (tokenWid a.token = tokenWid b.token) && decide (a.lane ≤ b.lane))

/-- Insert a caller in order. -/
def insertCaller (c : Caller) : List Caller → List Caller
  | [] => [c]
  | x :: r => if callerBefore c x then c :: x :: r else x :: insertCaller c r

/-- A fault joins those of the same instruction, which form one sub-warp with the lowest lane's cause (R381). -/
def addDue (c : Issue) (t : Trap) : List (Issue × Trap) → List (Issue × Trap)
  | [] => [(c, t)]
  | d :: r =>
    if d.1.pc = c.pc ∧ d.1.prio = c.prio then
      ({ c with lanes := d.1.lanes ||| c.lanes }, if lowest c.lanes < lowest d.1.lanes then t else d.2) :: r
    else d :: addDue c t r

/-- A fault found after a caller parked (R95, R98, R99): it leaves CALLPARK as that fault, taken when its warp runs. Log 29. -/
def State.failCaller (s : State) (c : Caller) (t : Trap) : State :=
  s.modTok c.token (fun w => { w with due := addDue { c.at_ with lanes := laneBit c.lane } t w.due })

/-- Frame sizes of a gather call (R95): argument part, result part, whole. -/
def GatherGroup.sizes (g : GatherGroup) : Nat × Nat × Nat :=
  let a := up16 (4 * g.callers.length * g.nargs)
  let e := up16 (4 * g.callers.length * g.nres)
  (a, e, 16 + a + e)

/-- Bytes of the host's frame (R95). -/
def State.gatherFrame (s : State) (g : GatherGroup) : List Byte :=
  let (a, e, _) := g.sizes
  let args := (g.callers.map (fun c => match s.tokWarp? c.token with
    | some w => ((w.argRun c.lane c.run g.nargs).map (fun x => bytesOfNat 4 x.toNat)).flatten
    | none => List.replicate (4 * g.nargs) 0)).flatten
  bytesOfNat 4 g.callers.length ++ List.replicate 12 0 ++ args ++ List.replicate (a - args.length) 0 ++ List.replicate e 0

/-- Start the host of a closed group (R95), when a warp of it is running. -/
def State.beginGather (s : State) (id : Nat) (g : GatherGroup) : State :=
  match g.callers.find? (fun c => s.runsNow c.token) with
  | none => s
  | some h =>
    match s.tokWarp? h.token with
    | none => s
    | some w =>
      let ln := w.lane h.lane
      let (_, _, z) := g.sizes
      let sp := ln.sp.toNat
      let fail (s : State) (t : Trap) : State :=
        let s := g.callers.foldl (fun s c => s.failCaller c t) s
        { s with gathers := s.gathers.erase id }
      if sp < ln.floor + z + 16 then fail s (trapAt .frameOverflow ((sp + 2 ^ 32 - z - 16) % 2 ^ 32))
      else
        let fp := sp - z
        let arena := s.arenaOf w
        match w.entryOf h.lane with
        | none => s
        | some e =>
          let rec_ := linkRecord .gather e.prio e.pc ln.sp ln.fp
          match s.callWrite w ((arena + fp - 16) % 2 ^ 64) (rec_ ++ s.gatherFrame g) with
          | (s, some t) => fail s t
          | (s, none) =>
            let s := s.modTok h.token (fun w =>
              (w.modLane h.lane (fun x => { x with fp := BitVec.ofNat 32 fp, sp := BitVec.ofNat 32 (fp - 16), hosts := id :: x.hosts, entered := g.entry :: x.entered })).place
                (laneBit h.lane) 0 g.entry .ready)
            { s with gathers := s.gathers.insert id { g with begun := true, host := some (h.token, h.lane), frame := fp } }

/-- Callers of a group leave CALLPARK; the host is not among them (R96). The boundaries of all their warps come before any of them is refreshed (R218). -/
def State.releaseGather (s : State) (id : Nat) (g : GatherGroup) (host : Option (Nat × Nat)) : State :=
  let tokens := (g.callers.map (·.token)).eraseDups
  let s := tokens.foldl (fun s t => s.boundaryTok t .core false) s
  let s := tokens.foldl (fun s t =>
    let ls := (g.callers.filter (fun c => decide (c.token = t) && decide (host ≠ some (c.token, c.lane)))).map (·.lane)
    s.release t (maskOf ls) .core) s
  { s with gathers := s.gathers.erase id }

/-- Each caller's result run from its row of the array (R96): `rows` from the host's frame. -/
def State.giveRows (s : State) (g : GatherGroup) (rows : List Byte) : State :=
  g.callers.zipIdx.foldl (fun s e =>
    s.modTok e.1.token (fun w => (List.range g.nres).foldl (fun w r =>
      w.putLoc e.1.lane (.thread (e.1.run + r)) (BitVec.ofNat 32 (natOfBytes ((rows.drop (4 * (e.2 * g.nres + r))).take 4)))) w)) s

/-- A host that exited (R96): a boundary for the callers' warps, then the other callers return as at RETW, with the rows as they stand. DESIGN CHOICE (log 29): rows that can be read no more give zeros. -/
def State.abandonGather (s : State) (id : Nat) (g : GatherGroup) : State :=
  let (a, _, _) := g.sizes
  let s := ((g.callers.map (·.token)).eraseDups).foldl (fun s t => s.boundaryTok t .core false) s
  match (g.callers.filterMap (fun c => s.tokWarp? c.token)).head? with
  | none => { s with gathers := s.gathers.erase id }
  | some w =>
    let (s, rows) := match s.callHome w ((s.arenaOf w + g.frame + 16 + a) % 2 ^ 64) (4 * g.callers.length * g.nres) with
      | (s, .ok b) => (s, b)
      | (s, .error _) => (s, [])
    (s.giveRows g rows).releaseGather id g none

/-- Gather groups after a change (R94, R95, R96): close those that are full or whose instance is idle, start hosts, release groups whose host has left. `s0` is the state before any call of this clock fired: every group is judged by it, so that two that wait on each other fire together (Table 5-6). Log 29. -/
def State.settleGather (s0 s : State) (id : Nat) : State :=
  match s.gathers.find? id with
  | none => s
  | some g =>
    if g.begun then
      match g.host with
      | some _ => s
      | none => s.abandonGather id g
    else
    let g := { g with callers := g.callers.filter (fun c => (s.tokWarp? c.token).isSome) }
    if g.callers.isEmpty then { s with gathers := s.gathers.erase id }
    else if g.fired then s.beginGather id g
    else if g.size ≤ g.callers.length ∨ s0.idleInstance g.launch (some g.core) g.warp then
      let rest := g.callers.drop g.size
      let g' := { g with callers := g.callers.take g.size, fired := true }
      let s := { s with gathers := s.gathers.insert id g' }
      let s := if rest.isEmpty then s else { s with gathers := s.gathers.insert (s.gathers.fresh 0) { g with callers := rest } }
      s.beginGather id g'
    else s

/-! ### Keyed (R98 to R101) -/

/-- Add 1 to a key's completion word (R101): an atomic at core scope, or a frame of the Fold Unit when the bank is not SPAD (R414). -/
def State.raiseKey (s : State) (launch core off key token : Nat) : State :=
  match s.spadByte core launch (off + 4 * key) with
  | some k => (s.atomicAt { wid := none, core := some core, engine := true } (.core core) .core 0 k 4 0 1 0).1
  | none =>
    s.queueFrame (s.launch launch).asid (some launch)
      { Frame.queued_ .engineFault 7 with token := token, faddr := off + 4 * key } 0

/-- Callers of one core of a collection: form records, group by key, queue callee warps with what they take from the core's first origin warp, and raise the words of empty keys (R98, R99, R101). Log 29. -/
def State.closeCore (s : State) (id core : Nat) (c : Keyed) : State :=
  let mine := c.callers.filter (fun x => decide (tokenWid x.token / 64 = core))
  match mine with
  | [] => s
  | first :: _ =>
    let off := first.off
    let spad := (s.launch c.launch).spad
    if off % 4 ≠ 0 ∨ spad < off + 4 * c.keys then
      let t := trapAt .spadBounds (if off % 4 ≠ 0 then off else max off spad)
      mine.foldl (fun s x => s.failCaller x t) s
    else
      let (s, good) := mine.foldl (fun a x =>
        let (s, good) := a
        match s.tokWarp? x.token with
        | none => (s, good)
        | some w =>
          let ln := w.lane x.lane
          let sp := ln.sp.toNat
          if sp < ln.floor + 16 then (s.failCaller x (trapAt .frameOverflow ((sp + 2 ^ 32 - 16) % 2 ^ 32)), good)
          else
            match w.entryOf x.lane with
            | none => (s, good)
            | some e =>
              match s.callWrite w ((s.arenaOf w + sp - 16) % 2 ^ 64) (linkRecord .keyed e.prio e.pc ln.sp ln.fp) with
              | (s, some t) => (s.failCaller x t, good)
              | (s, none) => (s, good ++ [x])) (s, [])
      let origin := s.tokWarp? (good.headD first).token
      let seed := match origin with | some w => w.srng | none => 1
      let groups := ((List.range c.keys).map (fun k => (k, good.filter (fun x => decide (x.key = k)))))
      let warps := ((groups.map (fun g => (List.range ((g.2.length + 31) / 32)).map (fun i => (g.1, (g.2.drop (32 * i)).take 32)))).flatten)
      let alloc := match origin with | some w => w.alloc | none => 0
      let uni := match origin with | some w => w.w | none => []
      let tv := match origin with | some w => w.trapvec | none => 0
      let queue : List KeyedWarp := warps.zipIdx.map fun e =>
        { core := core, key := e.1.1, seed := seed + BitVec.ofNat 32 (e.2 + 1), lanes := e.1.2, alloc := alloc, w := uni, trapvec := tv }
      let left := (groups.filter (fun g => !g.2.isEmpty)).map (fun g => (core, g.1, g.2.length))
      let s := { s with keyeds := s.keyeds.modify id (fun k => { k with
        waiting := k.waiting ++ queue, left := k.left ++ left, arrays := k.arrays ++ [(core, off)] }) }
      (groups.filter (fun g => g.2.isEmpty)).foldl (fun s g => s.raiseKey c.launch core off g.1 first.token) s

/-- A caller of a collection is still parked at its call: no result and no fault has taken it from there. -/
def State.stillParked (s : State) (c : Caller) : Bool :=
  match s.tokWarp? c.token with
  | some w => (match w.entryOf c.lane with | some e => decide (e.state = .callpark) | none => false) && !w.due.any (fun d => hasLane d.1.lanes c.lane)
  | none => false

/-- The lowest-slot caller warp of a collection on a core, whose slot its callee warps may use (R99). -/
def State.lowestCaller (s : State) (core : Nat) (c : Keyed) : Option Nat :=
  (c.callers.find? (fun o => decide (tokenWid o.token / 64 = core) && s.runsNow o.token && s.stillParked o)).map (·.token)

/-- Place waiting callee warps of a collection (R99); `fuel` bounds how many. When none fits, the lowest-slot caller warp is saved, once it may be. Log 29. -/
def State.placeKeyed : Nat → State → Nat → State
  | 0, s, _ => s
  | fuel + 1, s, id =>
    match s.keyeds.find? id with
    | none => s
    | some c =>
      -- the first waiting warp of each core in turn
      let runsOn (core : Nat) : Bool := c.left.any (fun e => decide (e.1 = core)) &&
        s.warps.any (fun v => decide (v.1 / 64 = core) && v.2.run.lanes.any (fun l => match l.role with | .keyed k _ _ => decide (k = id) | _ => false))
      match c.waiting.find? (fun x => s.calleesMay x.core c.launch &&
          ((s.calleeSlot x.core x.alloc (2 ^ 32 + id)).isSome ||
            (!runsOn x.core && (match s.lowestCaller x.core c with | some t => s.maySave t | none => false)))) with
      | none => s
      | some x =>
        let rest := c.waiting.filter (fun y => decide (y ≠ x))
        let start (s : State) (slot : Nat) : State :=
          let lanes := x.lanes.map fun o =>
            match s.tokWarp? o.token with
            | some w =>
              let ln := w.lane o.lane
              { args := w.argRun o.lane o.run c.nargs, idx := BitVec.ofNat 32 x.key, fp := ln.sp, floor := ln.floor, depth := ln.depth, role := Role.keyed id o.token o.lane }
            | none => { args := [], idx := BitVec.ofNat 32 x.key, fp := 0, floor := 0, depth := 0, role := Role.keyed id o.token o.lane }
          let s := { s with keyeds := s.keyeds.insert id { c with waiting := rest } }
          s.startCallee x.core slot c.launch x.alloc c.entry x.w x.trapvec x.seed lanes
        match s.calleeSlot x.core x.alloc (2 ^ 32 + id) with
        | some slot => (start s slot).placeKeyed fuel id
        | none =>
          match s.lowestCaller x.core c with
          | some t =>
            let s := s.saveForCall (tokenWid t) (2 ^ 32 + id)
            if (s.keyeds.find? id).isNone then s else (start s (tokenWid t % 64)).placeKeyed fuel id
          | none => s

/-- A keyed collection after a change: close it when its instance is idle (R98), place its callee warps (R99), raise the words of keys whose last callee lane has ended (R101), put back the warp it saved, and forget it at its end. `s0` is the state before any call of this clock fired. -/
def State.settleKeyed (s0 s : State) (id : Nat) : State :=
  match s.keyeds.find? id with
  | none => s
  | some c =>
    let s := if c.closed then s
      else if s0.idleInstance c.launch c.core none then
        let c := { c with callers := c.callers.filter (fun x => (s.tokWarp? x.token).isSome), closed := true }
        let s := { s with keyeds := s.keyeds.insert id c }
        ((c.callers.map (fun x => tokenWid x.token / 64)).eraseDups).foldl (fun s core => s.closeCore id core c) s
      else s
    let s := s.placeKeyed 4096 id
    match s.keyeds.find? id with
    | none => s
    | some c =>
      if !c.closed then s
      else
        let done := c.left.filter (fun e => decide (e.2.2 = 0))
        let s := done.foldl (fun s e =>
          match c.arrays.find? (fun a => decide (a.1 = e.1)), c.callers.find? (fun x => decide (tokenWid x.token / 64 = e.1)) with
          | some a, some x => s.raiseKey c.launch e.1 a.2 e.2.1 x.token
          | _, _ => s) s
        let c := { c with left := c.left.filter (fun e => decide (e.2.2 ≠ 0)) }
        if c.left.isEmpty && c.waiting.isEmpty then
          let s := { s with keyeds := s.keyeds.erase id }
          ((s.saved.filter (fun v => decide (v.byCall = some (2 ^ 32 + id)))).foldl (fun s _ => s.restoreForCall (2 ^ 32 + id)) s)
        else { s with keyeds := s.keyeds.insert id c }

/-- Take the faults that became due while lanes were parked, in warps that run (R95, R98, R99). -/
def State.takeDue (s : State) : State :=
  (s.warps.filter (fun e => !e.2.run.due.isEmpty)).foldl (fun s e =>
    let due := e.2.run.due
    let s := s.modRun e.1 (fun w => { w with due := [] })
    due.foldl (fun s d => s.takeTrap d.1 d.1.lanes d.2) s) s

/-- Gather groups, round after round: callers beyond a group's size form groups that may fire in the same clock (R94). -/
def State.settleGathers (s0 : State) : Nat → State → State
  | 0, s => s
  | n + 1, s => if s.gathers.isEmpty then s else s0.settleGathers n (s.gathers.foldl (fun s e => State.settleGather s0 s e.1) s)

/-- Every call after a change (chapter 5): widen calls, then gather groups and keyed collections, all judged by the state before any of these fires (R94, R98). -/
def State.settleCalls (s : State) : State :=
  let s := s.widens.foldl (fun s e =>
    let s := s.placeWiden (2 ^ 15) e.1
    match s.widens.find? e.1 with
    | some c => if c.left = 0 then s.endWiden e.1 c else s
    | none => s) s
  let s0 := s
  let s := s0.settleGathers (1 + s.gathers.foldl (fun n e => n + e.2.callers.length) 0) s
  let s := s.keyeds.foldl (fun s e => State.settleKeyed s0 s e.1) s
  s.takeDue

end Sys2Proof.Machine
end

