-- ==== Sys2Proof/Machine/Deliver.lean ====
section
/-! DEFINITION. The completion of a wait at its warp (R12, R220, R229): values and code into its registers, its boundary (Table 11-2), its lanes READY. Each kind of wait has its own run of registers. -/

namespace Sys2Proof.Machine

/-- The code says that what was waited for came about: OK_NOW or OK_WOKEN (R220). -/
def codeOk (code : Nat) : Bool := decide (code ≤ 1)

/-- What a completed wait writes from the place of vD on: register offset and value, the same in each lane. -/
def Wait.results (t : Wait) (code : Nat) : List (Nat × Word) :=
  let c := BitVec.ofNat 32 code
  let pair := if codeOk code then [(0, loWord t.val), (1, hiWord t.val)] else []
  match t.kind with
  | .future _ _ => pair ++ [(2, c)]
  | .qtake _ _ i => pair ++ [(2, c), (3, BitVec.ofNat 32 i)]
  | .qput _ _ i _ _ _ => [(0, BitVec.ofNat 32 i), (1, if codeOk code then 1 else c)]
  | .fifo _ false => (if codeOk code then [(0, loWord t.val)] else []) ++ [(1, c)]
  | _ => [(0, c)]

/-- The bytes and offset that a QPUT writes into its entry of 16 bytes (R265): VALUE and STATE FULL, or PRODUCER and STATE PROMISED. -/
def queueBytes (low value state : Nat) : List Byte :=
  if state = 2 then bytesOfNat 8 (bits value 56 5 * 32 + 2) else bytesOfNat 8 (low / 4 * 4 + state) ++ bytesOfNat 8 value

/-- A QPUT writes its entry, as a plain store of its lane (R205, R265), ordered with the warp's entries of the same queue (R217). -/
def State.putEntry (s : State) (c : Issue) (queue : Option Nat) (l va okey pa low value state : Nat) : State :=
  let b := queueBytes low value state
  s.bufferStore c.wid { storeOf c l va pa b.length (natOfBytes b) okey false with queue := queue }

/-- A QPUT whose wait ended well writes its entry, which the boundary of its completion publishes (R265): the state, and the code it ends with, 3 when the entry can be reached no more. -/
def State.putAfterWait (s : State) (w : WarpCore) (m : Mask) (t : Wait) (code : Nat) : State × Nat :=
  match t.kind with
  | .qput _ va _ value state c =>
    if codeOk code then
      match s.translate w.party (s.asidOf w) (s.warpWorld w) .store va with
      | (s, .ok (leaf, pa)) =>
        let (s, b) := s.devBytes w.wid [va] leaf.okey pa 8
        (s.putEntry c none (lowest m) va leaf.okey pa (natOfBytes b) value state, code)
      | (s, .error _) => (s, 3)
    else (s, code)
  | _ => (s, code)

/-- Scope of the boundary at which a wait completes (Table 11-2). -/
def Wait.scope (t : Wait) : Scope := if t.core then .core else .dev

/-- A wait of some lanes of a resident warp completes with a code (R220). Its result is an outstanding register write from here on; the warp is held for it when the waiting instruction bore the switch marker (R40). Log 48, 54. -/
def State.finishWait (s : State) (wid : Nat) (m : Mask) (t : Wait) (code : Nat) : State :=
  match s.warp? wid with
  | none => s
  | some w =>
    let (s, code) := s.putAfterWait w m t code
    let s := s.modRun wid fun w =>
      ((t.results code).foldl (fun w e => WarpCore.writeLanes s w (t.dst.plus e.1) ((lanesOf m).map (fun l => (l, e.2)))) (if t.sw then { w with held := true } else w)).wake m
    s.boundary wid t.scope true

end Sys2Proof.Machine
end

