-- ==== Sys2Proof/Machine/Engine.lean ====
section
/-! DEFINITION. What the engines share: reads and writes of global memory and of scratchpad on a warp's behalf (R14, R167, R213, R214), sync-word arrivals (R277, R414), queued frames of ENGINE_FAULT (R386), and the release of a Press held slot (R275, R301). -/

namespace Sys2Proof

/-- A saved Press image after its cells, as one number: the manual gives its parts and their sizes but no layout within them (Table 16-6). Log 12. -/
opaque Config.imageTail (p : Machine.Press) : Nat

end Sys2Proof

namespace Sys2Proof.Machine

/-! ### Dropped data (R183) -/

/-- An engine read bytes of which an uncorrectable error struck one: the issuing warp's `ctl.drop` is set, and the error counted. -/
def State.engineDrop (s : State) (token k n : Nat) : State :=
  if s.struck k n then (s.modTok token (fun w => w.markDrop true)).countDrop k n else s

/-- Read the pieces of an access (R213): writes published at .dev, from the floor of the command's issue on, by the engine of a party (R203, R209). The lines take their page's class (R14). `tag` tells the reads of one command apart. -/
def State.readPieces (s : State) (by_ : Party) (token : Nat) (since : Since) (tag : Nat) (ps : List Piece) : State × List Byte :=
  ps.foldl (fun a p =>
    let s := (a.1.touch by_ p.pa p.len).fillSpan p.leaf p.pa p.len
    ((s.engineDrop token p.pa p.len), a.2 ++ s.engineBytes .dev since [tag] p.leaf.okey p.pa p.len)) (s, [])

/-- Write the pieces of an access, as one write of each location (R214); the lines take their page's class (R14). -/
def State.writePieces (s : State) (core : Option Nat) (data : List Byte) (ps : List Piece) : State :=
  ps.foldl (fun s p => (s.fillSpan p.leaf p.pa p.len).engineWrite core p.leaf.okey p.pa ((data.drop p.off).take p.len)) s

/-! ### The CP's and the Hamper's own reads and writes (R366, R374) -/

/-- Read bytes at the home through a context's page tables, over page bounds; none when a page fails. -/
def State.homeRead (s : State) (asid va n : Nat) : State × Option Nat :=
  match s.pieces .dev asid .load va n with
  | (s, .error _) => (s, none)
  | (s, .ok ps) =>
    let (s, b) := ps.foldl (fun a p =>
      let s := ((a.1.touch .dev p.pa p.len).recall .dev p.pa p.len).fillSpan p.leaf p.pa p.len
      (s.countDrop p.pa p.len, a.2 ++ s.homeBytes [36, va] p.leaf.okey p.pa p.len)) (s, ([] : List Byte))
    (s, some (natOfBytes b))

/-- Write bytes through a context's page tables at a scope, published with all that precedes; none of them when a page fails, and whether it succeeded. -/
def State.cpWrite (s : State) (asid : Nat) (sc : Scope) (va : Nat) (data : List Byte) : State × Bool :=
  match s.pieces .dev asid .store va data.length with
  | (s, .ok ps) => (ps.foldl (fun s p => (s.fillSpan p.leaf p.pa p.len).homeWrite { wid := none, core := none } sc none p.leaf.okey p.pa ((data.drop p.off).take p.len)) s, true)
  | (s, .error _) => (s, false)

/-- Write bytes through a context's page tables as a module-wide engine; nothing where a page fails. -/
def State.homePut (s : State) (asid va : Nat) (data : List Byte) : State := (s.cpWrite asid .dev va data).1

/-! ### Scratchpad on a warp's behalf (R167) -/

/-- Keys of scratchpad bytes by their offsets, or the first offset that fails. -/
def State.spadKeys (s : State) (core launch : Nat) : List Nat → Except Nat (List Nat)
  | [] => .ok []
  | o :: r =>
    match s.spadByte core launch o, s.spadKeys core launch r with
    | none, _ => .error o
    | some _, .error e => .error e
    | some k, .ok l => .ok (k :: l)

/-- Runs of consecutive keys: first key and length. -/
def keyRuns (ks : List Nat) : List (Nat × Nat) :=
  (ks.foldl (fun acc k =>
    match acc with
    | (b, n) :: r => if k = b + n then (b, n + 1) :: r else (k, 1) :: (b, n) :: r
    | [] => [(k, 1)]) []).reverse

/-- Read scratchpad bytes as the BTE, Press or Seam does for a command (R213). Log 23. -/
def State.readKeys (s : State) (core token : Nat) (since : Since) (tag : Nat) (ks : List Nat) : State × List Byte :=
  (keyRuns ks).foldl (fun a r =>
    let s := a.1.touch (.core core) r.1 r.2
    (s.engineDrop token r.1 r.2, a.2 ++ s.engineBytes (.core core) since [tag] 0 r.1 r.2)) (s, [])

/-- Write scratchpad bytes as an engine (R214). -/
def State.writeKeys (s : State) (core : Nat) (ks : List Nat) (data : List Byte) : State :=
  ((keyRuns ks).foldl (fun a r => (a.1.engineWrite (some core) 0 r.1 (a.2.take r.2), a.2.drop r.2)) (s, data)).1

/-! ### Frames (R386) -/

/-- An engine's fault after acceptance goes to the fault queue with the issuing warp's token (R276, R309, R356, R386). -/
def State.engineFrame (s : State) (launch token subcode faddr : Nat) : State :=
  s.queueFrame (s.launch launch).asid (some launch) { Frame.queued_ .engineFault subcode with token := token, faddr := faddr } 0

/-! ### Sync words (R277) -/

/-- Why an offset names no sync word now (R276, R414): the failing offset. -/
def State.syncFail (s : State) (core launch off : Nat) : Option Nat :=
  if off % 16 ≠ 0 then some off else s.spadFail core launch off 16

/-- A command names a sync word, or an arrival reaches it: from now on a wave's store into it spoils it (R277). Log 33. -/
def State.noteSync (s : State) (k : Nat) : State := if s.syncs.contains k then s else { s with syncs := k :: s.syncs }

/-- A command that names a sync word is accepted (R277). Log 33. -/
def State.nameSync (s : State) (core launch off : Nat) : State :=
  match s.syncFail core launch off, s.spadByte core launch off with
  | none, some k => s.noteSync k
  | _, _ => s

/-- COUNT and GEN after an arrival of `n` units (R277). -/
def syncStep (target count gen n : Nat) : Nat × Nat :=
  let c := (count + n) % 2 ^ 32
  if target = 0 then (c, gen) else (c % target, (gen + c / target) % 2 ^ 32)

/-- An arrival of `n` units at a sync word (R277), or the failing offset, with nothing changed (R414). Log 33. -/
def State.syncArrive (s : State) (core launch off n : Nat) : State × Option Nat :=
  match s.syncFail core launch off, s.spadByte core launch off with
  | some o, _ => (s, some o)
  | none, none => (s, some off)
  | none, some k =>
    let s := (s.noteSync k).touch (.core core) k 12
    let v := natOfBytes (s.homeBytes [20] 0 k 12)
    let (c, g) := syncStep (bits v 31 0) (bits v 63 32) (bits v 95 64) n
    (s.engineWrite (some core) 0 (k + 4) (bytesOfNat 4 c ++ bytesOfNat 4 g), none)

/-! ### Held slots (R275, R301) -/

/-- Give numbers, in order, to the commands of a warp that follow a released one up to its next held one (R301). -/
def numberFollowing (token : Nat) : Nat → List PressCmd → Nat × List PressCmd × List PressCmd
  | n, [] => (n, [], [])
  | n, c :: r =>
    if c.token ≠ token ∨ c.num.isSome then
      let (n', kept, now) := numberFollowing token n r
      (n', c :: kept, now)
    else if c.held.isSome then (n, c :: r, [])
    else
      let m := (n + 1) % 2 ^ 32
      let (n', kept, now) := numberFollowing token m r
      (n', kept, { c with num := some m } :: now)

/-- Note the number last given to a warp's command. -/
def Press.note (p : Press) (slot num : Nat) : Press := { p with last := Map.set 0 p.last slot (BitVec.ofNat 32 num) }

/-- Release a held slot (R13, R275, R301): its command, and the warp's blocked commands behind it, are numbered in order; one that an earlier command of its warp has still to come before becomes a blocked command itself. None when the slot is empty. -/
def Press.release (p : Press) (h pos : Nat) : Option Press :=
  match p.queue.find? (fun c => decide (c.held = some h)) with
  | none => none
  | some c =>
    let before := p.queue.takeWhile (fun x => decide (x.held ≠ some h))
    let after := (p.queue.dropWhile (fun x => decide (x.held ≠ some h))).drop 1
    if before.any (fun x => decide (x.token = c.token) && x.num.isNone) then
      some { p with queue := before ++ { c with held := none, follow := pos } :: after }
    else
      let n := (p.issued.toNat + 1) % 2 ^ 32
      let (n', kept, now) := numberFollowing c.token n after
      let all := { c with num := some n, held := none, follow := pos } :: now
      let p := { p with queue := before ++ all ++ kept, issued := BitVec.ofNat 32 n' }
      some (all.foldl (fun p x => p.note x.slot (x.num.getD 0)) p)

/-! ### Saved Press images (R310, Table 16-6) -/

/-- What an image holds besides its cells. -/
def Press.body (p : Press) : Press := { p with acc := [], owner := none }

/-- Bytes of an image (Table 16-6): the cells, 12 bytes each, and the rest in a layout that the manual leaves open. Log 12. -/
def Press.image (p : Press) : List Byte :=
  ((List.range Config.accCells).map (fun i => bytesOfNat 12 (Map.get 0 p.acc i).toNat)).flatten ++
    bytesOfNat (imageBytes - 12 * Config.accCells) (Config.imageTail p.body)

/-- An image stands in memory, with its part behind the cells at a physical address. Those that stood there before stay known: their bytes may have been copied elsewhere (R325). -/
def State.noteImage (s : State) (pa : Nat) (p : Press) : State :=
  { s with images := (pa, p.body) :: s.images.filter (fun e => decide (e ≠ (pa, p.body))) }

/-- Physical address of the byte at an offset of some pieces. -/
def piecesAt (ps : List Piece) (off : Nat) : Nat :=
  match ps.find? (fun p => decide (p.off ≤ off) && decide (off < p.off + p.len)) with
  | some p => p.pa + (off - p.off)
  | none => 0

/-- Hardware writes bytes into the save region (R390), and answers the pieces it wrote: a page that cannot be written ends the context. -/
def State.saveData (s : State) (asid va : Nat) (data : List Byte) : State × Option (List Piece) :=
  match s.pieces .dev asid .store va data.length with
  | (s, .ok ps) => (ps.foldl (fun s x => (s.fillSpan x.leaf x.pa x.len).homeWrite { wid := none, core := none } .dev none x.leaf.okey x.pa ((data.drop x.off).take x.len)) s, some ps)
  | (s, .error (_, a)) => (s.endContext asid a, none)

/-- Hardware saves the Press context of a launch of a core into the save region (R310). -/
def State.putImage (s : State) (asid core : Nat) (p : Press) : State :=
  match s.saveData asid (s.coreArea asid core + 0xC0000) p.image with
  | (s, some ps) => s.noteImage (piecesAt ps (12 * Config.accCells)) p
  | (s, none) => s

/-- Hardware saves a local bank at its place in the core's area of the save region (Table 24-3, R391). Where the entries of a FIFO bank lie in it the manual leaves open (log 12). -/
def State.putBank (s : State) (asid core b : Nat) : State :=
  let va := s.coreArea asid core + 0x10000 * b
  if (s.bank core b).mode = .fifo then s.saveBytes asid va 0x10000
  else (s.saveData asid va (s.homeBytes [49] 0 (spadKey core b 0) 0x10000)).1

/-- Hardware saves the templates of a launch on a core, 32 bytes each, and after them its channel status, bank modes and FIFO counts, in a layout that the manual leaves open (Table 24-3, log 12). -/
def State.putTemplates (s : State) (asid core launch va : Nat) : State :=
  let t : Table (BitVec 256) := ((s.core core).templates.find? launch).getD (s.launch launch).tpls
  (s.saveData asid va ((List.range 64).map (fun i => bytesOfNat 32 (Map.get 0 t i).toNat)).flatten).1.saveBytes asid (va + 0x800) 0x800

/-- The BTE releases a held slot of a launch's Press on a core (R275), in its saved image when the context is saved (R292). The flag says that the slot was empty. -/
def State.releaseHeld (s : State) (core launch h : Nat) : State × Bool :=
  let k := s.core core
  if k.press.owner = some launch then
    match k.press.release h s.seq with
    | some p => (s.modCore core (fun x => { x with press := p }), false)
    | none => (s, true)
  else
    match (k.pressSaved.find? launch).bind (fun p => p.release h s.seq) with
    | some p => ((s.modCore core (fun x => { x with pressSaved := x.pressSaved.insert launch p })).putImage (s.launch launch).asid core p, false)
    | none => (s, true)

end Sys2Proof.Machine
end

