-- ==== Sys2Proof/Machine/Functions.lean ====
section
/-! DEFINITION. The single-operand FP32 functions (R126, Table 6-5), and the epilogue's functions share them. Quotients and roots are exact to a last odd bit; 2^x, log2, sin and cos are fixed-point series of 256 to 512 fraction bits whose last bit is made odd, since the exact result is irrational (log 11). -/

namespace Sys2Proof.Machine

/-- A truncated positive result: when something was cut off, append an odd bit. -/
def oddBit (neg : Bool) (m : Nat) (e : Int) (cut : Bool) : FVal :=
  if cut then .fin neg (2 * m + 1) (e - 1) else .fin neg m e

/-- Integer square root by bits: `r` is the root so far, `b` the next bit, `fuel` bits left. -/
def isqrtBits (n : Nat) : Nat → Nat → Nat
  | 0, r => r
  | b + 1, r =>
    let c := r + 2 ^ b
    if c * c ≤ n then isqrtBits n b c else isqrtBits n b r

/-- floor of the square root. -/
def isqrt (n : Nat) : Nat := isqrtBits n (bitLength n / 2 + 1) 0

/-- 1/x of a nonzero finite magnitude. Log 11. -/
def recipVal (neg : Bool) (m : Nat) (e : Int) : FVal :=
  let k := bitLength m + 128
  oddBit neg (2 ^ k / m) (-e - (k : Int)) (decide (2 ^ k % m ≠ 0))

/-- The square root of m · 2^e. Log 11. -/
def sqrtVal (m : Nat) (e : Int) : FVal :=
  let (m, e) : Nat × Int := if e % 2 = 0 then (m, e) else (2 * m, e - 1)
  let n := m * 2 ^ 256
  let r := isqrt n
  oddBit false r (e / 2 - 128) (decide (r * r ≠ n))

/-- The reciprocal square root of m · 2^e. Log 11. -/
def rsqrtVal (m : Nat) (e : Int) : FVal :=
  let (m, e) : Nat × Int := if e % 2 = 0 then (m, e) else (2 * m, e - 1)
  let k := 2 * (bitLength m + 128)
  let n := 2 ^ k / m
  let r := isqrt n
  oddBit false r (-(e / 2) - ((k / 2 : Nat) : Int)) (decide (r * r * m ≠ 2 ^ k))

/-- Sum over odd j ≤ 2·fuel - 1 of z^j / j in fixed point with 2^n units, `p` the current power: signs alternate when `alt`. Log 11. -/
def oddSeries (alt : Bool) (one z2 : Nat) : Nat → Nat → Int → Int → Int
  | 0, _, _, acc => acc
  | fuel + 1, j, p, acc =>
    oddSeries alt one z2 fuel (j + 2) (let q := p * z2 / one; if alt then -q else q) (acc + p / j)

/-- atan(1/n) in units of 2^-`w`. -/
def atanInv (w n : Nat) : Int := oddSeries true (n * n) 1 (w / 2) 1 ((2 ^ w / n : Nat) : Int) 0

/-- ln of a ratio a/b in [1, 2] in units of 2^-`w`: twice the area tangent of (a - b)/(a + b). -/
def lnRatio (w a b : Nat) : Int :=
  let z := (a - b) * 2 ^ w / (a + b)
  2 * oddSeries false (2 ^ w) (z * z / 2 ^ w) (w / 2) 1 (z : Int) 0

/-- ln 2 in units of 2^-`w`. -/
def ln2 (w : Nat) : Int := lnRatio w 2 1

/-- Half of pi in units of 2^-`w` (Machin). -/
def halfPi (w : Nat) : Int := 8 * atanInv w 5 - 2 * atanInv w 239

/-- Terms t·x^k/k! from a first term, step `s` in k, signs alternating when `alt`, in units of 2^-`w`. Log 11. -/
def powerSeries (w : Nat) (alt : Bool) (x s : Nat) : Nat → Nat → Int → Int → Int
  | 0, _, _, acc => acc
  | fuel + 1, k, t, acc =>
    let q : Int := if s = 1 then t * x / 2 ^ w / (k + 1 : Nat) else t * x / 2 ^ w * x / 2 ^ w / ((k + 1) * (k + 2) : Nat)
    powerSeries w alt x s fuel (k + s) (if alt then -q else q) (acc + t)

/-- 2^x for finite nonzero x that is not an integer: whole part n, fraction f, then e^(f ln 2). -/
def exp2Frac (n : Int) (f : Nat) (w : Nat) : FVal :=
  let y := f * (ln2 w).toNat / 2 ^ w
  oddBit false (powerSeries w false y 1 80 0 ((2 ^ w : Nat) : Int) 0).toNat (n - (w : Int)) true

/-- 2^x (R126). Log 11. -/
def exp2Val : FVal → FVal
  | .nan => .nan
  | .inf neg => if neg then .zero false else .inf false
  | .fin neg m e =>
    if m = 0 then .fin false 1 0
    else if 0 ≤ e then .fin false 1 (let n : Int := (m * 2 ^ e.toNat : Nat); if neg then -n else n)
    else
      let d := 2 ^ (-e).toNat
      let q := m / d
      let r := m % d
      if r = 0 then .fin false 1 (if neg then -(q : Int) else q)
      else
        let n : Int := if neg then -(q : Int) - 1 else q
        let f := if neg then d - r else r
        exp2Frac n (f * 2 ^ 256 / d) 256

/-- log2 of a positive magnitude (R126): exponent plus log2 of the significand in [1, 2). Log 11. -/
def log2Val (m : Nat) (e : Int) : FVal :=
  let l := Nat.log2 m
  if m = 2 ^ l then .ofInt (e + l)
  else
    let w : Nat := 256
    let v := lnRatio w m (2 ^ l) * 2 ^ w / ln2 w
    let s := (e + l) * (2 ^ w : Nat) + v
    if 0 ≤ s then oddBit false s.toNat (-(w : Int)) true
    else oddBit true (-(s + 1)).toNat (-(w : Int)) true

/-- sin or cos of a finite nonzero value (R126): the remainder modulo half of pi in 512 fraction bits, then the series of the quadrant. Log 11. -/
def trigVal (cosine : Bool) (neg : Bool) (m : Nat) (e : Int) : FVal :=
  let w : Nat := 512
  let x := (splitAt m e (-(w : Int))).1
  let h := (halfPi w).toNat
  let k := x / h
  let r := x % h
  let quad := (k + (if cosine then 1 else 0)) % 4
  let one : Int := ((2 ^ w : Nat) : Int)
  let c := powerSeries w true r 2 100 0 one 0
  let s := powerSeries w true r 2 100 1 (r : Int) 0
  let v := if quad % 2 = 0 then s else c
  let flip := decide (2 ≤ quad)
  oddBit (xor flip (neg && !cosine)) v.toNat (-(w : Int)) true

/-- The seven functions of MAJ 0x09, by function code (R126, Table 6-5), before their rounding: value and flags. -/
def funcVal (f : Nat) (x : FVal) : FVal × Flags :=
  match f, x with
  | _, .nan => (.nan, 0)
  | 0, .inf n => (.zero n, 0)
  | 0, .fin n m e => if m = 0 then (.inf n, Flags.divZero) else (recipVal n m e, 0)
  | 1, .inf n => if n then (.nan, Flags.invalid) else (.zero false, 0)
  | 1, .fin n m e =>
    if m = 0 then (.inf n, Flags.divZero) else if n then (.nan, Flags.invalid) else (rsqrtVal m e, 0)
  | 2, .inf n => if n then (.nan, Flags.invalid) else (.inf false, 0)
  | 2, .fin n m e => if m = 0 then (.zero n, 0) else if n then (.nan, Flags.invalid) else (sqrtVal m e, 0)
  | 3, y => (exp2Val y, 0)
  | 4, .inf n => if n then (.nan, Flags.invalid) else (.inf false, 0)
  | 4, .fin n m e =>
    if m = 0 then (.inf true, Flags.divZero) else if n then (.nan, Flags.invalid) else (log2Val m e, 0)
  | 5, .inf _ => (.nan, Flags.invalid)
  | 5, .fin n m e => if m = 0 then (.zero n, 0) else (trigVal false n m e, 0)
  | _, .inf _ => (.nan, Flags.invalid)
  | _, .fin n m e => if m = 0 then (.fin false 1 0, 0) else (trigVal true n m e, 0)

/-- A function of MAJ 0x09 on FP32 bits, rounded once (R126). Log 11. -/
def func32 (f mode : Nat) (x : Word) : Word × Flags :=
  let (c, fl) := f32.finish mode (funcVal f (f32Val x))
  (BitVec.ofNat 32 c, fl)

end Sys2Proof.Machine
end

