-- ==== Sys2Proof/Machine/PressArith.lean ====
section
/-! DEFINITION. Press arithmetic (R34 to R39, R296 to R298, R303 to R306): accumulator cells in both modes, row steps over planes, the epilogue's functions, the ranking of the select unit. Pure: nothing here reads the machine. -/

namespace Sys2Proof.Machine

/-! ### Formats that Press takes (R35, R296) -/

/-- Width of a format code; 0 for one that names nothing. -/
def fmtWidth (code : Nat) : Nat := match elemFmt code with | some f => f.width | none => 0

/-- EXACT mode accepts the format (R35). -/
def exactFormat (code : Nat) : Bool :=
  (decide (19 ≤ code) && decide (code ≤ 23)) || (decide (27 ≤ code) && decide (code ≤ 31)) ||
    (decide (36 ≤ code) && decide (code ≤ 39)) || (decide (44 ≤ code) && decide (code ≤ 47)) || (decide (12 ≤ code) && decide (code ≤ 15))

/-- A plane can hold the format (Table 16-3): 4-bit and 8-bit elements, BF16 and FP16. -/
def planeFormat (code : Nat) : Bool :=
  match elemFmt code with
  | some .sc8 => false
  | some f => decide (f.width ≤ 8) || decide (code = 2) || decide (code = 3)
  | none => false

/-- Positions of a plane in a format (Table 16-3). -/
def kmaxOf (code : Nat) : Nat := if fmtWidth code = 16 then 128 else 256

/-- The geometry goes with the format (Table 16-3): 16-bit formats take none. -/
def geoFits (code geo : Nat) : Bool := decide (geo = 0) || decide (fmtWidth code ≤ 8)

/-- Block along k of a position (R294, R297). -/
def blockOf (geo k : Nat) : Nat := if geo = 1 then k / 32 else if geo = 2 then k / 16 else k / 8

/-! ### Cells (R34, R36) -/

/-- FLOAT cells (R36). -/
def cellFmt : FloatFmt := { sig := 81, expBits := 15, bias := 16383, narrow := false, signed := true, fin := false }

/-- The EXACT NaN (R34). -/
def exactNan : BitVec 96 := BitVec.ofNat 96 (2 ^ 95)

/-- Value of an EXACT cell (R34). -/
def exactValue (c : BitVec 96) : FVal :=
  if c = exactNan then .nan else .fin c.msb c.toInt.natAbs (-40)

/-- Value of a cell in a mode (R34, R36). -/
def cellValue (float : Bool) (c : BitVec 96) : FVal := if float then cellFmt.decode c.toNat else exactValue c

/-- One product that a row step forms: the operands, and their scale codes. -/
structure Prod where
  a : FVal
  w : FVal
  sa : Nat
  sw : Nat
  deriving DecidableEq, Repr

/-- The value is an infinity or NaN. -/
def FVal.special : FVal → Bool
  | .fin _ _ _ => false
  | _ => true

/-- A finite product in units of 2^-40 (R35). -/
def exactUnits (x y : FVal) : Int :=
  match x, y with
  | .fin n m e, .fin n' m' e' =>
    let u : Int := (splitAt (m * m') (e + e') (-40)).1
    if xor n n' then -u else u
  | _, _ => 0

/-- Clamp an exact sum to the finite range (R34). -/
def clampExact (v : Int) : BitVec 96 × Flags :=
  let top : Int := 2 ^ 95 - 1
  if top < v then (BitVec.ofInt 96 top, Flags.accSat)
  else if v < -top then (BitVec.ofInt 96 (-top), Flags.accSat)
  else (BitVec.ofInt 96 v, 0)

/-- One step of an EXACT cell (R34, R298). -/
def exactStep (c : BitVec 96) (ps : List Prod) : BitVec 96 × Flags :=
  if ps.any (fun p => p.a.special || p.w.special) then (exactNan, Flags.invalid)
  else if c = exactNan then (c, 0)
  else clampExact (ps.foldl (fun s p => s + exactUnits p.a p.w) c.toInt)

/-- The exact sum of a group's products (R37). It is taken in ascending k; where a group holds a NaN product as well as opposite infinities, R37 does not say whether INVALID is set for the infinities, and here it is set only when they meet before the NaN: DESIGN CHOICE (log 34). -/
def groupSum (ps : List Prod) : FVal × Flags :=
  ps.foldl (fun a p =>
    let (x, f) := p.a.mul p.w
    let (s, g) := a.1.add 0 x
    (s, a.2 ||| f ||| g)) (.zero false, 0)

/-- Add one group to a FLOAT cell (R37): scaled exactly, rounded once; a zero sum leaves the cell. -/
def floatGroup (c : BitVec 96) (ps : List Prod) : BitVec 96 × Flags :=
  match ps with
  | [] => (c, 0)
  | p :: _ =>
    let (s, f) := if p.sa = 255 ∨ p.sw = 255 then (FVal.nan, 0) else groupSum ps
    let s := s.scale ((p.sa : Int) + p.sw - 254)
    if s.isZero then (c, f)
    else
      let (t, g) := (cellFmt.decode c.toNat).add 0 s
      let r := cellFmt.roundTo 0 t 0
      (BitVec.ofNat 96 r.code, f ||| g ||| r.flags)

/-! ### Row steps (R298, R39) -/

/-- One side of a row step at a position: present inside its shape or not, raw value, scale code; none outside the shape. -/
structure Side where
  present : Bool
  val : FVal
  scale : Nat
  deriving DecidableEq, Repr

/-- The special operand that an absent partner hides (R37, R39). -/
def hidesSpecial (x : Side) : Bool := x.present && (x.val.special || decide (x.scale = 255))

/-- The product at one position. -/
def sideProd (a w : Side) : Option Prod :=
  if a.present && w.present then some { a := a.val, w := w.val, sa := a.scale, sw := w.scale } else none

/-- Groups of 8 positions (R37). -/
def groupsOf8 {α : Type} : Nat → List α → List (List α)
  | 0, _ => []
  | n + 1, l => if l.isEmpty then [] else l.take 8 :: groupsOf8 n (l.drop 8)

/-- One cell of a row step (R298): positions inside both shapes, ascending in k. -/
def cellStep (float : Bool) (c : BitVec 96) (ks : List (Side × Side)) : BitVec 96 × Flags :=
  let skip := flagIf (ks.any (fun k => (!k.2.present && hidesSpecial k.1) || (!k.1.present && hidesSpecial k.2))) Flags.skipped
  let (r, f) :=
    if float then
      (groupsOf8 ks.length ks).foldl (fun a g =>
        let (r, f) := floatGroup a.1 (g.filterMap (fun k => sideProd k.1 k.2))
        (r, a.2 ||| f)) (c, 0)
    else exactStep c (ks.filterMap (fun k => sideProd k.1 k.2))
  (r, f ||| skip)

/-- Column `n` of a plane, position `k`, inside its shape (R296, R297): in a sparse row step it is absent when its bitmap bit is clear; in a dense one every element is present (R39). -/
def Plane.side (p : Plane) (sparse : Bool) (n k : Nat) : Side :=
  { present := !(sparse && p.absent.contains (256 * n + k)), val := decodeCode (p.fmt.getD 0) (Map.get 0 p.vals (256 * n + k))
    scale := if p.geo = 0 then 127 else Map.get 127 p.scales (256 * n + blockOf p.geo k) }

/-! ### The epilogue (R303, R304) -/

/-- An exact quotient of finite values, the divisor nonzero, with a last odd bit. -/
def divVal (a b : FVal) : FVal :=
  match a, b with
  | .fin n m e, .fin n' m' e' =>
    let k := bitLength m' + 64
    if m = 0 then .zero (xor n n') else oddBit (xor n n') (m * 2 ^ k / m') (e - e' - (k : Int)) (decide (m * 2 ^ k % m' ≠ 0))
  | _, _ => .nan

/-- FP32 with RNE, flags left aside. -/
def rne32 (x : FVal × Flags) : Word := BitVec.ofNat 32 (f32.roundTo 0 x.1 0).code

/-- FP32 product. -/
def mul32 (a b : Word) : Word := rne32 ((f32Val a).mul (f32Val b))
/-- FP32 sum. -/
def add32 (a b : Word) : Word := rne32 ((f32Val a).add 0 (f32Val b))
/-- FP32 fused product and sum. -/
def fma32 (a b c : Word) : Word := rne32 (FVal.fma 0 (f32Val a) (f32Val b) (f32Val c))

/-- |u| ≥ 3.0. -/
def atLeast3 (u : Word) : Bool := decide (0x40400000 ≤ (u &&& 0x7FFFFFFF).toNat)

/-- Gelu (R304): only its last multiplication sets flags. -/
def gelu (t : Word) : Word × Flags :=
  match f32Val t with
  | .nan => (nan32, 0)
  | .inf n => (if n then 0x80000000 else 0x7F800000, 0)
  | .fin _ _ _ =>
    let c := mul32 (mul32 t t) t
    let u := mul32 0x3F4C422A (fma32 0x3D372713 c t)
    let q : Word :=
      if atLeast3 u then (if u.msb then 0xBF800000 else 0x3F800000)
      else
        let s := mul32 u u
        rne32 (divVal (f32Val (mul32 u (add32 0x41D80000 s))) (f32Val (fma32 0x41100000 s 0x41D80000)), 0)
    let r := f32.finish 0 ((f32Val (mul32 0x3F000000 t)).mul (f32Val (add32 0x3F800000 q)))
    (BitVec.ofNat 32 r.1, r.2)

/-- e^y for y = m · 2^e ≥ 0 below 256, as a numerator over 2^512. -/
def expUnits (m : Nat) (e : Int) : Nat :=
  let w : Nat := 512
  let y := (splitAt m e (-(w : Int))).1
  let l := (ln2 w).toNat
  let n := y / l
  let r := y % l
  (powerSeries w false r 1 120 0 ((2 ^ w : Nat) : Int) 0).toNat * 2 ^ n

/-- SiLU before its rounding (R304): t / (1 + e^-t) of a finite nonzero t. Far out, t less a trace, or a trace below every FP32 step. -/
def siluVal (neg : Bool) (m : Nat) (e : Int) : FVal :=
  if 256 ≤ (splitAt m e 0).1 then
    if neg then .fin true 1 (-400) else .fin false (m * 2 ^ 300 - 1) (e - 300)
  else
    let x := expUnits m e
    let one : Nat := 2 ^ 512
    let k : Nat := 256
    oddBit neg (m * (if neg then one else x) * 2 ^ k / (x + one)) (e - (k : Int)) true

/-- SiLU (R304). -/
def silu (t : Word) : Word × Flags :=
  match f32Val t with
  | .nan => (nan32, 0)
  | .inf n => (if n then 0x80000000 else 0x7F800000, 0)
  | .fin n m e =>
    if m = 0 then (t, 0)
    else
      let r := f32.roundTo 0 (siluVal n m e) 0
      (BitVec.ofNat 32 r.code, r.flags)

/-- Act (Table 16-4). -/
def activate (code : Nat) (t : Word) : Word × Flags :=
  match code with
  | 0 => (t, 0)
  | 1 => (match f32Val t with
    | .nan => nan32
    | .inf n => if n then 0 else t
    | .fin n m _ => if n || decide (m = 0) then 0 else t, 0)
  | 2 => gelu t
  | _ => silu t

/-- One value of the epilogue before its destination (R303): FP32 activation and flags. -/
def epilogueValue (float : Bool) (act : Nat) (cell : BitVec 96) (s b : Word) : Word × Flags :=
  let (t, f) := f32.finish 0 (FVal.fma 0 (cellValue float cell) (f32Val s) (f32Val b))
  let (a, g) := activate act (BitVec.ofNat 32 t)
  (a, f ||| g)

/-! ### The select unit (R305, R306) -/

/-- The first offer ranks above the second (R305). Log 34. -/
def Offer.above (x y : Offer) : Bool :=
  match f32Val x.val, f32Val y.val with
  | .nan, .nan => decide (x.index.toInt < y.index.toInt)
  | .nan, _ => false
  | _, .nan => true
  | a, b =>
    match a.compare? b with
    | some .gt => true
    | some .lt => false
    | _ => decide (x.index.toInt < y.index.toInt)

/-- Insert an offer by rank. -/
def insertOffer (x : Offer) : List Offer → List Offer
  | [] => [x]
  | y :: r => if x.above y then x :: y :: r else y :: insertOffer x r

/-- A line takes an offer and keeps its k greatest (R305). -/
def Select.offer (u : Select) (line : Nat) (x : Offer) : Select :=
  { u with kept := u.kept.insert line ((insertOffer x ((u.kept.find? line).getD [])).take u.k) }

/-- Words of a readout (R306). -/
def Select.readout (u : Select) : List Word :=
  ((List.range u.lines).map (fun l =>
    let o := (u.kept.find? l).getD []
    ((List.range u.k).map (fun i => match o[i]? with
      | some x => [x.val, x.index]
      | none => [nan32, 0xFFFFFFFF])).flatten)).flatten

end Sys2Proof.Machine
end

