-- ==== Sys2Proof/Machine/Press.lean ====
section
/-! DEFINITION. Press on a core (R291 to R311): tiles, ownership and hand-over, acceptance and numbers, and the run of commands row by row. -/

namespace Sys2Proof

/-- What a Press image holds besides its cells when no save wrote its bytes (R325). Log 12. -/
opaque Config.pressImage (tail : Nat) : Machine.Press

end Sys2Proof

namespace Sys2Proof.Machine

/-! ### Tiles (R293, R294) -/

/-- Fields of a tile descriptor (Table 16-2). -/
structure Tile where
  base : Nat
  rows : Nat
  cols : Nat
  fmt : Nat
  stride : Nat
  ring : Nat
  geo : Nat
  sc : Nat
  bm : Nat
  deriving DecidableEq, Repr

/-- Read a descriptor. -/
def tileOf (d : BitVec 128) : Tile :=
  let n := d.toNat
  { base := bits n 19 0, rows := bits n 30 23 + 1, cols := bits n 38 31 + 1, fmt := bits n 44 39, stride := bits n 54 45, ring := bits n 59 55,
    geo := bits n 61 60, sc := bits n 83 64, bm := bits n 115 96 }

/-- Bits of an element. -/
def Tile.width (t : Tile) : Nat := fmtWidth t.fmt
/-- Bytes between rows. -/
def Tile.pitch (t : Tile) : Nat := 32 * t.stride
/-- Bytes of a row. -/
def Tile.rowBytes (t : Tile) : Nat := t.cols * t.width / 8

/-- The descriptor is valid (R293). Log 34. -/
def Tile.ok (t : Tile) : Bool :=
  decide (t.width ≠ 0) && decide (t.fmt ≠ 4) && decide (t.fmt ≠ 0x30) && decide (t.cols * t.width % 8 = 0) && decide (t.rowBytes ≤ t.pitch) &&
    (decide (t.ring = 0) ||
      (decide (10 ≤ t.ring) && decide (t.ring ≤ 19) && decide (2 ^ t.ring % t.pitch = 0) && (decide (t.geo ≠ 3) || decide (2 ^ t.ring % (4 * t.pitch) = 0))))

/-- Row in the ring (R294). -/
def Tile.rr (t : Tile) (r : Nat) : Nat := if t.ring = 0 then r else r % (2 ^ t.ring / t.pitch)
/-- Offset of element (r, 0). -/
def Tile.rowOff (t : Tile) (r : Nat) : Nat := t.base + t.rr r * t.pitch
/-- Offset of a row of the bitmap. -/
def Tile.bitOff (t : Tile) (r : Nat) : Nat := t.bm + 32 * t.rr r
/-- Offset of the scale byte of an element. -/
def Tile.scaleOff (t : Tile) (r c : Nat) : Nat :=
  if t.geo = 1 then t.sc + 16 * t.rr r + c / 32 else if t.geo = 2 then t.sc + 16 * t.rr r + c / 16 else t.sc + 32 * (t.rr r / 4) + c / 8

/-- Offsets of a row's element bytes. -/
def Tile.elemBytes (t : Tile) (r : Nat) : List Nat := keysFrom (t.rowOff r) t.rowBytes
/-- Offsets of a row's scale bytes. -/
def Tile.scaleBytes (t : Tile) (r : Nat) : List Nat :=
  if t.geo = 0 then [] else ((List.range t.cols).map (t.scaleOff r)).eraseDups
/-- Offsets of a row's presence bits, as a reader of its columns needs them. -/
def Tile.bitBytes (t : Tile) (r : Nat) : List Nat := keysFrom (t.bitOff r) ((t.cols + 7) / 8)

/-- Rows `first`, `first + 1`, …. -/
def rowsFrom (first n : Nat) : List Nat := keysFrom first n

/-- Offsets that reading rows of a tile touches. -/
def Tile.reads (t : Tile) (rows : List Nat) (bitmap : Bool) : List Nat :=
  (rows.map (fun r => t.elemBytes r ++ t.scaleBytes r ++ (if bitmap then t.bitBytes r else []))).flatten

/-! ### Commands -/

/-- Fields of an X-format instruction; those of other instructions are never asked for. -/
def xargs : Instr → XArgs
  | .tzero x => x
  | .mxlw x => x
  | .mxmm x => x
  | .mxmms x => x
  | .mxep x => x
  | .mxsel x => x
  | .mxselRead x => x
  | .accld x => x
  | .accst x => x
  | .accz x => x
  | .mxsave x => x
  | .mxload x => x
  | _ => { sw := false, xd := 0, xa := 0, xb := 0, q := 0, hold := false, h := 0, rsv := false, payload := 0 }

/-- The payload of a command. -/
def PressCmd.pay (c : PressCmd) : Nat := (xargs c.instr).payload.toNat
/-- The tile it captured. -/
def PressCmd.t (c : PressCmd) : Tile := tileOf c.tile
/-- COUNT of MXMM and MXEP. -/
def PressCmd.count (c : PressCmd) : Nat := bits c.pay 8 0 + 1
/-- COUNT of the accumulator transfers. -/
def PressCmd.cells (c : PressCmd) : Nat := bits c.pay 14 0 + 1
/-- MODE of MXMM and MXEP: FLOAT. -/
def PressCmd.float (c : PressCmd) : Bool := bit c.pay 25
/-- DEST of MXEP. -/
def PressCmd.dest (c : PressCmd) : Nat := bits c.pay 18 17

/-- Rows by which a command proceeds (R310). -/
def PressCmd.rows (c : PressCmd) : Nat :=
  match c.instr with
  | .mxmm _ => c.count
  | .mxmms _ => c.count
  | .mxep _ => c.count
  | _ => 1

/-- Columns that MXEP writes into its tile (R322). -/
def PressCmd.outCols (c : PressCmd) : Nat := if c.dest = 1 then min c.t.cols 64 else 64

/-- Format of MXEP's destination (R322): an untyped page is written as f32. Log 34. -/
def PressCmd.outFmt (c : PressCmd) : Nat :=
  if c.dest = 1 then c.t.fmt
  else match c.pages with
    | (_, l) :: _ => if l.fmt = 0 then 1 else l.fmt
    | [] => 1

/-- Bytes that one row of MXEP writes. -/
def PressCmd.outBytes (c : PressCmd) : Nat := c.outCols * fmtWidth c.outFmt / 8

/-- Bytes of a readout (R306). -/
def Select.bytes (u : Select) : Nat := u.lines * u.k * 8

/-- Scratchpad offsets that a command reads or writes, against the select unit as it stands. -/
def PressCmd.touches (c : PressCmd) (u : Option Select) : List Nat :=
  match c.instr with
  | .tzero _ => (rowsFrom 0 c.t.rows).map (fun r =>
      c.t.elemBytes r ++ (if bit c.pay 0 then keysFrom (c.t.bitOff r) 32 else []) ++ (if bit c.pay 1 then c.t.scaleBytes r else [])) |>.flatten
  | .mxlw _ => if bit c.pay 0 then [] else c.t.reads (rowsFrom 0 c.t.rows) (bit c.pay 1)
  | .mxmm _ => c.t.reads (rowsFrom c.opB c.count) false
  | .mxmms _ => c.t.reads (rowsFrom c.opB c.count) true
  | .mxep _ =>
    if c.dest = 0 ∧ !bit c.pay 19 then []
    else (if bit c.pay 16 then keysFrom c.opB 256 else []) ++ (if bit c.pay 15 then keysFrom c.opB1 256 else []) ++
      (if c.dest = 1 then ((rowsFrom 0 c.count).map (fun r => keysFrom (c.t.rowOff r) c.outBytes)).flatten else [])
  | .mxselRead _ => match u with | some u => keysFrom c.opD u.bytes | none => []
  | .accld _ => keysFrom c.opA (16 * c.cells)
  | .accst _ => keysFrom c.opA (16 * c.cells)
  | _ => []

/-! ### Ownership (R292) -/

/-- Launches that a core holds warps, banks or Press for. -/
def State.launchesHere (s : State) (core : Nat) : List Nat :=
  (s.warps.filter (fun e => decide (e.1 / 64 = core))).map (fun e => e.2.run.launch) ++ (s.core core).press.owner.toList ++
    (s.core core).banks.filterMap (·.owner)

/-- Context priority of an ASID on a core (R367, R368): the highest of its launches resident there, raised while warps of it are marked runnable. -/
def State.ctxPrio (s : State) (core asid : Nat) : Nat :=
  let p := (((s.launchesHere core).map s.launch).filter (fun l => decide (l.asid = asid))).foldl (fun m l => max m l.prio) 0
  if s.saved.any (fun v => v.marked.isSome && decide ((s.launch v.warp.run.launch).asid = asid)) then min (p + 1) 7 else p

/-- The Press context of a launch on a core: the engine's, or its saved image, or one that was never used. -/
def State.pressOf (s : State) (core launch : Nat) : Press :=
  let k := s.core core
  if k.press.owner = some launch then k.press else (k.pressSaved.find? launch).getD Press.fresh

/-- Take an unowned Press for a launch, with its saved context when it has one (R292); a read of that from the save region that fails ends the context (R411). -/
def State.ownPress (s : State) (core launch : Nat) : State :=
  let p := { s.pressOf core launch with owner := some launch }
  let asid := (s.launch launch).asid
  let own (s : State) : State := s.modCore core (fun k => { k with press := p, pressSaved := k.pressSaved.erase launch })
  if ((s.core core).pressSaved.find? launch).isSome then
    match s.readSave asid (s.coreArea asid core + 0xC0000) imageBytes with
    | (s, some f) => s.endContext asid f
    | (s, none) => own s
  else own s

/-- Press for a launch's command (R292): taken when unowned, handed over from a launch of a context of lower priority, or none: the warp stalls. -/
def State.takePress (s : State) (core launch : Nat) : Option State :=
  match (s.core core).press.owner with
  | none => some (s.ownPress core launch)
  | some o =>
    if o = launch then some s
    else
      let a := (s.launch o).asid
      if s.ctxPrio core a < s.ctxPrio core (s.launch launch).asid then
        let s := s.putImage a core (s.core core).press
        let s := s.modCore core (fun k => { k with pressSaved := k.pressSaved.insert o k.press, press := Press.fresh })
        some (s.ownPress core launch)
      else none

/-! ### Acceptance (R300, R301) -/

/-- An earlier command of a warp is held, or blocked behind a held one. -/
def Press.blocks (p : Press) (token : Nat) : Bool := p.queue.any (fun c => decide (c.token = token) && c.num.isNone)

/-- A command enters the queue (R300, R301): OUT rises, and it is numbered, held, or blocked. -/
def Press.accept (p : Press) (c : PressCmd) : Press :=
  let p := { p with out := Map.set 0 p.out c.slot (Map.get 0 p.out c.slot + 1) }
  if c.held.isSome ∨ p.blocks c.token then { p with queue := p.queue ++ [c] }
  else
    let n := (p.issued.toNat + 1) % 2 ^ 32
    { p with queue := p.queue ++ [{ c with num := some n }], issued := BitVec.ofNat 32 n }.note c.slot n

/-- The queue takes no command now: it is full, or an MXLOAD has not completed (R300, R325). -/
def Press.closed (p : Press) : Bool :=
  decide (Config.pressEntries ≤ p.queue.length) || p.queue.any (fun c => match c.instr with | .mxload _ => true | _ => false)

/-! ### Reads and writes of a running command (R302, R213, R309, R414) -/

/-- How a Press command's reads see its issue (R213). -/
def PressCmd.sinceOf (c : PressCmd) : Since := { at_ := c.since, fresh := c.fresh, token := some c.token }

/-- A word as a Press command reads it: what an engine may read (R213), but never before a write of an earlier command, or of the copy that released it (R302). Log 23. -/
def State.pressWord (s : State) (core : Nat) (p : Party) (c : PressCmd) (about : List Nat) (k : Nat) : Word :=
  let es := s.histOf k
  let own := es.foldl (fun m h => if h.wid.isNone && decide (h.core = some core) && (h.press || decide (h.seq ≤ c.follow)) then max m h.seq else m) 0
  (s.choose (4 :: k :: about) (0, s.mem.word k) ((s.engineChoices p c.sinceOf k).filter (fun (e : Nat × Word) => decide (own ≤ e.1)))).2

/-- Bytes that a Press command reads from a key on, as its core's (R209). -/
def State.pressBytes (s : State) (core : Nat) (p : Party) (c : PressCmd) (tag okey k n : Nat) : State × List Byte :=
  let s := s.touch (.core core) k n
  let b := (keysFrom k n).map fun x =>
    s.found [tag] x (s.underKey okey x (byteOfWord (s.pressWord core p c [tag] (x / 4 * 4)) (x % 4)))
  (s.engineDrop c.token k n, b)

/-- Scratchpad bytes that a command reads: zero when an operand of it lies in a bank that left SPAD mode before it ran (R414). -/
def State.pressSpad (s : State) (core : Nat) (c : PressCmd) (dead : Bool) (tag : Nat) (offs : List Nat) : State × List Byte :=
  match s.spadKeys core c.launch offs with
  | .ok ks =>
    if dead then (s, List.replicate offs.length 0)
    else (keyRuns ks).foldl (fun a r => let (s, b) := a.1.pressBytes core (.core core) c tag 0 r.1 r.2; (s, a.2 ++ b)) (s, [])
  | .error _ => (s, List.replicate offs.length 0)

/-- The writer that Press is. -/
def pressWriter (core : Nat) : Writer := { wid := none, core := some core, press := true, engine := true }

/-- Scratchpad bytes that a command writes; none when an operand left SPAD mode (R414). -/
def State.pressPut (s : State) (core : Nat) (c : PressCmd) (dead : Bool) (offs : List Nat) (data : List Byte) : State :=
  match s.spadKeys core c.launch offs with
  | .ok ks =>
    if dead then s
    else ((keyRuns ks).foldl (fun a r => (a.1.homeWrite (pressWriter core) .core none 0 r.1 (a.2.take r.2), a.2.drop r.2)) (s, data)).1
  | .error _ => s

/-- Pieces of a global access of a command, by the pages that it captured. -/
def PressCmd.pieces (c : PressCmd) (va n : Nat) : List Piece :=
  (pageRuns va n).filterMap (fun r => (c.pages.find? (fun p => decide (p.1 = r.1 / 2 ^ 18))).map
    (fun p => { leaf := p.2, pa := p.2.pa r.1, off := r.1 - va, len := r.2 }))

/-- Global bytes that a command reads; those that the region table denies on arrival are zero, with `ctl.drop` (R406). The lines take their page's class (R14). -/
def State.pressLoad (s : State) (core : Nat) (c : PressCmd) (tag va n : Nat) : State × List Byte :=
  let world := s.worldOf (s.launch c.launch).asid
  (c.pieces va n).foldl (fun a p =>
    if a.1.regionAllows world p.pa then
      let (s, b) := (a.1.fillSpan p.leaf p.pa p.len).pressBytes core .dev c tag p.leaf.okey p.pa p.len
      (s, a.2 ++ b)
    else ((a.1.modTok c.token (fun w => w.markDrop true)).count (homeDie p.pa) 3 1, a.2 ++ List.replicate p.len 0)) (s, [])

/-- Global bytes that a command writes, unless the region table denies one of them (R309): the flag says so. -/
def State.pressStore (s : State) (core : Nat) (c : PressCmd) (va : Nat) (data : List Byte) : State × Bool :=
  let ps := c.pieces va data.length
  let world := s.worldOf (s.launch c.launch).asid
  if ps.all (fun p => s.regionAllows world p.pa) then
    (ps.foldl (fun s p => (s.fillSpan p.leaf p.pa p.len).homeWrite (pressWriter core) .dev none p.leaf.okey p.pa ((data.drop p.off).take p.len)) s, false)
  else (s, true)

/-- Change a core's Press. -/
def State.modPress (s : State) (core : Nat) (f : Press → Press) : State := s.modCore core (fun k => { k with press := f k.press })

/-- Press notes a fault of a command that runs, and queues its frame (R308, R309, R414). Log 34. -/
def State.pressFault (s : State) (core : Nat) (c : PressCmd) (detail faddr : Nat) : State :=
  (s.modPress core (fun p => { p with fault := true, detail := detail })).engineFrame c.launch c.token 2 faddr

/-! ### Cells -/

/-- A cell as a mode reads it (R299): undefined when last written in the other mode. -/
def State.cell (s : State) (core : Nat) (p : Press) (float : Bool) (i : Nat) : BitVec 96 :=
  let m := Map.get 0 p.accMode i
  if m = 0 ∨ m = (if float then 2 else 1) then Map.get 0 p.acc i else s.freeBits [23, core, i] 96

/-- Write a cell in a mode, or raw. -/
def Press.setCell (p : Press) (mode i : Nat) (v : BitVec 96) : Press :=
  { p with acc := Map.set 0 p.acc i v, accMode := Map.set 0 p.accMode i mode }

/-! ### Planes (R297) -/

/-- Elements of a row: raw codes from packed bytes. -/
def unpackRow (w n : Nat) (bytes : List Byte) : List Nat :=
  let v := natOfBytes bytes
  (List.range n).map (fun c => v / 2 ^ (w * c) % 2 ^ w)

/-- A row of a tile as a command reads it: raw elements, presence, scale codes by column. -/
def State.tileRow (s : State) (core : Nat) (c : PressCmd) (dead bitmap : Bool) (r : Nat) : State × List (Nat × Bool × Nat) :=
  let t := c.t
  let (s, b) := s.pressSpad core c dead 24 (t.elemBytes r)
  let offs := t.scaleBytes r
  let (s, sb) := s.pressSpad core c dead 25 offs
  let (s, pb) := if bitmap then s.pressSpad core c dead 26 (t.bitBytes r) else (s, [])
  let pres := natOfBytes pb
  (s, (unpackRow t.width t.cols b).zipIdx.map (fun e =>
    (e.1, !bitmap || bit pres e.2, if t.geo = 0 then 127 else ((sb[offs.idxOf (t.scaleOff r e.2)]?).getD 0).toNat)))

/-- A plane from rows of elements: tile row n is column n. An element whose bitmap bit is clear is kept, and listed as absent. -/
def planeOf (fmt geo rows cols : Nat) (rs : List (Nat × List (Nat × Bool × Nat))) : Plane :=
  let at_ := (rs.map (fun r => r.2.zipIdx.map (fun e => (256 * r.1 + e.2, e.1)))).flatten
  { fmt := some fmt, geo := geo, rows := rows, cols := cols
    vals := (at_.filter (fun e => decide (e.2.1 ≠ 0))).map (fun e => (e.1, e.2.1))
    absent := (at_.filter (fun e => !e.2.2.1)).map (·.1)
    scales := if geo = 0 then [] else
      (rs.map (fun r => ((r.2.zipIdx.map (fun e => (256 * r.1 + blockOf geo e.2, e.1.2.2))).foldl (fun t e => Table.insert t e.1 e.2) ([] : Table Nat)))).flatten }

/-- MXLW from a tile (R319). -/
def State.loadTilePlane (s : State) (core : Nat) (c : PressCmd) (dead : Bool) : State × Plane :=
  let t := c.t
  let (s, rs) := (rowsFrom 0 t.rows).foldl (fun a r =>
    let (s, row) := a.1.tileRow core c dead (bit c.pay 1) r
    (s, a.2 ++ [(r, row)])) (s, [])
  (s, planeOf t.fmt t.geo t.rows t.cols rs)

/-- Bytes of a whole plane of a format. -/
def planeBytes (fmt : Nat) : Nat := 64 * kmaxOf fmt * fmtWidth fmt / 8

/-- MXLW from a typed page (R319, R176): scales read under the page's attributes. Log 25. -/
def State.loadPagePlane (s : State) (core : Nat) (c : PressCmd) : State × Plane :=
  match c.pages with
  | [] => (s, Plane.empty)
  | (_, l) :: _ =>
    let va := c.opA
    let k := kmaxOf l.fmt
    let (s, b) := s.pressLoad core c 24 va (planeBytes l.fmt)
    let first := va % (if l.big then 2 ^ 31 else 2 ^ 18) * 8 / fmtWidth l.fmt
    let lo := l.scaleByte first
    let n := if l.block = 0 then 0 else l.scaleByte (first + 64 * k - 1) + 1 - lo
    let world := s.worldOf (s.launch c.launch).asid
    let (s, sb) :=
      if n = 0 then (s, [])
      else if s.regionAllows world lo then (s.fillSpan l lo n).pressBytes core .dev c 25 l.okey lo n
      else ((s.modTok c.token (fun w => w.markDrop true)).count (homeDie lo) 3 1, List.replicate n 0)
    let els := unpackRow (fmtWidth l.fmt) (64 * k) b
    let rs := (List.range 64).map (fun i => (i, ((els.drop (i * k)).take k).zipIdx.map (fun e =>
      (e.1, true, if l.block = 0 then 127 else ((sb[l.scaleByte (first + i * k + e.2) - lo]?).getD 0).toNat))))
    (s, planeOf l.fmt l.geo 64 k rs)

/-! ### Row steps (R298, R321) -/

/-- One row of MXMM or MXMMS: the 64 cells of its accumulator row, and flags. -/
def State.streamRow (s : State) (core : Nat) (c : PressCmd) (dead sparse : Bool) : State :=
  let i := c.rowsDone
  let (s, row) := s.tileRow core c dead sparse (c.opB + i)
  let p := (s.core core).press
  let w := p.active
  let sides := (row.take w.cols).zipIdx.map (fun e =>
    (({ present := e.1.2.1, val := decodeCode c.t.fmt e.1.1, scale := e.1.2.2 } : Side), e.2))
  let base := c.opD + 64 * i
  let (p', f) := (List.range 64).foldl (fun a n =>
    let old := s.cell core p c.float (base + n)
    let ks := if n < w.rows then sides.map (fun e => (e.1, w.side sparse n e.2)) else []
    let (v, g) := cellStep c.float old ks
    (a.1.setCell (if c.float then 2 else 1) (base + n) v, a.2 ||| g)) (p, (0 : Flags))
  (s.modPress core (fun _ => p')).modTok c.token (fun w => w.raise f)

/-! ### The epilogue (R303, R322) -/

/-- A vector of 64 FP32 words at a scratchpad offset, or a constant one; an MXEP reads it for each of its rows (DESIGN CHOICE, log 34). -/
def State.pressVec (s : State) (core : Nat) (c : PressCmd) (dead on : Bool) (tag off : Nat) (dflt : Word) : State × List Word :=
  if on then
    let (s, b) := s.pressSpad core c dead tag (keysFrom off 256)
    (s, (List.range 64).map (fun i => BitVec.ofNat 32 (natOfBytes ((b.drop (4 * i)).take 4))))
  else (s, List.replicate 64 dflt)

/-- The offer of one value (R305). -/
def PressCmd.offerTo (c : PressCmd) (u : Select) (r col : Nat) (a : Word) : Select :=
  if u.perRow then
    let row := c.opA / 64 + r
    if u.first ≤ row ∧ row < u.first + u.lines then u.offer (row - u.first) { val := a, index := BitVec.ofNat 32 (u.next + col) } else u
  else u.offer col { val := a, index := BitVec.ofNat 32 (u.next + r) }

/-- Pack codes into bytes. -/
def packRow (w : Nat) (codes : List Nat) : List Byte :=
  bytesOfNat (codes.length * w / 8) (codes.zipIdx.foldl (fun v e => v + e.1 * 2 ^ (w * e.2)) 0)

/-- One row of MXEP: values, offers, the destination's row, flags (R303, R322). A denied global row is not written, and noted (R309). Without a destination and select it only reads the cells. DESIGN CHOICE (log 34): the scale and bias vectors are read anew for each row, since R303 does not say how often they are read; FADDR of the frame of a denied row is its detail code 7, since R309 and R417 name none. -/
def State.epilogueRow (s : State) (core : Nat) (c : PressCmd) (dead : Bool) : State :=
  if c.dest = 0 ∧ !bit c.pay 19 then s
  else
  let r := c.rowsDone
  let (s, sv) := s.pressVec core c dead (bit c.pay 16) 27 c.opB 0x3F800000
  let (s, bv) := s.pressVec core c dead (bit c.pay 15) 28 c.opB1 0
  let p := (s.core core).press
  let act := bits c.pay 24 23
  let vals := (List.range 64).map (fun i =>
    epilogueValue c.float act (s.cell core p c.float (c.opA + 64 * r + i)) ((sv[i]?).getD 0) ((bv[i]?).getD 0))
  let sel := if bit c.pay 19 then p.select.map (fun u => vals.zipIdx.foldl (fun u e => c.offerTo u r e.2 e.1.1) u) else p.select
  let streams := if r = 0 then (List.range 64).map (laneSeed c.seed) else p.streams
  let fmt := (elemFmt c.outFmt).getD (.flt f32)
  let outs := if c.dest = 0 then [] else
    ((vals.take c.outCols).zip streams).map (fun e => fmt.encode (bits c.pay 22 20) (f32Val e.1.1) e.2)
  let streams := outs.map (·.stream) ++ streams.drop outs.length
  let f := gatherFlags (vals.map (·.2)) ||| gatherFlags (outs.map (·.flags))
  let s := (s.modPress core (fun p => { p with select := sel, streams := streams })).modTok c.token (fun w => w.raise f)
  let data := packRow fmt.width (outs.map (·.code))
  if c.dest = 1 then s.pressPut core c dead (keysFrom (c.t.rowOff r) c.outBytes) data
  else if c.dest = 2 then
    let (s, denied) := s.pressStore core c ((c.opD + r * c.outBytes) % 2 ^ 64) data
    if denied then s.pressFault core c 7 7 else s
  else s

/-- NEXT after an MXEP with select on (R305). -/
def Select.advance (u : Select) (count : Nat) : Select := { u with next := (u.next + (if u.perRow then 64 else count)) % 2 ^ 32 }

/-! ### Other commands -/

/-- TZERO (R318). -/
def State.zeroTile (s : State) (core : Nat) (c : PressCmd) (dead : Bool) : State :=
  let offs := c.touches none
  s.pressPut core c dead offs (List.replicate offs.length 0)

/-- The select settings of a configuring MXSEL (R305, R323). -/
def PressCmd.settings (c : PressCmd) : Select :=
  let perRow := bit c.pay 17
  { k := bits c.pay 23 18 + 1, perRow := perRow, lines := if perRow then bits c.pay 16 11 + 1 else 64, next := c.opA,
    first := if perRow then c.opB else 0, kept := [] }

/-- ACCLD (R324). -/
def State.loadCells (s : State) (core : Nat) (c : PressCmd) (dead : Bool) : State :=
  let (s, b) := s.pressSpad core c dead 24 (keysFrom c.opA (16 * c.cells))
  s.modPress core (fun p => (List.range c.cells).foldl (fun p i =>
    p.setCell 0 (c.opD + i) (BitVec.ofNat 96 (natOfBytes ((b.drop (16 * i)).take 12)))) p)

/-- ACCST (R324). -/
def State.storeCells (s : State) (core : Nat) (c : PressCmd) (dead : Bool) : State :=
  let p := (s.core core).press
  s.pressPut core c dead (keysFrom c.opA (16 * c.cells))
    (((List.range c.cells).map (fun i => bytesOfNat 16 (Map.get 0 p.acc (c.opD + i)).toNat)).flatten)

/-- MXSAVE (R325): the image that a save would write (R310), this command no longer in it. Log 12. -/
def State.pressSave (s : State) (core : Nat) (c : PressCmd) : State :=
  let p := (s.core core).press
  let image := { p with queue := p.queue.filter (fun x => decide (x.num ≠ c.num)), seq := BitVec.ofNat 32 (c.num.getD 0),
                        out := Map.set 0 p.out c.slot (Map.get 0 p.out c.slot - 1) }
  let (s, denied) := s.pressStore core c c.opA image.image
  if denied then s.pressFault core c 7 7 else s.noteImage (piecesAt (c.pieces c.opA imageBytes) (12 * Config.accCells)) image

/-- What an image holds besides its cells, from its bytes there: the last image written at its place when these are its bytes still, or another that a save wrote and whose bytes these are; else a Press that nothing constrains. Log 12. -/
def State.imageAt (s : State) (pa : Nat) (tail : List Byte) : Press :=
  let same (e : Nat × Press) : Bool := decide (bytesOfNat (imageBytes - 12 * Config.accCells) (Config.imageTail e.2) = tail)
  match s.images.find? (fun e => decide (e.1 = pa) && same e), s.images.find? same with
  | some e, _ => e.2
  | none, some e => e.2
  | none, none => Config.pressImage (natOfBytes tail)

/-- MXLOAD (R325): the whole state from an image. Log 12. -/
def State.loadImage (s : State) (core : Nat) (c : PressCmd) : State :=
  let (s, b) := s.pressLoad core c 24 c.opA imageBytes
  let image := s.imageAt (piecesAt (c.pieces c.opA imageBytes) (12 * Config.accCells)) (b.drop (12 * Config.accCells))
  let acc := (List.range Config.accCells).foldl (fun t i => Map.set 0 t i (BitVec.ofNat 96 (natOfBytes ((b.drop (12 * i)).take 12)))) ([] : Table (BitVec 96))
  let s := s.modPress core (fun _ => { image with owner := some c.launch, acc := acc })
  s.recordIf c.wid (fun t _ => decide (t.kind = .mxload (c.num.getD 0))) 0

/-! ### The run (R301, R308, R310) -/

/-- How far a number lies ahead of SEQ; numbers are 32 bits and wrap. -/
def Press.ahead (p : Press) (n : Nat) : Nat := (n % 2 ^ 32 + 2 ^ 32 - (p.seq.toNat + 1)) % 2 ^ 32

/-- The command that runs next: the first number after SEQ. -/
def Press.next (p : Press) : Option PressCmd :=
  p.queue.foldl (fun b c => match c.num, b with
    | none, _ => b
    | some _, none => some c
    | some n, some x => if p.ahead n < p.ahead (x.num.getD 0) then some c else b) none

/-- A command fault that depends on the state left by the commands before it (R308). DEDUCED (log 34): detail 4 is reported before 3 where both hold, since R308 names no order. -/
def Press.lateFault (p : Press) (c : PressCmd) : Option Nat :=
  let stream : Option Nat :=
    match p.active.fmt with
    | none => some 4
    | some f =>
      if decide (fmtWidth f = 16) ≠ decide (c.t.width = 16) ∨ kmaxOf f < c.t.cols then some 4
      else if !c.float && !(exactFormat f && decide (p.active.geo = 0)) then some 3
      else none
  match c.instr with
  | .mxmm _ => stream
  | .mxmms _ => stream
  | .mxep _ => if bit c.pay 19 && p.select.isNone then some 6 else none
  | .mxselRead _ => if p.select.isNone then some 6 else none
  | _ => none

/-- The first scratchpad operand byte of a command that is not in SPAD mode when it runs (R414). -/
def State.pressDead (s : State) (core : Nat) (c : PressCmd) : Option Nat :=
  match s.spadKeys core c.launch (c.touches (s.core core).press.select) with
  | .ok _ => none
  | .error o => some o

/-- A BANKCFG has issued on a bank that a command names: a command that has not started waits (R168). -/
def State.pressWaits (s : State) (core : Nat) (c : PressCmd) : Bool :=
  decide (c.rowsDone = 0) && (((c.touches (s.core core).press.select).map (· / 65536)).eraseDups).any (fun n =>
    match (s.banksOf core c.launch)[n]? with
    | some b => !(s.bank core b).cfg.isEmpty
    | none => false)

/-- One row, or the whole, of a running command. -/
def State.runRow (s : State) (core : Nat) (c : PressCmd) (dead : Bool) : State :=
  match c.instr with
  | .tzero _ => s.zeroTile core c dead
  | .mxlw _ =>
    let (s, pl) := if bit c.pay 0 then s.loadPagePlane core c else s.loadTilePlane core c dead
    s.modPress core (fun p => { p with shadow := pl })
  | .mxswap _ => s.modPress core (fun p => { p with active := p.shadow, shadow := p.active })
  | .mxmm _ => s.streamRow core c dead false
  | .mxmms _ => s.streamRow core c dead true
  | .mxep _ => s.epilogueRow core c dead
  | .mxsel _ => s.modPress core (fun p => { p with select := some c.settings })
  | .mxselRead _ =>
    match (s.core core).press.select with
    | some u => s.pressPut core c dead (keysFrom c.opD u.bytes) ((u.readout.map (fun x => bytesOfNat 4 x.toNat)).flatten)
    | none => s
  | .accld _ => s.loadCells core c dead
  | .accst _ => s.storeCells core c dead
  | .accz _ => s.modPress core (fun p => (List.range c.cells).foldl (fun p i => p.setCell 0 (c.opD + i) 0) p)
  | .mxsave _ => s.pressSave core c
  | .mxload _ => s.loadImage core c
  | _ => s

/-- Rows from the next one on, `n` of them: the state, and the command with its rows done. -/
def State.runRows (core : Nat) (dead : Bool) : Nat → State → PressCmd → State × PressCmd
  | 0, s, c => (s, c)
  | n + 1, s, c => State.runRows core dead n (s.runRow core c dead) { c with rowsDone := c.rowsDone + 1 }

/-- A command completes (R301): SEQ is its number, its warp's OUT falls. An MXLOAD has replaced the counters (R325). -/
def State.pressDone (s : State) (core : Nat) (c : PressCmd) : State :=
  match c.instr with
  | .mxload _ => s
  | _ => s.modPress core (fun p => { p with
      queue := p.queue.filter (fun x => decide (x.num ≠ c.num)), seq := BitVec.ofNat 32 (c.num.getD 0)
      out := Map.set 0 p.out c.slot (Map.get 0 p.out c.slot - 1)
      select := match c.instr with
        | .mxep _ => if bit c.pay 19 then p.select.map (fun u => u.advance c.count) else p.select
        | _ => p.select })

/-- A command that runs proceeds by some of its rows, and completes with the last (R301, R310). How many rows pass in a step is free (log 3). -/
def State.pressStep (s : State) (core : Nat) : State :=
  let p := (s.core core).press
  match p.next with
  | none => s
  | some c =>
    if s.pressWaits core c then s
    else
    match p.lateFault c with
    | some d =>
      let s := s.pressFault core c d d
      s.modPress core (fun p => { p with queue := p.queue.filter (fun x => decide (x.num ≠ c.num)), seq := BitVec.ofNat 32 (c.num.getD 0)
                                         out := Map.set 0 p.out c.slot (Map.get 0 p.out c.slot - 1) })
    | none =>
      let dead := s.pressDead core c
      let s := match dead with
        | some o => if c.rowsDone = 0 then s.pressFault core c 8 o else s
        | none => s
      let n := 1 + s.pick [29, core] (c.rows - c.rowsDone)
      let (s, c') := State.runRows core dead.isSome n s c
      if c.rows ≤ c'.rowsDone then s.pressDone core c'
      else s.modPress core (fun p => { p with queue := p.queue.map (fun x => if x.num = c.num then c' else x) })

/-- PRESS_COMMAND_COMPLETE (R301). -/
def execPressCommandComplete (core : Nat) (s : State) : Host.Outcome State Fault Refusal := .next (s.pressStep core)

end Sys2Proof.Machine
end

