-- ==== Sys2Proof/Machine/BankCompute.lean ====
section
/-! DEFINITION. Bank compute (R216, R331 to R337): matrix-vector products beside the banks of tier 1, their write-back fence, their numbers. -/

namespace Sys2Proof.Machine

/-! ### Commands of a warp (R334) -/

/-- Commands that a warp has outstanding. -/
def State.bcuOf (s : State) (token : Nat) : List BcuCmd := s.bcus.filter (fun c => decide (c.token = token))

/-- A warp has 16 commands outstanding (R334). -/
def State.bcuFull (s : State) (token : Nat) : Bool := decide (16 ≤ (s.bcuOf token).length)

/-- An accepted command takes its number (R334). -/
def State.acceptBcu (s : State) (c : Issue) (w : WarpCore) (b : BcuCmd) : State :=
  let n := (w.bcuLast.toNat + 1) % 2 ^ 32
  { s.modRun c.wid (fun w => { w with bcuLast := BitVec.ofNat 32 n }) with bcus := s.bcus ++ [{ b with num := n }] }

/-- A command before its operands. -/
def newBcuCmd (c : Issue) (w : WarpCore) : BcuCmd :=
  { wid := c.wid, token := w.token, launch := w.launch, num := 0, fence := none, r0 := 0, n := 0, cols := 0, pitch := 0, base := 0, pages := [],
    x := 0, xs := none, y := 0, global := false, ypages := [], since := 0, fresh := w.refresh, floors := w.fenced, left := [], denied := false, complete := false }

/-! ### BMV (R331, R333) -/

/-- W's formats (Table 19-1). -/
def bmvFormat (fmt geo : Nat) : Bool :=
  match elemFmt fmt with
  | some .sc8 => false
  | some f => if f.width ≤ 8 then decide (geo ≤ 2) else decide (geo = 0) && (decide (fmt = 2) || decide (fmt = 3))
  | none => false

/-- Row pitch of W (R331). -/
def bmvPitch (cols width : Nat) : Nat := (cols * width + 255) / 256 * 32

/-- Page of a row, by its count from the base (R178). -/
def rowPage (pitch r : Nat) : Nat := r / (32 * (8192 / pitch))

/-- Offset of a row in its page (R178). -/
def rowOffset (pitch r : Nat) : Nat := 8192 * (r % 32) + pitch * (r / 32 % (8192 / pitch))

/-- Page counts from the base that rows `r0` to `r0 + n − 1` touch. -/
def rowPages (pitch r0 n : Nat) : List Nat :=
  if n = 0 then [] else keysFrom (rowPage pitch r0) (rowPage pitch (r0 + n - 1) + 1 - rowPage pitch r0)

/-- The operands are outside their ranges (Table 19-4, code 1); the width of a format that BMV does not take bounds nothing there. Log 36. -/
def bmvRange (cols hi n width : Nat) : Bool :=
  decide (cols = 0) || decide (hi ≠ 0) || decide (65536 < n) || (decide (width ≠ 0) && decide (8192 * 8 / width < cols))

/-- Translate pages of an access, each by its address: page addresses and leaves, or the first fault. -/
def State.leavesOf (s : State) (w : WarpCore) (acc : Acc) (vas : List Nat) : State × Except Trap (List (Nat × Leaf)) :=
  vas.foldl (fun a va =>
    match a with
    | (s, .error t) => (s, .error t)
    | (s, .ok l) =>
      match s.translate w.party (s.asidOf w) (s.warpWorld w) acc va with
      | (s, .error e) => (s, .error (e.trap acc va))
      | (s, .ok (leaf, _)) => (s, .ok (l ++ [(va / 2 ^ 18, leaf)]))) (s, .ok [])

/-- A scratchpad range of an instruction fails R167 somewhere; no launch has more than 2^20 bytes. -/
def State.rangeFails (s : State) (w : WarpCore) (off n : Nat) : Option Nat := s.spadFail w.core w.launch off (min n (2 ^ 20))

/-- BMV's command faults (R333, Table 19-4). -/
def bmvFault (first : Leaf) (pages : List (Nat × Leaf)) (cols hi n : Nat) : Option Nat :=
  let w := if bmvFormat first.fmt first.geo then fmtWidth first.fmt else 0
  if bmvRange cols hi n w then some 1
  else if (first :: pages.map (·.2)).any (fun l => decide (l.layout ≠ 1)) then some 2
  else if !bmvFormat first.fmt first.geo || pages.any (fun l => decide (l.2.fmt ≠ first.fmt) || decide (l.2.geo ≠ first.geo)) then some 3
  else none

/-- y's address, of either form (R333): D is a pair. -/
def bmvY (r : RArgs) (s : State) (w : WarpCore) (l : Nat) : Nat := (r.pairD s w l).toNat

/-- BMV's alignment faults (R333). -/
def bmvAlign (r : RArgs) (s : State) (w : WarpCore) (l : Nat) : Option Trap :=
  let base := (r.pairA s w l).toNat
  let x := bits (s.rdQuad w l r.b.toNat posB) 127 96
  let y := bmvY r s w l
  if base % 2 ^ 18 ≠ 0 then some (trapAt .align base) else if x % 32 ≠ 0 then some (trapAt .align x) else if y % 4 ≠ 0 then some (trapAt .align y) else none

/-- Scratchpad offsets that a BMV reads and writes. -/
def bmvSpan (r : RArgs) (s : State) (w : WarpCore) (l : Nat) : List Nat :=
  let q := s.rdQuad w l r.b.toNat posB
  keysFrom (bits q 127 96) (min (2 * bits q 79 64) (2 ^ 20)) ++ (if sub r.px = 1 then [] else keysFrom (bmvY r s w l) (min (4 * bits q 63 32) (2 ^ 20)))

/-- What BMV checks, with the command that it asks for (R333, Table 19-4). Every page is translated before a command fault is taken; when the first page's format or C gives no row pitch, W has no other page to name. Log 36. -/
def State.bmvAsk (r : RArgs) (s : State) (c : Issue) (w : WarpCore) : State × Except Trap BcuCmd :=
  let l := c.lead
  let base := (r.pairA s w l).toNat
  let q := s.rdQuad w l r.b.toNat posB
  let r0 := bits q 31 0
  let n := bits q 63 32
  let cols := bits q 79 64
  let x := bits q 127 96
  let glob := decide (sub r.px = 1)
  let y := bmvY r s w l
  match s.rangeFails w x (2 * cols), if glob then none else s.rangeFails w y (4 * n) with
  | some o, _ => (s, .error (trapAt .spadBounds o))
  | none, some o => (s, .error (trapAt .spadBounds o))
  | none, none =>
    match s.translate w.party (s.asidOf w) (s.warpWorld w) .load base with
    | (s, .error e) => (s, .error (e.trap .load base))
    | (s, .ok (first, _)) =>
      let pitch := bmvPitch cols (fmtWidth first.fmt)
      let ps := if pitch = 0 ∨ 8192 < pitch then [] else (rowPages pitch r0 n).map (fun p => base + p * 2 ^ 18)
      match s.leavesOf w .load ps with
      | (s, .error t) => (s, .error t)
      | (s, .ok pages) =>
        match s.leavesOf w .store (if glob then (pageRuns y (4 * n)).map (·.1) else []) with
        | (s, .error t) => (s, .error t)
        | (s, .ok ypages) =>
          match bmvFault first pages cols (bits q 95 80) n with
          | some d => (s, .error { cause := .engineFault, subcode := 3, faddr := d })
          | none => (s, .ok { newBcuCmd c w with
              r0 := r0, n := n, cols := cols, pitch := pitch, base := base, pages := pages, x := x, y := y, global := glob, ypages := ypages, left := List.range n })

/-- BMV (R333): its checks, then it stalls behind 16 outstanding commands or is accepted. -/
def execBmv (r : RArgs) (s : State) : Host.Outcome State Fault Refusal :=
  onWarp (.bmv r) s fun c w =>
    match bmvAlign r s w c.lead with
    | some t => s.trapAll c t
    | none =>
      if s.anyBusy w (bmvSpan r s w c.lead) then s.holdAccess c (s.busyBank w (bmvSpan r s w c.lead))
      else
        match s.bmvAsk r c w with
        | (s, .error t) => s.trapAll c t
        | (s, .ok b) =>
          if s.bcuFull w.token then { s with cur := some c }
          else
            let s := s.drainBank c.wid
            (s.acceptBcu c w { b with since := s.seq }).conclude c []

/-! ### The run of a BMV (R332) -/

/-- The position that is surely on the device of a line for a command (R216). -/
def BcuCmd.floor (c : BcuCmd) (line : Nat) : Nat :=
  c.floors.foldl (fun m f => if f.1 / 128 ≤ line ∧ 128 * line < f.2.1 then max m f.2.2 else m) 0

/-- Every warp that is resident, helped over, or saved. -/
def State.everyRun (s : State) : List WarpCore :=
  ((s.warps.map (·.2) ++ s.saved.map (·.warp)).map (fun x => x.run :: x.help)).flatten

/-- Positions at which a BFENCE.W of some warp wrote a line back (R335). -/
def State.lineFences (s : State) (line : Nat) : List Nat :=
  (s.everyRun.map (fun w => (w.fenced.filter (fun f => decide (f.1 / 128 ≤ line) && decide (128 * line < f.2.1))).map (·.2.2))).flatten

/-- A write of a line: its publication at .dev, none while it has none, and its writer's token and core. -/
structure LineWrite where
  at_ : Option Nat
  token : Option Nat
  core : Option Nat
  deriving DecidableEq, Repr

/-- Writes of a line, those that a warp still buffers among them. -/
def State.lineWrites (s : State) (line : Nat) : List LineWrite :=
  (s.hist.filter (fun h => decide (h.key / 128 = line))).map (fun h => { at_ := h.pubDev, token := h.token, core := h.core }) ++
    (s.everyRun.map (fun w => (w.stores.filter (fun p => !p.mark && !p.bank && decide (p.key / 128 = line))).map
      (fun _ => { at_ := none, token := w.writer.token, core := w.writer.core }))).flatten

/-- A position lies between two writes that one party made with no BFENCE.W over the line between them. -/
def splitsLine (fences : List Nat) (pos : Nat) (a b : LineWrite) : Bool :=
  decide (a.token = b.token) && decide (a.core = b.core) &&
    match a.at_, b.at_ with
    | some x, none => decide (x ≤ pos) && !fences.any (fun f => decide (x ≤ f))
    | some x, some y => decide (x ≤ pos) && decide (pos < y) && !fences.any (fun f => decide (x ≤ f) && decide (f < y))
    | none, _ => false

/-- Positions after a command's floor at which a line may have last reached its device (R216): where a write of it was published, and where a BFENCE.W wrote it back. DEDUCED (log 23): the writes that one party makes to a line with no BFENCE.W over it between them reach the device together, so that the line is old or new as a whole. -/
def State.linePlaces (s : State) (line lo : Nat) : List Nat :=
  let ws := s.lineWrites line
  let fences := s.lineFences line
  ((ws.filterMap (·.at_) ++ fences).filter (fun q => decide (lo < q) && !ws.any (fun a => ws.any (fun b => splitsLine fences q a b)))).eraseDups

/-- A line as the device beneath the LLC gives it to a command (R216): as it was at one position from its floor on. Log 23. -/
def State.deviceLine (s : State) (c : BcuCmd) (about : List Nat) (line : Nat) : Nat :=
  let lo := c.floor line
  s.choose (30 :: line :: about) lo (lo :: s.linePlaces line lo)

/-- Bytes that a BCU reads at a physical address (R183, R216, R408). -/
def State.deviceBytes (s : State) (c : BcuCmd) (about : List Nat) (okey pa n : Nat) : State × List Byte :=
  let s := s.touch .dev pa n
  let b := (keysFrom pa n).map fun k =>
    s.found (31 :: about) k (s.underKey okey k (byteOfWord (s.wordAsOf (k / 4 * 4) (s.deviceLine c about (k / 128))) (k % 4)))
  (s.engineDrop c.token pa n, b)

/-- Bytes of W or of its scales, unless the region table denies them on arrival (R406): then zero bits. Log 36. -/
def State.bmvBytes (s : State) (c : BcuCmd) (about : List Nat) (okey pa n : Nat) : State × List Byte :=
  if s.regionAllows (s.worldOf (s.launch c.launch).asid) pa then s.deviceBytes c about okey pa n
  else ((s.modTok c.token (fun w => w.markDrop true)).count (homeDie pa) 3 1, List.replicate n 0)

/-- Beats of 16 columns. -/
def beatsOf {α : Type} : Nat → List α → List (List α)
  | 0, _ => []
  | n + 1, l => if l.isEmpty then [] else l.take 16 :: beatsOf n (l.drop 16)

/-- One row (R332): elements under their scales, times x, beat by beat. -/
def bmvRow (els : List FVal) (xs : List Nat) : Word × Flags :=
  let ps : List Prod := (els.zip xs).map (fun e => { a := e.1, w := decodeCode 3 e.2, sa := 127, sw := 127 })
  let (r, f) := (beatsOf ps.length ps).foldl (fun (a : FVal × Flags) beat =>
    let (t, g) := groupSum beat
    let (s, h) := a.1.add 0 t
    let r := f32.roundTo 0 s 0
    (f32.decode r.code, a.2 ||| g ||| h ||| r.flags)) (.zero false, 0)
  (BitVec.ofNat 32 (f32.roundTo 0 r 0).code, f)

/-- Elements of row `r` of W with their scales (R176, R331). Log 25. -/
def State.bmvElements (s : State) (c : BcuCmd) (r : Nat) : State × List FVal :=
  match c.pages.find? (fun p => decide (p.1 = c.base / 2 ^ 18 + rowPage c.pitch r)) with
  | none => (s, [])
  | some (_, l) =>
    let w := l.elem.width
    let off := rowOffset c.pitch r
    let (s, b) := s.bmvBytes c [r] l.okey (l.frame + off) ((c.cols * w + 7) / 8)
    let first := off * 8 / w
    if l.block = 0 then (s, l.decodeRun (natOfBytes b) first c.cols (fun _ => 127))
    else
      let lo := l.scaleByte first
      let (s, sb) := s.bmvBytes c [r, 1] l.okey lo (l.scaleByte (first + c.cols - 1) + 1 - lo)
      (s, l.decodeRun (natOfBytes b) first c.cols (fun e => ((sb[l.scaleByte e - lo]?).getD 0).toNat))

/-- x, read once at the start (R213, R333). Log 36. -/
def State.bmvX (s : State) (c : BcuCmd) : State × List Nat :=
  match s.spadKeys (c.wid / 64) c.launch (keysFrom c.x (2 * c.cols)) with
  | .ok ks =>
    let (s, b) := s.readKeys (c.wid / 64) c.token { at_ := c.since, fresh := c.fresh, token := some c.token } 32 ks
    (s, (List.range c.cols).map (fun i => natOfBytes ((b.drop (2 * i)).take 2)))
  | .error _ => (s, List.replicate c.cols 0)

/-- y[i] is written, once (R214, R333); the flag says that the region table denied it. Log 36. -/
def State.bmvPut (s : State) (c : BcuCmd) (i : Nat) (v : Word) : State × Bool :=
  let data := bytesOfNat 4 v.toNat
  let core := c.wid / 64
  if c.global then
    let va := c.y + 4 * i
    match c.ypages.find? (fun p => decide (p.1 = va / 2 ^ 18)) with
    | some (_, l) =>
      if s.regionAllows (s.worldOf (s.launch c.launch).asid) (l.pa va) then ((s.fillSpan l (l.pa va) 4).engineWrite none l.okey (l.pa va) data, false) else (s, true)
    | none => (s, true)
  else
    match s.spadKeys core c.launch (keysFrom (c.y + 4 * i) 4) with
    | .ok ks => (s.writeKeys core ks data, false)
    | .error _ => (s, false)

/-- Replace a command by its number and token. -/
def State.putBcu (s : State) (c : BcuCmd) : State :=
  { s with bcus := s.bcus.map (fun x => if x.token = c.token ∧ x.num = c.num then c else x) }

/-- One row of a BMV is computed and written (R332, R334); a denied write queues one frame for its command. -/
def State.bmvStep (s : State) (c : BcuCmd) (xs : List Nat) (i : Nat) : State × BcuCmd :=
  let (s, els) := s.bmvElements c (c.r0 + i)
  let (v, f) := bmvRow els xs
  let (s, no) := s.bmvPut c i v
  let s := s.modTok c.token (fun w => w.raise f)
  let s := if no && !c.denied then s.engineFrame c.launch c.token 3 4 else s
  (s, { c with left := c.left.filter (fun j => decide (j ≠ i)), denied := c.denied || no })

/-- The device and bank that hold a row of W (R175, R178, R331). -/
def BcuCmd.bankOf (c : BcuCmd) (i : Nat) : Nat × Nat :=
  match c.pages.find? (fun p => decide (p.1 = c.base / 2 ^ 18 + rowPage c.pitch (c.r0 + i))) with
  | some (_, l) => (deviceOf 1 l.frame, bankInDevice (l.frame + rowOffset c.pitch (c.r0 + i)))
  | none => (0, 0)

/-- Rows that may be next: the lowest one left of each bank of each device (R331). -/
def BcuCmd.heads (c : BcuCmd) : List Nat :=
  c.left.filter (fun i => !c.left.any (fun j => decide (j < i) && decide (c.bankOf j = c.bankOf i)))

/-- `n` rows more, in an order that is free among the banks (R331). -/
def State.bmvRows (xs : List Nat) : Nat → State → BcuCmd → State × BcuCmd
  | 0, s, c => (s, c)
  | n + 1, s, c =>
    if c.left.isEmpty then (s, c)
    else
      let i := s.choose [33, c.token, c.num, n] (c.left.headD 0) c.heads
      let (s, c) := s.bmvStep c xs i
      State.bmvRows xs n s c

/-- Ranges of bank-layout pages that a BFENCE.W covers (R335): pages that are not mapped, and other pages, are skipped. -/
def State.fenceRanges (s : State) (c : BcuCmd) (va n : Nat) : List (Nat × Nat × Nat) :=
  (pageRuns va n).filterMap (fun r => match s.walk (s.launch c.launch).asid r.1 with
    | some l => if l.layout = 1 then some (l.pa r.1, l.pa r.1 + r.2, c.since) else none
    | none => none)

/-- Commands of a warp that are complete leave in number order, and BSEQ follows (R334). -/
def State.bcuAdvance : Nat → State → Nat → State
  | 0, s, _ => s
  | n + 1, s, token =>
    match s.bcuOf token with
    | c :: _ =>
      if c.complete then
        let s := { s with bcus := s.bcus.filter (fun x => !(decide (x.token = token) && decide (x.num = c.num))) }
        State.bcuAdvance n (s.modTok token (fun w => { w with bcuSeq := BitVec.ofNat 32 c.num })) token
      else s
    | [] => s

/-- A command has completed. -/
def State.bcuDone (s : State) (c : BcuCmd) : State := ((s.putBcu { c with complete := true }).bcuAdvance 17 c.token)

/-- A BFENCE.W completes: what it wrote back is on its devices for the warp's later commands (R216, R335). -/
def State.fenceDone (s : State) (c : BcuCmd) (va n : Nat) : State :=
  let fs := s.fenceRanges c va n
  let s := s.modTok c.token (fun w => { w with fenced := fs ++ w.fenced })
  let s := { s with bcus := s.bcus.map (fun (x : BcuCmd) => if x.token = c.token then { x with floors := fs ++ x.floors } else x) }
  s.bcuDone c

/-- A command may run (R335, R337): no BFENCE.W of its warp with a lower number is outstanding, and the warp has not been evicted. -/
def State.bcuRuns (s : State) (c : BcuCmd) : Bool :=
  !c.complete && !((s.bcuOf c.token).takeWhile (fun x => decide (x.num ≠ c.num))).any (fun x => x.fence.isSome && !x.complete) &&
    !s.saved.any (fun v => decide (v.byCall = none) && (v.warp.run :: v.warp.help).any (fun w => decide (w.token = c.token)))

/-- A running command goes on: a fence completes, a BMV computes some of its rows and completes with the last (R334). Log 3. -/
def State.bcuStep (s : State) (c : BcuCmd) : State :=
  match c.fence with
  | some (va, n) => s.fenceDone c va n
  | none =>
    if c.n = 0 then s.bcuDone c
    else
      let (s, xs) := match c.xs with
        | some xs => (s, xs)
        | none => s.bmvX c
      let (s, c) := State.bmvRows xs (1 + s.pick [34, c.token, c.num] c.left.length) s { c with xs := some xs }
      if c.left.isEmpty then s.bcuDone c else s.putBcu c

/-- BCU_COMMAND_COMPLETE (R334): a command of a warp slot that may run does. -/
def execBcuCommandComplete (wid : Nat) (s : State) : Host.Outcome State Fault Refusal :=
  .next (match s.bcus.filter (fun c => decide (c.wid = wid) && s.bcuRuns c) with
    | [] => s
    | c :: r => s.bcuStep (s.choose [35, wid] c (c :: r)))

/-! ### Fences and waits (R335, R336) -/

/-- BFENCE.W (R335): one of no bytes publishes and takes no number, so that it waits for no room (R77). Log 36. -/
def execBfenceW (r : RArgs) (s : State) : Host.Outcome State Fault Refusal :=
  onWarp (.bfenceW r) s fun c w =>
    let va := (r.pairA s w c.lead).toNat
    let n := (r.vB s w c.lead).toNat
    if n = 0 then (s.publish c.wid .dev).conclude c []
    else if s.bcuFull w.token then s
    else
      let s := s.publish c.wid .dev
      (s.acceptBcu c w { newBcuCmd c w with fence := some (va, n), since := s.seq }).conclude c []

/-- A wait on BSEQ, or its end at once (R336). -/
def State.bcuWait (s : State) (c : Issue) (kind : WaitKind) (deadline : Option Nat) (dst : Loc) (holds : Bool) : State :=
  let t := Wait.mk' kind deadline dst false
  let s := { s.startWait c c.lanes false t with cur := none }
  if holds then s.finishWait c.wid c.lanes t 0 else s

/-- BSEQ has reached a number (R336). -/
def WarpCore.bcuReached (w : WarpCore) (n : Nat) : Bool := decide ((w.bcuSeq.toNat + 2 ^ 32 - n % 2 ^ 32) % 2 ^ 32 < 2 ^ 31)

/-- BFENCE.R (R335). -/
def execBfenceR (r : RArgs) (s : State) : Host.Outcome State Fault Refusal :=
  onWarp (.bfenceR r) s fun c w => s.orCancel c w fun s c => s.bcuWait c .bcuFence none .none (decide (w.bcuSeq = w.bcuLast))

/-- BMWAIT (R336). -/
def execBmwait (r : RArgs) (s : State) : Host.Outcome State Fault Refusal :=
  onWarp (.bmwait r) s fun c w => s.orCancel c w fun s c =>
    let n := (r.vA s w c.lead).toNat
    s.bcuWait c (.bcu n) (s.deadline (r.vB s w c.lead)) (w.resolve r.d.toNat) (w.bcuReached n)

/-- BMWAIT.all (R336). -/
def execBmwaitAll (r : RArgs) (s : State) : Host.Outcome State Fault Refusal :=
  onWarp (.bmwaitAll r) s fun c w => s.orCancel c w fun s c =>
    s.bcuWait c .bcuAll (s.deadline (r.vB s w c.lead)) (w.resolve r.d.toNat) (decide (w.bcuSeq = w.bcuLast))

/-- BMWAIT.seq (R336). -/
def execBmwaitSeq (r : RArgs) (s : State) : Host.Outcome State Fault Refusal :=
  onWarp (.bmwaitSeq r) s fun c w => (s.giveAll c r.d.toNat [w.bcuSeq]).conclude c []

/-- BMWAIT.last (R336). -/
def execBmwaitLast (r : RArgs) (s : State) : Host.Outcome State Fault Refusal :=
  onWarp (.bmwaitLast r) s fun c w => (s.giveAll c r.d.toNat [w.bcuLast]).conclude c []

end Sys2Proof.Machine
end

