-- ==== Sys2Proof/Machine/Bte.lean ====
section
/-! DEFINITION. The block-transfer engine (R269 to R286): bulk copies, ACP, templates, sync words, status. -/

namespace Sys2Proof.Machine

/-! ### Commands (R271 to R273) -/

/-- Fields of an aperture command value (Table 14-3). -/
structure BteValue where
  sync : Nat
  follow : Nat
  count : Nat
  first : Nat
  tpl : Nat
  deriving DecidableEq, Repr

/-- Read a command value. -/
def bteValue (v : DWord) : BteValue :=
  let n := v.toNat
  { sync := bits n 63 48, follow := bits n 47 40, count := bits n 39 24, first := bits n 23 8, tpl := bits n 7 0 }

/-- Fields of a template (Tables 14-1, 14-2). -/
structure Template where
  flags : Nat
  sstride : Nat
  gstride : Nat
  rowb : Nat
  sbase : Nat
  gbase : Nat
  deriving DecidableEq, Repr

/-- Read a template. -/
def templateOf (t : BitVec 256) : Template :=
  let n := t.toNat
  { flags := bits n 255 224, sstride := bits n 223 192, gstride := bits n 191 128, rowb := bits n 127 96, sbase := bits n 95 64, gbase := bits n 63 0 }

/-- RINGLOG. -/
def Template.ringlog (t : Template) : Nat := bits t.flags 20 16
/-- DIR 1: scratchpad to global. -/
def Template.out (t : Template) : Bool := bit t.flags 12
/-- ARRIVE. -/
def Template.arrive (t : Template) : Bool := bit t.flags 11
/-- GROUP. -/
def Template.group (t : Template) : Nat := bits t.flags 9 0

/-- Every field lies in its range (Tables 14-1, 14-2); the other reserved bits of FLAGS are ignored (R3). Log 32. -/
def Template.ok (t : Template) : Bool :=
  decide (bits t.flags 31 21 = 0) && (decide (t.ringlog = 0) || (decide (10 ≤ t.ringlog) && decide (t.ringlog ≤ 19))) &&
    decide (t.sstride % 4 = 0) && decide (t.gstride % 4 = 0) && decide (4 ≤ t.rowb) && decide (t.rowb ≤ 65536) && decide (t.rowb % 4 = 0) &&
    decide (t.sbase % 4 = 0) && decide (t.gbase % 4 = 0) && decide (t.gbase < 2 ^ 57)

/-- Global address of a row (R273). -/
def Template.rowAddr (t : Template) (r : Nat) : Nat := (t.gbase + r * t.gstride) % 2 ^ 64

/-- Scratchpad offset of byte `b` of a row (R273). -/
def Template.spadOff (t : Template) (r b : Nat) : Nat :=
  if t.ringlog = 0 then (t.sbase + r * t.sstride + b) % 2 ^ 32 else t.sbase + (r * t.sstride + b) % 2 ^ t.ringlog

/-- The template that a launch holds on a core (R271): as its initial-state block gives until one is written. -/
def State.template (s : State) (core launch i : Nat) : BitVec 256 :=
  match (s.core core).templates.find? launch with
  | some t => Map.get 0 t i
  | none => Map.get 0 (s.launch launch).tpls i

/-- Write a template. -/
def State.setTemplate (s : State) (core launch i : Nat) (v : BitVec 256) : State :=
  s.modCore core (fun c => { c with templates := c.templates.insert launch (Map.set 0 ((c.templates.find? launch).getD (s.launch launch).tpls) i v) })

/-- A channel's status of a launch's commands. -/
def State.channel (s : State) (core launch chan : Nat) : Channel :=
  (((s.core core).channels.find? launch).bind (fun t => t.find? chan)).getD { fault := false, orphan := false, detail := 0 }

/-- Change a channel's status. -/
def State.modChannel (s : State) (core launch chan : Nat) (f : Channel → Channel) : State :=
  let x := f (s.channel core launch chan)
  s.modCore core (fun c => { c with channels := c.channels.insert launch (((c.channels.find? launch).getD []).insert chan x) })

/-- The aperture address of a channel (R188). -/
def apertureAddr (chan : Nat) : Nat := 0xFFFFF00000000000 + 64 * chan

/-! ### Queues (R269) -/

/-- Entries of the load queue in use: bulk copies, and one for each ACP with copies in flight. -/
def Core.loadsUsed (c : Core) : Nat :=
  (c.bte.filter (fun x => x.load)).length + ((c.acps.map (·.instr)).eraseDups).length

/-- Entries of the store queue in use. -/
def Core.storesUsed (c : Core) : Nat := (c.bte.filter (fun x => !x.load)).length

/-- A command would take an entry of the load queue (R269, R276). -/
def State.takesLoad (s : State) (core : Nat) (a : ApertureStore) : Bool :=
  let v := bteValue a.value
  decide (64 ≤ v.tpl) || !(templateOf (s.template core a.launch v.tpl)).out

/-- The queue that a command needs has room. -/
def State.bteRoom (s : State) (core : Nat) (a : ApertureStore) : Bool :=
  if s.takesLoad core a then decide ((s.core core).loadsUsed < Config.bteEntries) else decide ((s.core core).storesUsed < Config.bteEntries)

/-- A warp's oldest aperture store finds its queue full: the warp is stalled (R185, R269). -/
def State.apertureStalled (s : State) (wid : Nat) : Bool :=
  match (s.core (wid / 64)).aperture.find? (fun a => decide (a.wid = wid)) with
  | some a => !s.bteRoom (wid / 64) a
  | none => false

/-! ### Completion (R274 to R276) -/

/-- The template of a command, when it has one. -/
def BteCmd.template? (c : BteCmd) : Option Template := if (bteValue c.value).tpl < 64 then some (templateOf c.tpl) else none

/-- A detail code goes to the command's channel. -/
def State.bteDetail (s : State) (core : Nat) (c : BteCmd) (detail : Nat) : State :=
  s.modChannel core c.launch c.chan (fun x => { x with fault := true, detail := detail })

/-- The arrival that a command makes at its end (R274, R276). -/
def State.bteArrive (s : State) (c : BteCmd) : State :=
  match c.template? with
  | some t => if t.arrive && !c.cmdFaults.contains 8 then s.engineArrive t.group else s
  | none => s

/-- The held slot that a command releases at its end (R275, R276). -/
def State.bteRelease (s : State) (core : Nat) (c : BteCmd) : State :=
  let f := (bteValue c.value).follow
  if f = 0 ∨ c.cmdFaults.contains 7 then s
  else
    match s.releaseHeld core c.launch (f - 1) with
    | (s, true) => s.modChannel core c.launch c.chan (fun x => { x with orphan := true })
    | (s, false) => s

/-- The actions of a completed command, in order (R274). -/
def State.bteComplete (s : State) (core : Nat) (c : BteCmd) : State := (s.bteArrive c).bteRelease core c

/-! ### Start (R168, R270) -/

/-- Banks of the core that a command's rows lie in. -/
def State.bteBanks (s : State) (core : Nat) (c : BteCmd) (rows : List Nat) : List Nat :=
  match c.template? with
  | none => []
  | some t =>
    (rows.map (fun r =>
      ((List.range (t.rowb / 4)).map (fun i => t.spadOff r (4 * i) / 65536)).eraseDups.filterMap (fun n => (s.banksOf core c.launch)[n]?))).flatten.eraseDups

/-- Rows of a command. -/
def BteCmd.rows (c : BteCmd) : List Nat := let v := bteValue c.value; (List.range v.count).map (fun i => v.first + i)

/-- Rows not landed. -/
def BteCmd.left (c : BteCmd) : List Nat := c.rows.filter (fun r => !c.landed.contains r)

/-- Commands with no earlier one on their channel, and no bank whose mode is changing, start (R168, R270). -/
def State.startBte (s : State) (core : Nat) : State :=
  let busy (c : BteCmd) : Bool := (s.bteBanks core c c.rows).any (fun b => !(s.bank core b).cfg.isEmpty)
  s.modCore core fun k => { k with bte := k.bte.zipIdx.map fun e =>
    if !e.1.started && !((k.bte.take e.2).any (fun x => decide (x.chan = e.1.chan))) && !busy e.1 then { e.1 with started := true } else e.1 }

/-- Command faults that R276 lists, in the order of their detail codes. -/
def State.bteFaults (s : State) (core : Nat) (a : ApertureStore) (tpl : BitVec 256) : List Nat :=
  let v := bteValue a.value
  let t := templateOf tpl
  (if 64 ≤ v.tpl ∨ !t.ok then [1] else []) ++
  (if v.sync ≠ 0xFFFF ∧ (s.syncFail core a.launch (v.sync * 8)).isSome then [6] else []) ++
  (if 17 ≤ v.follow then [7] else []) ++
  (if v.tpl < 64 ∧ t.arrive ∧ !s.groupOf (s.launch a.launch).asid t.group then [8] else [])

/-- A command is accepted (R269, R271, R276): it takes its entry with a copy of its template; a command fault is reported now, and COUNT 0 completes now. DESIGN CHOICE (log 32): where several command faults hold at once, the channel records the lowest of their detail codes, since R276 gives no order. -/
def State.acceptBte (s : State) (core : Nat) (a : ApertureStore) : State :=
  let v := bteValue a.value
  let tpl := if v.tpl < 64 then s.template core a.launch v.tpl else 0
  let faults := s.bteFaults core a tpl
  let c : BteCmd :=
    { id := (s.core core).bteNext, chan := a.chan, value := a.value, wid := a.wid, token := a.token, launch := a.launch, tpl := tpl, load := s.takesLoad core a, since := a.since, fresh := a.fresh,
      landed := [], started := false, cmdFaults := faults, faulted := !faults.isEmpty }
  let s := match faults with
    | [] => s
    | d :: _ => (s.bteDetail core c d).engineFrame c.launch c.token 1 (apertureAddr c.chan)
  let s := if v.sync = 0xFFFF ∨ faults.contains 6 then s else s.nameSync core a.launch (v.sync * 8)
  if v.count = 0 then s.bteComplete core c
  else (s.modCore core (fun k => { k with bte := k.bte ++ [c], bteNext := k.bteNext + 1 })).startBte core

/-- The BTE accepts the warp's aperture stores, at most `n`, in order, while their queues have room (R269). -/
def State.acceptOwn (core wid : Nat) : Nat → State → State
  | 0, s => s
  | n + 1, s =>
    match (s.core core).aperture.find? (fun a => decide (a.wid = wid)) with
    | none => s
    | some a =>
      if s.bteRoom core a then State.acceptOwn core wid n ((s.modCore core (fun k => { k with aperture := k.aperture.erase a })).acceptBte core a)
      else s

/-- BTE_BULK_COPY (R269, R272): the BTE accepts the warp's oldest aperture store, when its queue has room. Log 49. -/
def execBteBulkCopy (wid : Nat) (s : State) : Host.Outcome State Fault Refusal :=
  .next (State.acceptOwn (wid / 64) wid 1 s)

/-! ### Rows (R270, R273, R274, R276) -/

/-- Detail code of a failed global access at an address (Table 14-4): 4 also where an entry of the page table breaks a rule of its layout or of its typed attributes (R15, R175, R176). -/
def State.bteDetailOf (s : State) (asid va : Nat) : AccErr → Nat
  | .missing => if s.badAttr asid va then 4 else 3
  | .rights => 4
  | .world => 5

/-- How a bulk copy's reads see its issue (R213). -/
def BteCmd.sinceOf (c : BteCmd) : Since := { at_ := c.since, fresh := c.fresh, token := some c.token }

/-- One row moves, or is not written at all: its detail code and first failing address (R273, R276). Log 32. -/
def State.moveRow (s : State) (core : Nat) (c : BteCmd) (t : Template) (r : Nat) : State × Option (Nat × Nat) :=
  let asid := (s.launch c.launch).asid
  let g := t.rowAddr r
  let offs := (List.range t.rowb).map (t.spadOff r)
  let (s, ps) := s.pieces (.core core) asid (if t.out then .store else .load) g t.rowb
  match ps, s.spadKeys core c.launch offs with
  | .ok ps, .ok ks =>
    if t.out then
      let (s, data) := s.readKeys core c.token c.sinceOf (2 ^ 20 + r) ks
      (s.writePieces (some core) data ps, none)
    else
      let (s, data) := s.readPieces (.core core) c.token c.sinceOf (2 ^ 20 + r) ps
      (s.writeKeys core ks data, none)
  | .error (e, a), .ok _ => (s, some (s.bteDetailOf asid a e, a))
  | .ok _, .error o => (s, some (2, o))
  | .error (e, a), .error o =>
    let b := offs.idxOf o
    if t.out && decide (b ≤ a - g) then (s, some (2, o))
    else if !t.out && decide (b < a - g) then (s, some (2, o))
    else (s, some (s.bteDetailOf asid a e, a))

/-- A row's bytes reach the sync word (R274, R276, R414). -/
def State.bteSync (s : State) (core : Nat) (c : BteCmd) : State :=
  let v := bteValue c.value
  match c.template? with
  | none => s
  | some t =>
    if v.sync = 0xFFFF ∨ c.cmdFaults.contains 6 then s
    else
      match s.syncArrive core c.launch (v.sync * 8) t.rowb with
      | (s, none) => s
      | (s, some o) => (s.bteDetail core c 6).engineFrame c.launch c.token 1 o

/-- A row faulted (R276): the channel notes it, and the first fault of the command queues a frame. Log 32. -/
def State.rowFault (s : State) (core : Nat) (c : BteCmd) (detail addr : Nat) : State :=
  let s := s.bteDetail core c detail
  if c.faulted then s else s.engineFrame c.launch c.token 1 addr

/-- A row of a started command lands (R270, R274): its bytes, its units, and with the last row the completion. Log 32. -/
def State.landRow (s : State) (core : Nat) (c : BteCmd) (r : Nat) : State :=
  let (s, bad) := match c.template? with
    | some t => if c.cmdFaults.isEmpty then s.moveRow core c t r else (s, none)
    | none => (s, none)
  let s := match bad with
    | some (d, a) => s.rowFault core c d a
    | none => s
  let s := s.bteSync core c
  let c' := { c with landed := r :: c.landed, faulted := c.faulted || bad.isSome }
  if c'.left.isEmpty then
    let s := s.bteComplete core c
    (s.modCore core (fun k => { k with bte := k.bte.filter (fun x => decide (x.id ≠ c.id)) })).startBte core
  else s.modCore core (fun k => { k with bte := k.bte.map (fun x => if x.id = c.id then c' else x) })

/-- BTE_ROW_LAND (R274): a row of the oldest started command of the channel that has that row to land; a command whose predecessors have started may start with it (R270). -/
def execBteRowLand (core chan row : Nat) (s : State) : Host.Outcome State Fault Refusal :=
  let mine := (s.core core).bte.filter (fun c => decide (c.chan = chan))
  let ready := mine.takeWhile (fun c => c.started)
  let next := (mine.drop ready.length).head?
  .next (match ready.find? (fun c => c.left.contains row), next with
    | some c, _ => s.landRow core c row
    | none, some c =>
      if !ready.isEmpty && !((s.bteBanks core c c.rows).any (fun b => !(s.bank core b).cfg.isEmpty)) then
        s.modCore core (fun k => { k with bte := k.bte.map (fun x => if x.id = c.id then { c with started := true } else x) })
      else s
    | none, none => s)

/-! ### ACP (R279, R280) -/

/-- What one lane of an ACP copies. -/
structure AcpLane where
  lane : Nat
  key : Nat
  src : List (Leaf × Nat × Nat)
  deriving DecidableEq, Repr

/-- One lane's checks (R279), in order: nothing for a negative count. -/
def State.acpLane (s : State) (w : WarpCore) (r : RArgs) (l : Nat) : State × Except Trap (Option AcpLane) :=
  let n := (r.vB s w l).toInt
  if n < 0 then (s, .ok none)
  else
    let o := (r.vD s w l).toNat
    if o % 32 ≠ 0 then (s, .error (trapAt .align o))
    else
      match s.spadFail w.core w.launch o 32, s.spadByte w.core w.launch o with
      | some f, _ => (s, .error (trapAt .spadBounds f))
      | none, none => (s, .error (trapAt .spadBounds o))
      | none, some key =>
        let m := min n.toNat 32
        let a := (r.pairA s w l).toNat
        if m = 0 then (s, .ok (some { lane := l, key := key, src := [] }))
        else if inAperture a m then (s, .error { cause := .protection, subcode := 0, faddr := a })
        else if a % 4 ≠ 0 then (s, .error (trapAt .align a))
        else
          match s.pieces w.party (s.asidOf w) .load a m with
          | (s, .error (e, at_)) => (s, .error (e.trap .load at_))
          | (s, .ok ps) => (s, .ok (some { lane := l, key := key, src := ps.map (fun p => (p.leaf, p.pa, p.len)) }))

/-- The lanes of an ACP in ascending order: faults and copies. -/
def State.acpLanes (s : State) (w : WarpCore) (r : RArgs) (ls : List Nat) : State × List (Nat × Trap) × List AcpLane :=
  ls.foldl (fun a l =>
    match a.1.acpLane w r l with
    | (s, .error t) => (s, a.2.1 ++ [(l, t)], a.2.2)
    | (s, .ok none) => (s, a.2.1, a.2.2)
    | (s, .ok (some x)) => (s, a.2.1, a.2.2 ++ [x])) (s, [], [])

/-- ACP (R279): one load-queue entry for all of its lanes; a full queue stalls the warp. The warp's earlier aperture stores are accepted first (R269), and its earlier scratchpad stores take their place (R287). -/
def execAcp (r : RArgs) (s : State) : Host.Outcome State Fault Refusal :=
  onWarp (.acp r) s fun c w =>
    let s := State.acceptOwn w.core c.wid (s.core w.core).aperture.length s
    let k := s.core w.core
    if decide (Config.bteEntries ≤ k.loadsUsed) || k.aperture.any (fun a => decide (a.wid = c.wid)) then s
    else if s.anyBusy w ((lanesOf c.lanes).map (fun l => (r.vD s w l).toNat)) then
      s.holdAccess c (s.busyBank w ((lanesOf c.lanes).map (fun l => (r.vD s w l).toNat)))
    else
      let tag := sub r.px % 8
      let s := s.drainBank c.wid
      let (s, faults, got) := s.acpLanes w r (lanesOf c.lanes)
      let mk (x : AcpLane) : AcpCopy :=
        { token := w.token, lane := x.lane, tag := tag, key := x.key, src := x.src, since := s.seq, instr := k.acpNext }
      let s := s.modCore w.core (fun k => { k with acps := k.acps ++ got.map mk, acpNext := k.acpNext + 1 })
      let s := s.modRun c.wid (fun w => { w with tags := Map.set 0 w.tags tag (Map.get 0 w.tags tag + got.length) })
      s.conclude c faults

/-- ACP_LAND (R279): a copy lands, unless an earlier one of its warp to the same bytes is outstanding. -/
def execAcpLand (core idx : Nat) (s : State) : Host.Outcome State Fault Refusal :=
  .next (match (s.core core).acps[idx]? with
    | none => s
    | some x =>
      if ((s.core core).acps.take idx).any (fun y => decide (y.token = x.token) && decide (y.key = x.key)) then s
      else
        let (s, data) := x.src.foldl (fun a p =>
          let s := (a.1.touch (.core core) p.2.1 p.2.2).fillSpan p.1 p.2.1 p.2.2
          (s.engineDrop x.token p.2.1 p.2.2,
            a.2 ++ s.engineBytes .dev { at_ := x.since, fresh := 0, token := none } [21, x.instr, x.lane] p.1.okey p.2.1 p.2.2)) (s, [])
        let s := s.engineWrite (some core) 0 x.key (data ++ List.replicate (32 - data.length) 0)
        let s := s.modCore core (fun k => { k with acps := k.acps.eraseIdx idx })
        s.modTok x.token (fun w => { w with tags := Map.set 0 w.tags x.tag (Map.get 0 w.tags x.tag - 1) }))

/-- Every tag counter named in a mask is zero (R280): bit t names tag t, as line 40 of the program of chapter 15 does. A row of Table 14-8 lets a wait on mask 0x02 end with tag 1 outstanding, which no reading of R280 gives. Log 55. -/
def WarpCore.tagsClear (w : WarpCore) (mask : Nat) : Bool := (List.range 8).all (fun t => !bit mask t || decide (Map.get 0 w.tags t = 0))

/-- ACPWAIT (R280). -/
def execAcpwait (r : RArgs) (s : State) : Host.Outcome State Fault Refusal :=
  onWarp (.acpwait r) s fun c w => s.orCancel c w fun s c =>
    let mask := (r.vA s w c.lead).toNat % 256
    let t := Wait.mk' (.acp mask) none (w.resolve r.d.toNat) true
    let s := { s.startWait c c.lanes false t with cur := none }
    if w.tagsClear mask then s.finishWait c.wid c.lanes t 0 else s

/-! ### TPLSET, SWINIT, SYNCW, BTESTAT -/

/-- A scratchpad range that an engine instruction names, with its precise faults (R281 to R283): its key. -/
def State.spadRange (s : State) (w : WarpCore) (off align n : Nat) : Except Trap (List Nat) :=
  if off % align ≠ 0 then .error (trapAt .align off)
  else
    match s.spadKeys w.core w.launch (keysFrom off n) with
    | .error o => .error (trapAt .spadBounds o)
    | .ok ks => .ok ks

/-- TPLSET (R281). -/
def execTplset (r : RArgs) (s : State) : Host.Outcome State Fault Refusal :=
  onWarp (.tplset r) s fun c w =>
    let off := (r.vB s w c.lead).toNat
    if s.bankBusy w off || s.bankBusy w (off + 31) then s.holdAccess c (s.busyBank w [off, off + 31])
    else
      match s.spadRange w off 16 32 with
      | .error t => s.trapAll c t
      | .ok ks =>
        let s := s.drainBank c.wid
        let (s, data) := s.readKeys w.core w.token { at_ := s.seq, fresh := w.refresh, token := some w.token } 22 ks
        (s.setTemplate w.core w.launch ((r.vA s w c.lead).toNat % 64) (BitVec.ofNat 256 (natOfBytes data))).conclude c []

/-- SWINIT (R282). Log 33. -/
def execSwinit (r : RArgs) (s : State) : Host.Outcome State Fault Refusal :=
  onWarp (.swinit r) s fun c w =>
    let off := (r.vA s w c.lead).toNat
    if s.bankBusy w off then s.holdAccess c (s.busyBank w [off])
    else
      match s.spadRange w off 16 16 with
      | .error t => s.trapAll c t
      | .ok ks =>
        let k := ks.headD 0
        let s := s.ownFirst c.wid k 16
        let s := s.homeWrite w.writer .core none 0 k (bytesOfNat 4 (r.vB s w c.lead).toNat ++ bytesOfNat 4 0)
        { s with syncs := k :: s.syncs.filter (fun x => decide (x ≠ k)) }.conclude c []

/-- SYNCW (R283): armed at the bank as a scratchpad WAITL, on GEN. -/
def execSyncw (r : RArgs) (s : State) : Host.Outcome State Fault Refusal :=
  onWarp (.syncw r) s fun c w => s.orCancel c w fun s c =>
    let dst := w.resolve r.d.toNat
    if s.anyBusy w ((lanesOf c.lanes).map (fun l => (r.vA s w l).toNat)) then s.holdAccess c (s.busyBank w ((lanesOf c.lanes).map (fun l => (r.vA s w l).toNat)))
    else
      let (s, faults, asks) := s.askLanes (lanesOf c.lanes) fun s l =>
        let off := (r.vA s w l).toNat
        match s.spadRange w off 16 16 with
        | .error t => (s, .error t)
        | .ok ks =>
          let k := ks.headD 0 + 8
          ((s.noteSync (ks.headD 0)).ownFirst c.wid k 4, .ok { key := k, okey := 0, va := off, operand := (r.vB s w l).toNat, timeout := r.vB1 s w l })
      let s := (groupAsks asks).foldl (fun s g =>
        let (s, id) := s.startAsk c w .warp false 8 dst false false g.1 g.2
        s.armNow id) s
      s.concludePlaced c faults

/-- Channel status (Table 14-6). DESIGN CHOICE (log 32): QUEUED, for which the table gives 0 to 16 in five bits, is the number of the channel's commands modulo 32, of which a channel can hold 16 loads and 16 stores. -/
def State.channelStatus (s : State) (core launch chan : Nat) : Word :=
  let mine := (s.core core).bte.filter (fun c => decide (c.launch = launch) && decide (c.chan = chan))
  let x := s.channel core launch chan
  let running := mine.find? (fun c => c.started)
  let left := match running with | some c => c.left.length | none => 0
  let b (v : Bool) (i : Nat) : Nat := if v then 2 ^ i else 0
  BitVec.ofNat 32 (b running.isSome 31 + b x.fault 30 + b x.orphan 29 + mine.length % 32 * 2 ^ 24 + x.detail % 256 * 2 ^ 16 + left % 65536)

/-- BTESTAT: channel, queue or tag status (R284). -/
def execBtestat (r : RArgs) (s : State) : Host.Outcome State Fault Refusal :=
  onWarp (.btestat r) s fun c w =>
    let n := (r.vA s w c.lead).toNat % 8
    let k := s.core w.core
    let v : Word :=
      if sub r.px = 0 then s.channelStatus w.core w.launch n
      else if sub r.px = 1 then BitVec.ofNat 32 (Config.bteEntries - k.loadsUsed + (Config.bteEntries - k.storesUsed) * 256)
      else BitVec.ofNat 32 (Map.get 0 w.tags n % 1024)
    (s.giveAll c r.d.toNat [v]).conclude c []

/-- BTESTAT.clr (R284): the status of a channel, and then FAULT, ORPHAN and DETAIL are cleared. -/
def execBtestatClr (r : RArgs) (s : State) : Host.Outcome State Fault Refusal :=
  onWarp (.btestatClr r) s fun c w =>
    let n := (r.vA s w c.lead).toNat % 8
    let v := s.channelStatus w.core w.launch n
    let s := s.giveAll c r.d.toNat [v]
    (s.modChannel w.core w.launch n (fun _ => { fault := false, orphan := false, detail := 0 })).conclude c []

end Sys2Proof.Machine
end

