-- ==== Sys2Proof/Machine/Fifo.lean ====
section
/-! DEFINITION. FIFO banks and BANKCFG (R168, R169, R194, R196). The change of mode itself is in BankMode. -/

namespace Sys2Proof.Machine

/-- The FIFO bank that an offset names, or the trap (R167, R194). -/
def State.fifoBank (s : State) (w : WarpCore) (off : Nat) : Except Trap Nat :=
  if off % 65536 ≠ 0 ∨ (s.launch w.launch).spad ≤ off then .error (trapAt .spadBounds off)
  else
    match s.bankAt w.core w.launch off with
    | some b => if (s.bank w.core b).mode = .fifo then .ok b else .error (trapAt .spadBounds off)
    | none => .error (trapAt .spadBounds off)

/-- Entries of a FIFO bank (R165). -/
def fifoEntries : Nat := 16384

/-- The number that a bank has in the launch that owns it (R166). -/
def State.bankNo (s : State) (core b : Nat) : Nat :=
  match (s.bank core b).owner with
  | some l => (s.banksOf core l).idxOf b
  | none => 0

/-- A waiting lane of a FIFO bank is served (R169): its code, and the entry an FPOP receives. -/
def State.serveLane (s : State) (x : FifoWaiter) (core b code : Nat) (v : Word) : State :=
  let n := s.bankNo core b
  let s := { s with marks := s.marks + 1 }
  let s := s.modTok x.token (fun w => { w with frontier := w.frontier.map fun e =>
    match e.state with
    | .wait bar t =>
      if hasLane e.lanes x.lane && decide (t.kind = .fifo n x.push) && t.code.isNone then
        { e with state := .wait bar { t with code := some code, val := v.setWidth 64 } }
      else e
    | _ => e })
  { s with saved := s.saved.map (fun v => if v.warp.run.token = x.token then { v with marked := some (v.marked.getD s.marks) } else v) }

/-- Serve the lanes that wait at a FIFO bank, oldest first, as far as entries or room allow (R169); `fuel` is at least their number. -/
def State.serveFifo : Nat → State → Nat → Nat → State
  | 0, s, _, _ => s
  | n + 1, s, core, b =>
    let k := s.bank core b
    match k.waiters with
    | [] => s
    | x :: rest =>
      if x.push then
        if k.fifo.length < fifoEntries then
          let s := s.modBank core b (fun k => { k with fifo := k.fifo ++ [x.value], waiters := rest })
          State.serveFifo n (s.serveLane x core b 1 0) core b
        else s
      else
        match k.fifo with
        | [] => s
        | v :: q =>
          let s := s.modBank core b (fun k => { k with fifo := q, head := (k.head + 1) % fifoEntries, waiters := rest })
          State.serveFifo n (s.serveLane x core b 1 v) core b

/-- Serve every lane that waits at a bank. -/
def State.serveBank (s : State) (core b : Nat) : State := State.serveFifo (s.bank core b).waiters.length s core b

/-- A lane starts to wait at a FIFO bank, in an entry of its own, since lanes are served one by one (R169). DESIGN CHOICE (log 48): it waits at the bank, and takes none of its core's 64 monitor entries (R12, R235). -/
def State.fifoWait (s : State) (c : Issue) (w : WarpCore) (b l : Nat) (push : Bool) (dst : Loc) (v : Word) : State :=
  let s := s.modBank w.core b (fun k => { k with waiters := k.waiters ++ [{ token := w.token, lane := l, push := push, value := v }] })
  s.startWait c (laneBit l) false (Wait.mk' (.fifo (s.bankNo w.core b) push) none dst true)

/-- FPUSH (R194), once no BANKCFG of its bank is pending (R168): lanes in ascending order while there is room; the others wait. -/
def execFpush (r : RArgs) (s : State) : Host.Outcome State Fault Refusal :=
  onWarp (.fpush r) s fun c w => s.orCancel c w fun s c =>
    if s.bankBusy w (r.pairA s w c.lead).toNat then s.holdAccess c (s.busyBank w [(r.pairA s w c.lead).toNat])
    else
      match s.fifoBank w (r.pairA s w c.lead).toNat with
      | .error t => s.trapAll c t
      | .ok b =>
        let k := s.bank w.core b
        let room := if k.waiters.any (fun x => x.push) then 0 else fifoEntries - k.fifo.length
        let vals := (lanesOf c.lanes).map (fun l => (l, r.vB s w l))
        let now := vals.take room
        let later := vals.drop room
        let dst := w.resolve r.d.toNat
        let s := s.modBank w.core b (fun k => { k with fifo := k.fifo ++ now.map Prod.snd })
        let s := s.modRun c.wid (fun w => WarpCore.writeLanes s w dst (now.map (fun e => (e.1, 0))))
        let s := later.foldl (fun s e => s.fifoWait c w b e.1 true dst e.2) s
        ({ s.advance c (maskOf (now.map Prod.fst)) with cur := none }).serveBank w.core b

/-- FPOP (R194), once no BANKCFG of its bank is pending (R168): lanes in ascending order while there are entries; the others wait. -/
def execFpop (r : RArgs) (s : State) : Host.Outcome State Fault Refusal :=
  onWarp (.fpop r) s fun c w => s.orCancel c w fun s c =>
    if s.bankBusy w (r.pairA s w c.lead).toNat then s.holdAccess c (s.busyBank w [(r.pairA s w c.lead).toNat])
    else
      match s.fifoBank w (r.pairA s w c.lead).toNat with
      | .error t => s.trapAll c t
      | .ok b =>
        let k := s.bank w.core b
        let have_ := if k.waiters.any (fun x => !x.push) then [] else k.fifo
        let got := (lanesOf c.lanes).zip have_
        let later := (lanesOf c.lanes).drop have_.length
        let dst := w.resolve r.d.toNat
        let s := s.modBank w.core b (fun k => { k with fifo := k.fifo.drop got.length, head := (k.head + got.length) % fifoEntries })
        let s := s.modRun c.wid (fun w => WarpCore.writeRun s w r.d.toNat (got.map (fun e => (e.1, [e.2, 0]))))
        let s := later.foldl (fun s l => s.fifoWait c w b l false dst 0) s
        ({ s.advance c (maskOf (got.map Prod.fst)) with cur := none }).serveBank w.core b

/-- Bank mode by the code of BANKCFG (R196). -/
def bankModeOf (n : Nat) : BankMode := if n = 0 then .cache else if n = 1 then .spad else .fifo

/-- BANKCFG (R168, R196): a bank that the launch owns; the lanes wait until it is idle and changed. The same mode completes at once. -/
def execBankcfg (r : RArgs) (s : State) : Host.Outcome State Fault Refusal :=
  onWarp (.bankcfg r) s fun c w => s.orCancel c w fun s c =>
    let off := (r.vA s w c.lead).toNat
    match s.bankAt w.core w.launch off with
    | none => s.trapAll c (trapAt .spadBounds off)
    | some b =>
      let mode := bankModeOf (sub r.px)
      let k := s.bank w.core b
      if k.cfg.isEmpty && decide (k.mode = mode) then
        (s.boundary c.wid .core true).conclude c []
      else
        let n := s.marks + 1
        let s := { s with marks := n }
        let s := s.modBank w.core b (fun k => { k with cfg := k.cfg ++ [(w.token, n, mode)] })
        { s.startWait c c.lanes false { Wait.mk' (.bankcfg (s.bankNo w.core b)) none .none true with val := BitVec.ofNat 64 n } with cur := none }

end Sys2Proof.Machine
end

