-- ==== Sys2Proof/Machine/Seam.lean ====
section
/-! DEFINITION. Seam and Xanlink (R348 to R362): commands over index lists, rows served at their owners, duplicates, the links, and the failure of a module. -/

namespace Sys2Proof.Machine

/-! ### Descriptors (Table 21-1) -/

/-- Fields of a table descriptor. -/
structure SeamDesc where
  epoch : Nat
  dispatch : Nat
  arrive : Bool
  group : Nat
  sync : Nat
  elem : Nat
  shard : Bool
  modBase : Nat
  nrows : Nat
  gstride : Nat
  rowb : Nat
  table : Nat
  deriving DecidableEq, Repr

/-- Read a descriptor. -/
def seamDesc (d : BitVec 512) : SeamDesc :=
  let n := d.toNat
  { epoch := bits n 319 304, dispatch := bits n 303 288, arrive := bit n 282, group := bits n 281 272, sync := bits n 271 256, elem := bits n 239 238,
    shard := bit n 237, modBase := bits n 236 224, nrows := bits n 223 192, gstride := bits n 191 128, rowb := bits n 95 64, table := bits n 63 0 }

/-- Reserved bits of a descriptor are zero. -/
def seamReserved (d : BitVec 512) : Bool :=
  let n := d.toNat
  decide (bits n 511 320 = 0) && decide (bits n 287 283 = 0) && decide (bits n 255 240 = 0) && decide (bits n 127 96 = 0)

/-- ROWB, GSTRIDE, TABLE and NROWS lie in their ranges. -/
def SeamDesc.ok (d : SeamDesc) : Bool :=
  decide (4 ≤ d.rowb) && decide (d.rowb ≤ 4096) && decide (d.rowb % 4 = 0) && decide (d.gstride % 4 = 0) && decide (d.table % 4 = 0) &&
    decide (d.table < 2 ^ 57) && decide (1 ≤ d.nrows)

/-- A command's descriptor. -/
def SeamCmd.d (c : SeamCmd) : SeamDesc := seamDesc c.desc

/-- Core of a command. -/
def SeamCmd.core (c : SeamCmd) : Nat := c.wid / 64

/-! ### Seams -/

/-- The Seam of a die. -/
def State.seam (s : State) (die : Nat) : Seam := (s.seams.find? die).getD Seam.atReset

/-- Change a Seam. -/
def State.modSeam (s : State) (die : Nat) (f : Seam → Seam) : State := { s with seams := s.seams.insert die (f (s.seam die)) }

/-- A command of a Seam by its number. -/
def State.seamCmd (s : State) (die id : Nat) : Option SeamCmd := (s.seam die).cmds.find? (fun c => decide (c.id = id))

/-- Replace a command. -/
def State.putSeam (s : State) (die : Nat) (c : SeamCmd) : State :=
  s.modSeam die (fun x => { x with cmds := x.cmds.map (fun y => if y.id = c.id then c else y) })

/-- ASID of a command. -/
def State.seamAsid (s : State) (c : SeamCmd) : Nat := (s.launch c.launch).asid

/-- A context has commands at a Seam. -/
def State.seamBusy (s : State) (die asid : Nat) : Bool := (s.seam die).cmds.any (fun c => decide (s.seamAsid c = asid))

/-- The earlier resident context gives up its state, its duplicate counter with it, once a third waits and its commands are complete; the one that waits takes its place (R356). Log 38. -/
def State.seamRelease (s : State) (die : Nat) : State :=
  let x := s.seam die
  match x.resident with
  | a :: rest =>
    if x.closing && !s.seamBusy die a then
      s.modSeam die (fun x => { x with resident := rest ++ x.waiting.toList, closing := false, waiting := none, dups := x.dups.erase a })
    else s
  | [] => s

/-- May a command of a context enter (R356)? The state notes a third context that waits; with it, whether the context is resident now. -/
def State.seamEnter (s : State) (die asid : Nat) : State × Bool :=
  let x := s.seam die
  if x.resident.contains asid then (s, !(x.closing && decide (x.resident.head? = some asid)))
  else if x.resident.length < 2 then (s.modSeam die (fun x => { x with resident := x.resident ++ [asid] }), true)
  else
    let s := (s.modSeam die (fun x => { x with closing := true, waiting := some (x.waiting.getD asid) })).seamRelease die
    (s, (s.seam die).resident.contains asid)

/-! ### Completion (R354) -/

/-- The actions of a completed command, in order (R354, R414). -/
def State.seamComplete (s : State) (die : Nat) (c : SeamCmd) : State :=
  let d := c.d
  let s :=
    if d.sync = 0xFFFF ∨ (s.launches.find? c.launch).isNone then s
    else
      match s.syncArrive c.core c.launch (d.sync * 8) c.count with
      | (s, none) => s
      | (s, some o) => s.engineFrame c.launch c.token 5 o
  let s := if d.arrive then s.engineArrive d.group else s
  let s := s.modTok c.token (fun w => { w with seamOut := w.seamOut - 1 })
  (s.modSeam die (fun x => { x with cmds := x.cmds.filter (fun y => decide (y.id ≠ c.id)) })).seamRelease die

/-! ### Instructions (R350) -/

/-- A trap of a Seam command (R355). -/
def seamTrap (detail : Nat) : Trap := { cause := .engineFault, subcode := 5, faddr := detail }

/-- Descriptor faults (Table 21-2). -/
def State.seamFault (s : State) (w : WarpCore) (op count : Nat) (desc : BitVec 512) : Option Nat :=
  let d := seamDesc desc
  if !seamReserved desc || !d.ok || decide (65536 < count) then some 1
  else if decide (op = 2) && decide (2 ≤ d.elem) then some 2
  else if (decide (d.sync ≠ 0xFFFF) && (s.syncFail w.core w.launch (d.sync * 8)).isSome) || (d.arrive && !s.groupOf (s.asidOf w) d.group) then some 3
  else none

/-- First offset outside R167 of a long range; no launch has more than 2^20 bytes. -/
def State.spadRangeFail (s : State) (w : WarpCore) (off n : Nat) : Option Nat := s.spadFail w.core w.launch off (min n (2 ^ 20))

/-- Alignment faults of a Seam command (R350). -/
def seamAlign (r : RArgs) (s : State) (w : WarpCore) (l : Nat) : Option Trap :=
  let buf := (r.vD s w l).toNat
  let at_ := (r.vA s w l).toNat
  let list := (r.vB s w l).toNat
  if buf % 4 ≠ 0 then some (trapAt .align buf) else if at_ % 16 ≠ 0 then some (trapAt .align at_) else if list % 4 ≠ 0 then some (trapAt .align list) else none

/-- Offsets of the descriptor and of the list. -/
def seamSpan (s : State) (w : WarpCore) (r : RArgs) (l : Nat) : List Nat :=
  keysFrom (r.vA s w l).toNat 64 ++ keysFrom (r.vB s w l).toNat (min (4 * (r.vB1 s w l).toNat) (2 ^ 20))

/-- A BANKCFG has issued on the bank of the descriptor or of a list word. -/
def State.seamBanksBusy (s : State) (w : WarpCore) (r : RArgs) (l : Nat) : Bool := s.anyBusy w (seamSpan s w r l)

/-- Offsets of the row buffer. -/
def SeamCmd.bufSpan (cmd : SeamCmd) : List Nat := keysFrom cmd.buf (min (cmd.count * cmd.d.rowb) (2 ^ 20))

/-- What a Seam command checks, with the command that it asks for (R349, R350, Table 21-2): its descriptor is read after its warp's scratchpad stores. -/
def State.seamAsk (op : Nat) (r : RArgs) (s : State) (c : Issue) (w : WarpCore) : State × Except Trap SeamCmd :=
  let l := c.lead
  let buf := (r.vD s w l).toNat
  let list := (r.vB s w l).toNat
  let count := (r.vB1 s w l).toNat
  match s.spadKeys w.core w.launch (keysFrom (r.vA s w l).toNat 64) with
  | .error o => (s, .error (trapAt .spadBounds o))
  | .ok ks =>
    let s := s.drainBank c.wid
    let (s, b) := s.readKeys w.core w.token { at_ := s.seq, fresh := w.refresh, token := some w.token } 39 ks
    let desc : BitVec 512 := BitVec.ofNat 512 (natOfBytes b)
    match s.spadRangeFail w list (4 * count), s.spadRangeFail w buf (count * (seamDesc desc).rowb) with
    | some o, _ => (s, .error (trapAt .spadBounds o))
    | none, some o => (s, .error (trapAt .spadBounds o))
    | none, none =>
      match s.seamFault w op count desc with
      | some d => (s, .error (seamTrap d))
      | none => (s, .ok { id := 0, op := op, wid := c.wid, token := w.token, launch := w.launch, desc := desc, buf := buf, list := list, count := count,
                          since := s.seq, fresh := w.refresh, index := [], sent := [], served := [], landed := [], faulted := false })

/-- A Seam has no room for a command: its bytes are in a bank that changes, its warp has 16 outstanding, or the Seam 64 (R356). -/
def State.seamFull (s : State) (w : WarpCore) (cmd : SeamCmd) : Bool :=
  s.anyBusy w cmd.bufSpan || decide (16 ≤ w.seamOut) || decide (64 ≤ (s.seam (dieOf w.core)).cmds.length)

/-- A command enters its Seam, and names its sync word (R277); one of no entries completes at once (R354). -/
def State.seamAccept (s : State) (die : Nat) (cmd : SeamCmd) : State :=
  let cmd := { cmd with id := (s.seam die).next }
  let s := s.modSeam die (fun x => { x with cmds := x.cmds ++ [cmd], next := x.next + 1 })
  let s := s.modRun cmd.wid (fun w => { w with seamOut := w.seamOut + 1 })
  let s := if cmd.d.sync = 0xFFFF then s else s.nameSync cmd.core cmd.launch (cmd.d.sync * 8)
  if cmd.count = 0 then s.seamComplete die cmd else s

/-- GATHER, SCATTER and SCATADD (R348 to R350, R356): checks, then the warp stalls or its command is accepted. -/
def seamCommand (i : Instr) (op : Nat) (r : RArgs) (s : State) : Host.Outcome State Fault Refusal :=
  onWarp i s fun c w =>
    match seamAlign r s w c.lead with
    | some t => s.trapAll c t
    | none =>
      if s.seamBanksBusy w r c.lead then s.holdAccess c (s.busyBank w (seamSpan s w r c.lead))
      else
        match s.seamAsk op r c w with
        | (s, .error t) => s.trapAll c t
        | (s, .ok cmd) =>
          if s.anyBusy w cmd.bufSpan then s.holdAccess c (s.busyBank w cmd.bufSpan)
          else if s.seamFull w cmd then s
          else
            match s.seamEnter (dieOf w.core) (s.asidOf w) with
            | (s, false) => s
            | (s, true) => (s.seamAccept (dieOf w.core) cmd).conclude c []

/-- GATHER (R352). -/
def execGather (r : RArgs) (s : State) : Host.Outcome State Fault Refusal := seamCommand (.gather r) 0 r s
/-- SCATTER (R353). -/
def execScatter (r : RArgs) (s : State) : Host.Outcome State Fault Refusal := seamCommand (.scatter r) 1 r s
/-- SCATADD (R353). -/
def execScatadd (r : RArgs) (s : State) : Host.Outcome State Fault Refusal := seamCommand (.scatadd r) 2 r s

/-- GSWAIT (R357). -/
def execGswait (r : RArgs) (s : State) : Host.Outcome State Fault Refusal :=
  onWarp (.gswait r) s fun c w => s.orCancel c w fun s c =>
    let t := Wait.mk' .seamOut (s.deadline (r.vB s w c.lead)) (w.resolve r.d.toNat) false
    let s := { s.startWait c c.lanes false t with cur := none }
    if w.seamOut = 0 then s.finishWait c.wid c.lanes t 0 else s

/-- GSWAIT.dup (R357). -/
def execGswaitDup (r : RArgs) (s : State) : Host.Outcome State Fault Refusal :=
  onWarp (.gswaitDup r) s fun c w =>
    (s.giveAll c r.d.toNat [BitVec.ofNat 32 (Map.get 0 (s.seam (dieOf w.core)).dups (s.asidOf w))]).conclude c []

/-- GSWAIT.out (R357). -/
def execGswaitOut (r : RArgs) (s : State) : Host.Outcome State Fault Refusal :=
  onWarp (.gswaitOut r) s fun c w => (s.giveAll c r.d.toNat [BitVec.ofNat 32 w.seamOut]).conclude c []

/-! ### Rows at their owner (R351 to R353, R358) -/

/-- A row at its owner: translated as one access, which must not cross a page (R351), through the walkers of a die. Log 38. -/
def State.rowPlace (s : State) (die asid : Nat) (acc : Acc) (addr n : Nat) : State × Option (Leaf × Nat) :=
  if addr / 2 ^ 18 ≠ (addr + n - 1) / 2 ^ 18 then (s, none)
  else
    match s.engineTranslate (.die die) asid acc addr with
    | (s, .ok x) => (s, some x)
    | (s, .error _) => (s, none)

/-- Outcome of the duplicate check of a SCATADD entry (R358). -/
inductive Dedup where
  | apply | drop | stale
  deriving DecidableEq, Repr

/-- A receiving Seam's check of an entry, with its bookkeeping (R358). -/
def State.dedup (s : State) (die src dispatch asid epoch entry : Nat) : State × Dedup :=
  let x := s.seam die
  let key := src * 65536 + dispatch
  let t := (x.dedup.find? key).getD []
  let put (v : Nat × List Nat) : State := s.modSeam die (fun x => { x with dedup := x.dedup.insert key (t.insert asid v) })
  let lose : State := s.modSeam die (fun x => { x with dups := Map.set 0 x.dups asid (min (2 ^ 32 - 1) (Map.get 0 x.dups asid + 1)) })
  match t.find? asid with
  | none => (put (epoch, [entry]), .apply)
  | some (e, l) =>
    if e = epoch then (if l.contains entry then (lose, .drop) else (put (e, entry :: l), .apply))
    else
      let d := (epoch + 65536 - e) % 65536
      if 1 ≤ d ∧ d < 32768 then (put (epoch, [entry]), .apply) else (lose, .stale)

/-- One element of a SCATADD row (R353): an atomic at the home, published at a scope. -/
def State.addElement (s : State) (sc : Scope) (float : Bool) (okey pa v : Nat) : State × Flags :=
  let s := s.touch (.die (homeDie pa)) pa 4
  let old := natOfBytes (s.homeBytes [40] okey pa 4)
  let (new, f) := atomicNew (if float then 10 else 0) false old v 0
  let s := s.countDrop pa 4
  (s.homeWrite { wid := none, core := none, engine := true } sc (some .dev) okey pa (bytesOfNat 4 new), f)

/-- Add a row's elements in order. -/
def State.addRow (s : State) (sc : Scope) (float : Bool) (okey pa : Nat) (data : List Byte) : State × Flags :=
  (List.range (data.length / 4)).foldl (fun a i =>
    let (s, f) := a.1.addElement sc float okey (pa + 4 * i) (natOfBytes ((data.drop (4 * i)).take 4))
    (s, a.2 ||| f)) (s, 0)

/-- What an entry asks of its owner. -/
inductive RowAsk where
  | read (len : Nat) (since : Since) (party : Party) (tag : Nat)
  | write (data : List Byte)
  | add (float : Bool) (src dispatch epoch entry : Nat) (data : List Byte)
  deriving DecidableEq, Repr

/-- An owner serves an entry (R351 to R353, R358): `sc` is where scatter writes are published. The lines take their page's class (R14). Log 38. -/
def State.serveRow (s : State) (die asid addr : Nat) (sc : Scope) (ask : RowAsk) : State × SeamServed :=
  let bad (d : Nat) : SeamServed := { detail := d, flags := 0, drop := false, data := [] }
  match ask with
  | .read len since party tag =>
    match s.rowPlace die asid .load addr len with
    | (s, none) => (s, bad 4)
    | (s, some (l, pa)) =>
      let s := (s.touch (if party = .sys then .sys else .die (homeDie pa)) pa len).fillSpan l pa len
      let drop := s.struck pa len
      (s.countDrop pa len, { detail := 0, flags := 0, drop := drop, data := s.engineBytes party since [tag] l.okey pa len })
  | .write data =>
    match s.rowPlace die asid .store addr data.length with
    | (s, none) => (s, bad 4)
    | (s, some (l, pa)) => ((s.fillSpan l pa data.length).homeWrite { wid := none, core := none, engine := true } sc none l.okey pa data, bad 0)
  | .add float src dispatch epoch entry data =>
    match s.rowPlace die asid .atomic addr data.length with
    | (s, none) => (s, bad 4)
    | (s, some (l, pa)) =>
      match s.dedup (homeDie pa) src dispatch asid epoch entry with
      | (s, .apply) =>
        let drop := s.struck pa data.length
        let (s, f) := (s.fillSpan l pa data.length).addRow sc float l.okey pa data
        (s, { detail := 0, flags := f.toNat, drop := drop, data := [] })
      | (s, .drop) => (s, bad 0)
      | (s, .stale) => (s, bad 7)

/-! ### Entries of a command (R351, R353) -/

/-- How a command's reads see its issue (R213). Its scratchpad reads follow the rule that R213 gives for the BTE and Press. Log 23. -/
def SeamCmd.sinceOf (c : SeamCmd) : Since := { at_ := c.since, fresh := c.fresh, token := some c.token }

/-- Scratchpad bytes of a command, as Seam reads them (R213), or the first offset of them that is not in SPAD mode. -/
def State.seamSpad (s : State) (c : SeamCmd) (tag off n : Nat) : State × Except Nat (List Byte) :=
  match s.spadKeys c.core c.launch (keysFrom off n) with
  | .error o => (s, .error o)
  | .ok ks =>
    let (s, b) := s.readKeys c.core c.token c.sinceOf tag ks
    (s, .ok b)

/-- The index of an entry, read once; `2^32` when its word cannot be read. Log 38. -/
def State.fetchIndex (s : State) (die id i : Nat) : State :=
  match s.seamCmd die id with
  | none => s
  | some c =>
    if (c.index.find? i).isSome then s
    else
      let (s, b) := s.seamSpad c (2 ^ 21 + i) (c.list + 4 * i) 4
      s.putSeam die { c with index := c.index.insert i (match b with | .ok b => natOfBytes b | .error _ => 2 ^ 32) }

/-- Owner module and address of an index, or a row fault's detail (R351). -/
def State.ownerOf (s : State) (c : SeamCmd) (x : Nat) : Except Nat (Nat × Nat) :=
  let d := c.d
  if 2 ^ 32 ≤ x then .error 4
  else if !d.shard then
    if d.nrows ≤ x then .error 5 else .ok (s.boot.modId, (d.table + x * d.gstride) % 2 ^ 64)
  else
    let m := d.modBase + x / d.nrows
    let inJob := s.jobs.any (fun j => decide (j.asid = s.seamAsid c) && j.members.any (fun e => decide (e.1 = m)))
    if 8191 < m ∨ !inJob ∨ s.isolated.contains m then .error 6 else .ok (m, (d.table + x % d.nrows * d.gstride) % 2 ^ 64)

/-- Where an entry writes: module, first and last address, physical on this module. -/
def State.entrySpan (s : State) (c : SeamCmd) (i : Nat) : Option (Nat × Nat × Nat) :=
  match c.index.find? i with
  | none => none
  | some x =>
    match s.ownerOf c x with
    | .error _ => none
    | .ok (m, addr) =>
      if m = s.boot.modId then (s.walk (s.seamAsid c) addr).map (fun l => (m, l.pa addr, l.pa addr + c.d.rowb))
      else some (m, addr, addr + c.d.rowb)

/-- Entries that must be applied before entry `i` of a scatter (R353): lower ones with the same index, and those of earlier commands of its warp that write a location it writes. -/
def State.entryWaits (s : State) (die : Nat) (c : SeamCmd) (i : Nat) : Bool :=
  let mine := c.index.find? i
  let lower := (List.range i).any (fun j => (c.served.find? j).isNone && decide (c.index.find? j = mine))
  let earlier := (s.seam die).cmds.any (fun e =>
    decide (e.token = c.token) && decide (e.id < c.id) && decide (e.op ≠ 0) &&
      (List.range e.count).any (fun j => (e.served.find? j).isNone &&
        (match s.entrySpan e j, s.entrySpan c i with
          | some a, some b => decide (a.1 = b.1) && decide (a.2.1 < b.2.2) && decide (b.2.1 < a.2.2)
          | _, _ => false)))
  decide (c.op ≠ 0) && (lower || earlier)

/-- Read the indices that the order of an entry depends on. -/
def State.fetchIndices (s : State) (die : Nat) (c : SeamCmd) (i : Nat) : State :=
  let s := if c.op = 0 then s else
    ((s.seam die).cmds.filter (fun e => decide (e.token = c.token) && decide (e.id < c.id) && decide (e.op ≠ 0))).foldl
      (fun s e => (List.range e.count).foldl (fun s j => s.fetchIndex die e.id j) s) s
  (if c.op = 0 then [i] else List.range (i + 1)).foldl (fun s j => s.fetchIndex die c.id j) s

/-- A BANKCFG has issued on a bank of a command that has not started: it waits (R168). -/
def State.seamHeld (s : State) (c : SeamCmd) : Bool :=
  c.served.isEmpty && c.sent.isEmpty &&
    (((keysFrom c.list (4 * c.count) ++ keysFrom c.buf (c.count * c.d.rowb)).map (· / 65536)).eraseDups).any (fun n =>
      match (s.banksOf c.core c.launch)[n]? with
      | some b => !(s.bank c.core b).cfg.isEmpty
      | none => false)

/-! ### Links (R359) -/

/-- A link. -/
def State.link (s : State) (n : Nat) : Link := (s.links.find? n).getD Link.atReset

/-- Send a flit on a link: the next sequence number, and the link is not idle. -/
def State.sendFlit (s : State) (n : Nat) (body : FlitBody) : State :=
  let k := s.link n
  let f : Flit := { seq := k.sendSeq, crcOk := true, src := s.boot.modId, body := body }
  { s with links := s.links.insert n { k with sendSeq := k.sendSeq + 1, lastSent := s.ns, sent := f :: k.sent } }

/-- Bytes that a message carries. -/
def flitLoad : FlitBody → List Byte
  | .write _ _ _ _ _ d => d
  | .add _ _ _ _ _ _ _ _ d => d
  | .reply _ _ _ _ _ _ d => d
  | _ => []

/-- A message with other bytes. -/
def withLoad (b : FlitBody) (d : List Byte) : FlitBody :=
  match b with
  | .write die cmd entry key addr _ => .write die cmd entry key addr d
  | .add die cmd entry key addr float dispatch epoch _ => .add die cmd entry key addr float dispatch epoch d
  | .reply die cmd entry detail flags drop _ => .reply die cmd entry detail flags drop d
  | b => b

/-- The leading flits of a long message, 240 bytes in each (Table 21-3); what is left for its last flit. -/
def State.sendParts (n : Nat) : Nat → State → List Byte → State × List Byte
  | 0, s, d => (s, d)
  | k + 1, s, d => if d.length ≤ 240 then (s, d) else State.sendParts n k (s.sendFlit n (.part (d.take 240))) (d.drop 240)

/-- Send a message on a link, in as many flits as its bytes need (Table 21-3). Log 38. -/
def State.sendMessage (s : State) (n : Nat) (body : FlitBody) : State :=
  let (s, d) := State.sendParts n (flitLoad body).length s (flitLoad body)
  s.sendFlit n (withLoad body d)

/-- Send every flit of a link again from a sequence number on (R359). -/
def State.resend (s : State) (n next : Nat) : State :=
  let k := s.link n
  let again := (List.range (k.sendSeq - next)).filterMap (fun i => k.sent.find? (fun f => decide (f.seq = next + i)))
  { s with links := s.links.insert n { k with lastSent := s.ns, sent := again.reverse ++ k.sent } }

/-- Links of a die on which it may send to a module (R409, Table 21-3): those of its six that a route names; any of the six while no route of them is set. -/
def State.linksTo (s : State) (die modId : Nat) : List Nat :=
  let all := keysFrom (6 * die) 6
  let named := all.filter (fun n => ((s.boot.routes.find? modId).getD []).contains n)
  if named.isEmpty then all else named

/-- Send a request of a die to a module on one of the die's six links (Table 21-3), by the routes that are set (R409). Log 38. -/
def State.sendFrom (s : State) (die modId : Nat) (body : FlitBody) : State := s.sendMessage (s.choose [41, die] (6 * die) (s.linksTo die modId)) body

/-- The job key of a context. -/
def State.jobKey (s : State) (asid : Nat) : Nat :=
  match s.jobs.find? (fun j => decide (j.asid = asid)) with
  | some j => j.key
  | none => 0

/-- The body of the request of an entry to a peer. -/
def SeamCmd.request (c : SeamCmd) (die i key addr : Nat) (data : List Byte) : FlitBody :=
  let d := c.d
  if c.op = 0 then .read die c.id i key addr d.rowb
  else if c.op = 1 then .write die c.id i key addr data
  else .add die c.id i key addr (decide (d.elem = 1)) d.dispatch d.epoch data

/-- What an entry asks of this module. -/
def SeamCmd.ask (c : SeamCmd) (i src : Nat) (data : List Byte) : RowAsk :=
  let d := c.d
  if c.op = 0 then .read d.rowb c.sinceOf .dev (2 ^ 22 + i)
  else if c.op = 1 then .write data
  else .add (decide (d.elem = 1)) src d.dispatch d.epoch i data

/-- An entry has been served. -/
def State.noteServed (s : State) (die id i : Nat) (x : SeamServed) : State :=
  match s.seamCmd die id with
  | some c => s.putSeam die { c with served := c.served.insert i x }
  | none => s

/-- SEAM_ROW_REQUEST (R351): an entry goes to its owner, which serves it when it is a Seam of this module; a peer answers with a flit. -/
def State.serveEntry (s : State) (die : Nat) (c : SeamCmd) (i : Nat) : State :=
  let fault (s : State) (d : Nat) (off : Option Nat) : State := s.noteServed die c.id i { detail := d, flags := 0, drop := false, data := [], off := off }
  let x := (c.index.find? i).getD (2 ^ 32)
  match s.ownerOf c x with
  | .error d => fault s d (if 2 ^ 32 ≤ x then some (c.list + 4 * i) else none)
  | .ok (m, addr) =>
    let (s, data) := if c.op = 0 then (s, .ok []) else s.seamSpad c (2 ^ 23 + i) (c.buf + i * c.d.rowb) c.d.rowb
    match data with
    | .error o => fault s 4 (some o)
    | .ok data =>
      if m = s.boot.modId then
        let (s, x) := s.serveRow die (s.seamAsid c) addr .dev (c.ask i s.boot.modId data)
        s.noteServed die c.id i x
      else
        let s := s.putSeam die { c with sent := c.sent.insert i m }
        s.sendFrom die m (c.request die i (s.jobKey (s.seamAsid c)) addr data)

/-- SEAM_ROW_REQUEST (R351). -/
def execSeamRowRequest (die cmd entry : Nat) (s : State) : Host.Outcome State Fault Refusal :=
  .next (match s.seamCmd die cmd with
    | none => s
    | some c =>
      if c.count ≤ entry ∨ (c.served.find? entry).isSome ∨ (c.sent.find? entry).isSome ∨ s.seamHeld c then s
      else
        let s := s.fetchIndices die c entry
        match s.seamCmd die cmd with
        | none => s
        | some c => if s.entryWaits die c entry then s else s.serveEntry die c entry)

/-! ### Landing (R352, R354, R355) -/

/-- A row fault of a command (R355): the first queues a frame, with the failing index, or with the scratchpad offset that failed (R414). -/
def State.seamRowFault (s : State) (die : Nat) (c : SeamCmd) (i : Nat) (off : Option Nat) : State :=
  if c.faulted then s
  else
    let s := s.engineFrame c.launch c.token 5 (off.getD ((c.index.find? i).getD 0))
    match s.seamCmd die c.id with
    | some x => s.putSeam die { x with faulted := true }
    | none => s

/-- The bytes of a GATHER entry reach the row buffer; none of them when a byte of it left SPAD mode, whose offset comes back (R352, R414). -/
def State.landBytes (s : State) (c : SeamCmd) (i : Nat) (data : List Byte) : State × Option Nat :=
  match s.spadKeys c.core c.launch (keysFrom (c.buf + i * c.d.rowb) data.length) with
  | .ok ks => (s.writeKeys c.core ks data, none)
  | .error o => (s, some o)

/-- SEAM_ENTRY_LAND (R354): an entry that has been served lands, and the last completes its command. -/
def execSeamEntryLand (die cmd entry : Nat) (s : State) : Host.Outcome State Fault Refusal :=
  .next (match s.seamCmd die cmd with
    | none => s
    | some c =>
      match c.served.find? entry with
      | none => s
      | some x =>
        if c.landed.contains entry then s
        else
          let s := s.modTok c.token (fun w => (w.raise (BitVec.ofNat 8 x.flags)).markDrop x.drop)
          let (s, off) := if x.detail = 0 ∧ c.op = 0 then s.landBytes c entry x.data else (s, none)
          let s := if x.detail ≠ 0 then s.seamRowFault die c entry x.off else if off.isSome then s.seamRowFault die c entry off else s
          match s.seamCmd die cmd with
          | none => s
          | some c =>
            let c := { c with landed := entry :: c.landed }
            if c.landed.length = c.count then s.seamComplete die c else s.putSeam die c)

/-! ### Flits (R351, R352, R359, R360) -/

/-- The member context that a request of a peer reaches: by a job of that key with both modules in it (R360). -/
def State.jobFor (s : State) (key src : Nat) : Option Nat :=
  (s.jobs.find? (fun j => decide (j.key = key) && j.members.any (fun e => decide (e.1 = src)) && j.members.any (fun e => decide (e.1 = s.boot.modId)))).map (·.asid)

/-- Serve a peer's request and answer it (R351 to R353, R360): scatter writes are published at .sys; a GATHER returns a write published at .sys. Before READY the links carry heartbeats alone (R412). Log 14. -/
def State.servePeer (s : State) (link die cmd entry key src addr : Nat) (ask : RowAsk) : State :=
  if !s.boot.ready then s
  else
  let (s, x) := match s.jobFor key src with
    | none => (s, ({ detail := 6, flags := 0, drop := false, data := [] } : SeamServed))
    | some asid => s.serveRow (link / 6) asid addr .sys ask
  s.sendMessage link (.reply die cmd entry x.detail x.flags x.drop x.data)

/-- A flit that arrived in order is delivered: its module is heard, and no longer isolated, since a spare has taken a failed module's id when it speaks (R362); the bytes of a long message are put together. Log 14, 38. -/
def State.deliverFlit (s : State) (link : Nat) (f : Flit) : State :=
  let s := { s with heard := s.heard.insert f.src s.ns, isolated := s.isolated.filter (fun m => decide (m ≠ f.src)) }
  let k := s.link link
  let whole (d : List Byte) : State × List Byte := ({ s with links := s.links.insert link { k with part := [] } }, k.part ++ d)
  match f.body with
  | .heartbeat => s
  | .replay next => s.resend link next
  | .part d => { s with links := s.links.insert link { k with part := k.part ++ d } }
  | .read die cmd entry key addr len =>
    s.servePeer link die cmd entry key f.src addr (.read len { at_ := 0, fresh := 0, token := none } .sys (2 ^ 24 + cmd * 65536 + entry))
  | .write die cmd entry key addr d =>
    let (s, data) := whole d
    s.servePeer link die cmd entry key f.src addr (.write data)
  | .add die cmd entry key addr float dispatch epoch d =>
    let (s, data) := whole d
    s.servePeer link die cmd entry key f.src addr (.add float f.src dispatch epoch entry data)
  | .reply die cmd entry detail flags drop d =>
    let (s, data) := whole d
    match s.seamCmd die cmd with
    | some c =>
      if c.sent.find? entry = some f.src ∧ (c.served.find? entry).isNone then
        s.noteServed die cmd entry { detail := detail, flags := flags, drop := drop, data := data.take c.d.rowb }
      else s
    | none => s

/-- FLIT_RECEIVE (R359): a good flit with the next sequence number is delivered; one that was delivered before is not delivered again; else a replay is asked for from the first flit that is bad or missing, and the link's die counts it (R411). Log 14, 38. -/
def execFlitReceive (link : Nat) (flit : Flit) (s : State) : Host.Outcome State Fault Refusal :=
  let k := s.link link
  .next (if flit.crcOk && decide (flit.seq = k.recvSeq) then
      { s with links := s.links.insert link { k with recvSeq := k.recvSeq + 1 } }.deliverFlit link flit
    else if flit.crcOk && decide (flit.seq < k.recvSeq) then s
    else ({ s with links := s.links.insert link { k with replays := k.replays + 1 } }.count (link / 6) 5 1).sendFlit link (.replay k.recvSeq))

/-- LINK_HEARTBEAT (R359): a flit on a link that has been idle for 100 µs. -/
def execLinkHeartbeat (link : Nat) (s : State) : Host.Outcome State Fault Refusal :=
  .next (if link < 24 ∧ (s.link link).lastSent + 100000 ≤ s.ns then s.sendFlit link .heartbeat else s)

/-! ### Failure (R362) -/

/-- Entries in flight to a module complete as row faults, detail 6 (Table 21-4). -/
def SeamCmd.lose (c : SeamCmd) (m : Nat) : SeamCmd :=
  let lost := c.sent.filter (fun e => decide (e.2 = m) && (c.served.find? e.1).isNone)
  let bad : SeamServed := { detail := 6, flags := 0, drop := false, data := [] }
  { c with served := lost.foldl (fun t e => Table.insert t e.1 bad) c.served }

/-- MODULE_FAILURE_DETECT (R362): a module silent for 10 ms is isolated, and the routes to its id are removed. -/
def execModuleFailureDetect (modId : Nat) (s : State) : Host.Outcome State Fault Refusal :=
  .next (if modId ≤ 8191 ∧ modId ≠ s.boot.modId ∧ s.isolated.contains modId = false ∧ Map.get 0 s.heard modId + 10000000 ≤ s.ns then
      { s with isolated := modId :: s.isolated
               boot := { s.boot with routes := s.boot.routes.erase modId }
               seams := s.seams.map (fun e => (e.1, { e.2 with cmds := e.2.cmds.map (fun c => c.lose modId) })) }
    else s)

end Sys2Proof.Machine
end

