-- ==== Sys2Proof/Machine/BankMode.lean ====
section
/-! DEFINITION. The change of a bank's mode (R168, R196, R414): when the bank is idle, and what the change does. -/

namespace Sys2Proof.Machine

/-- Numbers of the banks that scratchpad offsets of a launch lie in. -/
def State.banksAt (s : State) (core launch : Nat) (offs : List Nat) : List Nat :=
  ((offs.map (· / 65536)).eraseDups).filterMap (fun n => (s.banksOf core launch)[n]?)

/-- A started Seam command has an entry to land whose bytes lie in the bank (R414). -/
def State.seamUses (s : State) (core b : Nat) (c : SeamCmd) : Bool :=
  decide (c.core = core) && !(c.served.isEmpty && c.sent.isEmpty) &&
    ((List.range c.count).filter (fun i => !c.landed.contains i)).any (fun i =>
      (s.banksAt core c.launch (keysFrom (c.buf + i * c.d.rowb) c.d.rowb)).contains b)

/-- A Press command that has started names the bank, be its launch's context in the engine or saved (R292, R414). -/
def State.pressUses (s : State) (core b : Nat) : Bool :=
  let k := s.core core
  (k.press :: k.pressSaved.map (·.2)).any fun p => match p.next with
    | some c => decide (0 < c.rowsDone) && (s.banksAt core c.launch (c.touches p.select)).contains b
    | none => false

/-- An accepted BMV has its x or a scratchpad y in the bank (R414). -/
def State.bcuUses (s : State) (core b : Nat) (c : BcuCmd) : Bool :=
  decide (c.wid / 64 = core) && c.fence.isNone && !c.complete &&
    (s.banksAt core c.launch (keysFrom c.x (2 * c.cols) ++ (if c.global then [] else keysFrom c.y (4 * c.n)))).contains b

/-- No access that was issued to the bank earlier is still in flight (R168, R414). -/
def State.bankIdle (s : State) (core b : Nat) : Bool :=
  let k := s.core core
  let lo := spadKey core b 0
  !k.acps.any (fun x => decide (lo ≤ x.key) && decide (x.key < lo + 65536)) &&
    !k.bte.any (fun c => c.started && (s.bteBanks core c c.left).contains b) &&
    !(s.seam (dieOf core)).cmds.any (fun c => s.seamUses core b c) &&
    !s.pressUses core b && !s.bcus.any (fun c => s.bcuUses core b c)

/-- Stores to the bank that warps have issued take their place in it (R168). -/
def State.settleStores (s : State) (core b : Nat) : State :=
  let lo := spadKey core b 0
  (s.warps.filter (fun e => decide (e.1 / 64 = core))).foldl (fun s e =>
    let n := e.2.run.stores.zipIdx.foldl (fun m x => if x.1.bank && decide (lo ≤ x.1.key) && decide (x.1.key < lo + 65536) then x.2 + 1 else m) 0
    if n = 0 then s else s.publishSome e.1 n .core) s

/-- Waits at a bank that changes its mode end with ABANDONED (Table 12-4, R168). -/
def State.abandonBank (s : State) (core b : Nat) : State :=
  let lo := spadKey core b 0
  let hit := s.regs.filter (fun e => decide (e.2.place = .warp) && decide (lo ≤ e.2.key) && decide (e.2.key < lo + 65536))
  let s := hit.foldl (fun s e => s.endReg e.1 3) s
  let s := (s.bank core b).waiters.foldl (fun s x => s.serveLane x core b 3 0) s
  s.modBank core b (fun k => { k with waiters := [] })

/-- The lanes of a BANKCFG complete (R196): the request is known by its number. -/
def State.endBankcfg (s : State) (core b token n : Nat) : State :=
  s.recordIf (tokenWid token) (fun t _ => decide (t.kind = .bankcfg (s.bankNo core b)) && decide (t.val = BitVec.ofNat 64 n)) 0

/-- The oldest BANKCFG of an idle bank takes effect (Table 9-1). -/
def State.changeMode (s : State) (core b : Nat) : State :=
  match (s.bank core b).cfg with
  | [] => s
  | (token, n, mode) :: rest =>
    let s :=
      if (s.bank core b).mode = mode then s
      else
        let s := (((s.settleStores core b).abandonBank core b).dropWays core b).zeroBank core b
        s.modBank core b (fun k => { k with mode := mode, head := 0, fifo := [] })
    let s := s.modBank core b (fun k => { k with cfg := rest })
    (s.endBankcfg core b token n).startBte core

/-- BANKCFG_COMPLETE (R168). -/
def execBankcfgComplete (core bank : Nat) (s : State) : Host.Outcome State Fault Refusal :=
  .next (if s.bankIdle core bank then s.changeMode core bank else s)

end Sys2Proof.Machine
end

