-- ==== Sys2Proof/Decode.lean ====
section
/-! DEFINITION. Decoding, total on any words: the formats of Table 3-1, the opcode map of Table 3-4, the extension word of R44 and the checks of R46; then the encoder, written from the same tables. -/

namespace Sys2Proof

/-- Fields of an R-format word (Table 3-1). -/
def rArgs (px : Option (BitVec 25)) (w : Nat) : RArgs :=
  { sw := bit w 31, d := BitVec.ofNat 7 (bits w 24 18), a := BitVec.ofNat 7 (bits w 17 11), b := BitVec.ofNat 7 (bits w 10 4), px := px }

/-- Fields of an I-format word (Table 3-1). -/
def iArgs (px : Option (BitVec 25)) (w : Nat) : IArgs :=
  { sw := bit w 31, d := BitVec.ofNat 7 (bits w 24 18), a := BitVec.ofNat 7 (bits w 17 11), imm := BitVec.ofNat 11 (bits w 10 0), px := px }

/-- Fields of a J-format word (Table 3-1). -/
def jArgs (px : Option (BitVec 25)) (w : Nat) : JArgs :=
  { sw := bit w 31, prio := BitVec.ofNat 4 (bits w 24 21), off := BitVec.ofNat 21 (bits w 20 0), px := px }

/-- Fields of a C-format word (Table 3-1). -/
def cArgs (px : Option (BitVec 25)) (w : Nat) : CArgs :=
  { sw := bit w 31, prio := BitVec.ofNat 4 (bits w 24 21), cond := BitVec.ofNat 7 (bits w 20 14), off := BitVec.ofNat 14 (bits w 13 0), px := px }

/-- Fields of an M-format word (Table 3-1). -/
def mArgs (px : Option (BitVec 25)) (w : Nat) : MArgs :=
  { sw := bit w 31, d := BitVec.ofNat 7 (bits w 24 18), a := BitVec.ofNat 7 (bits w 17 11), size := BitVec.ofNat 3 (bits w 10 8),
    hint := BitVec.ofNat 2 (bits w 7 6), off := BitVec.ofNat 6 (bits w 5 0), px := px }

/-- Fields of a K-format word (Table 3-1). -/
def kArgs (w : Nat) : KArgs :=
  { sw := bit w 31, kd := BitVec.ofNat 4 (bits w 24 21), ka := BitVec.ofNat 4 (bits w 20 17), kb := BitVec.ofNat 4 (bits w 16 13), r := BitVec.ofNat 7 (bits w 12 6) }

/-- Fields of a T-format word (Table 3-1). -/
def tArgs (px : Option (BitVec 25)) (w : Nat) : TArgs :=
  { sw := bit w 31, tile := BitVec.ofNat 4 (bits w 24 21), col := bit w 20, idx := BitVec.ofNat 7 (bits w 19 13), imm := BitVec.ofNat 5 (bits w 12 8),
    reg := BitVec.ofNat 7 (bits w 7 1), wr := bit w 0, px := px }

/-- Fields of an X-format instruction: its first word and its payload word (Tables 17-1, 17-2). -/
def xArgs (w w1 : Nat) : XArgs :=
  { sw := bit w 31, xd := BitVec.ofNat 4 (bits w 24 21), xa := BitVec.ofNat 4 (bits w 20 17), xb := BitVec.ofNat 4 (bits w 16 13), q := BitVec.ofNat 3 (bits w 12 10),
    hold := bit w 9, h := BitVec.ofNat 4 (bits w 8 5), rsv := bit w 4, payload := BitVec.ofNat 32 w1 }

/-- Instructions of MAJ 0x00 (Table 3-4); a sub code, a D of zero or a function number tells rows apart. -/
def rows00 (f : Nat) (r : RArgs) : Option Instr :=
  match f with
  | 0 => some (.add r)
  | 1 => some (.sub r)
  | 2 => some (.mul r)
  | 3 => some (.mulh r)
  | 4 => some (.mulhU r)
  | 5 => some (.mad r)
  | 6 => some (.div r)
  | 7 => some (.divU r)
  | 8 => some (.mod r)
  | 9 => some (.modU r)
  | 10 => some (.min r)
  | 11 => some (.minU r)
  | 12 => some (.max r)
  | 13 => some (.maxU r)
  | 14 => some (.abs r)
  | 15 => some (.neg r)
  | _ => none

/-- Instructions of MAJ 0x01 (Table 3-4); a sub code, a D of zero or a function number tells rows apart. -/
def rows01 (f : Nat) (r : RArgs) : Option Instr :=
  match f with
  | 0 => some (.and r)
  | 1 => some (.or r)
  | 2 => some (.xor r)
  | 3 => some (.not r)
  | 4 => some (.shl r)
  | 5 => some (.shr r)
  | 6 => some (.sra r)
  | 7 => some (.bfx r)
  | 8 => some (.bfi r)
  | 9 => some (.popc r)
  | 10 => some (.clz r)
  | 11 => some (.brev r)
  | 12 => some (.lea r)
  | _ => none

/-- Instructions of MAJ 0x08 (Table 3-4); a sub code, a D of zero or a function number tells rows apart. -/
def rows08 (f : Nat) (r : RArgs) : Option Instr :=
  match f with
  | 0 => some (.fadd r)
  | 1 => some (.fsub r)
  | 2 => some (.fmul r)
  | 3 => some (.ffma r)
  | 4 => some (.fmin r)
  | 5 => some (.fmax r)
  | 6 => some (.fcmp r)
  | 7 => some (.fsel r)
  | 8 => some (.frnd r)
  | 9 => some (.fclass r)
  | _ => none

/-- Instructions of MAJ 0x09 (Table 3-4); a sub code, a D of zero or a function number tells rows apart. -/
def rows09 (f : Nat) (r : RArgs) : Option Instr :=
  match f with
  | 0 => some (.frcp r)
  | 1 => some (.frsq r)
  | 2 => some (.fsqrt r)
  | 3 => some (.fex2 r)
  | 4 => some (.flg2 r)
  | 5 => some (.fsin r)
  | 6 => some (.fcos r)
  | _ => none

/-- Instructions of MAJ 0x0A (Table 3-4); a sub code, a D of zero or a function number tells rows apart. -/
def rows0A (f : Nat) (r : RArgs) : Option Instr :=
  match f with
  | 0 => some (.dadd r)
  | 1 => some (.dmul r)
  | 2 => some (.dfma r)
  | _ => none

/-- Instructions of MAJ 0x10 (Table 3-4); a sub code, a D of zero or a function number tells rows apart. -/
def rows10 (f : Nat) (r : RArgs) : Option Instr :=
  match f with
  | 0 => some (.cvt r)
  | 1 => some (.cvtn r)
  | 2 => some (.amax r)
  | 3 => some (.scaleq r)
  | 4 => some (.pack r)
  | 5 => some (.unpack r)
  | 6 => some (.cmpset r)
  | _ => none

/-- Instructions of MAJ 0x14 (Table 3-4); a sub code, a D of zero or a function number tells rows apart. -/
def rows14 (f : Nat) (r : RArgs) : Option Instr :=
  match f with
  | 0 => some (.shfl r)
  | 1 => some (.vote r)
  | 2 => some (.redw r)
  | 3 => some (.scanw r)
  | 4 => some (.matchLanes r)
  | _ => none

/-- Instructions of MAJ 0x1A (Table 3-4); a sub code, a D of zero or a function number tells rows apart. -/
def rows1A (f : Nat) (r : RArgs) : Option Instr :=
  match f with
  | 0 => some (.jmpi r)
  | 1 => some (.callw r)
  | 2 => some (.callk r)
  | 3 => some (.retw r)
  | 4 => some (.retwB r)
  | 5 => some (.retk r)
  | 6 => some (.exit r)
  | 7 => some (.nop r)
  | 8 => some (.yield r)
  | 9 => some (.wbase r)
  | _ => none

/-- Instructions of MAJ 0x21 (Table 3-4); a sub code, a D of zero or a function number tells rows apart. -/
def rows21 (f : Nat) (r : RArgs) : Option Instr :=
  match f with
  | 0 => some (if r.d = 120 then .red 0 r else .atomAdd r)
  | 1 => some (if r.d = 120 then .red 1 r else .atomMinS r)
  | 2 => some (if r.d = 120 then .red 2 r else .atomMaxS r)
  | 3 => some (if r.d = 120 then .red 3 r else .atomMinU r)
  | 4 => some (if r.d = 120 then .red 4 r else .atomMaxU r)
  | 5 => some (if r.d = 120 then .red 5 r else .atomAnd r)
  | 6 => some (if r.d = 120 then .red 6 r else .atomOr r)
  | 7 => some (if r.d = 120 then .red 7 r else .atomXor r)
  | 8 => some (if r.d = 120 then .red 8 r else .atomExch r)
  | 9 => some (if r.d = 120 then .red 9 r else .atomCas r)
  | 10 => some (if r.d = 120 then .red 10 r else .atomAddF32 r)
  | _ => none

/-- Instructions of MAJ 0x22 (Table 3-4); a sub code, a D of zero or a function number tells rows apart. -/
def rows22 (f : Nat) (r : RArgs) : Option Instr :=
  match f with
  | 0 => some (if r.d = 120 then .reds 0 r else .atomsAdd r)
  | 1 => some (if r.d = 120 then .reds 1 r else .atomsMinS r)
  | 2 => some (if r.d = 120 then .reds 2 r else .atomsMaxS r)
  | 3 => some (if r.d = 120 then .reds 3 r else .atomsMinU r)
  | 4 => some (if r.d = 120 then .reds 4 r else .atomsMaxU r)
  | 5 => some (if r.d = 120 then .reds 5 r else .atomsAnd r)
  | 6 => some (if r.d = 120 then .reds 6 r else .atomsOr r)
  | 7 => some (if r.d = 120 then .reds 7 r else .atomsXor r)
  | 8 => some (if r.d = 120 then .reds 8 r else .atomsExch r)
  | 9 => some (if r.d = 120 then .reds 9 r else .atomsCas r)
  | 10 => some (if r.d = 120 then .reds 10 r else .atomsAddF32 r)
  | _ => none

/-- Instructions of MAJ 0x23 (Table 3-4); a sub code, a D of zero or a function number tells rows apart. -/
def rows23 (f : Nat) (r : RArgs) : Option Instr :=
  match f with
  | 0 => some (.fpush r)
  | 1 => some (.fpop r)
  | 2 => some (.pref r)
  | 3 => some (.chint r)
  | 4 => some (.bankcfg r)
  | 5 => some (.phase r)
  | 6 => some (.fenceo r)
  | 7 => some (.fencer r)
  | 8 => some (.publish r)
  | 9 => some (if sub r.px = 1 then .shadowsetDel r else .shadowset r)
  | 10 => some (.ldc r)
  | _ => none

/-- Instructions of MAJ 0x26 (Table 3-4); a sub code, a D of zero or a function number tells rows apart. -/
def rows26 (f : Nat) (r : RArgs) : Option Instr :=
  match f with
  | 0 => some (.barr r)
  | 1 => some (.bwait r)
  | 2 => some (.bsetm r)
  | _ => none

/-- Instructions of MAJ 0x28 (Table 3-4); a sub code, a D of zero or a function number tells rows apart. -/
def rows28 (f : Nat) (r : RArgs) : Option Instr :=
  match f with
  | 0 => some (.tspawn r)
  | 1 => some (.trange r)
  | 2 => some (.tnext r)
  | 3 => some (.tjoin r)
  | 4 => some (.tend r)
  | 5 => some (.tcancel r)
  | 6 => some (.tself r)
  | _ => none

/-- Instructions of MAJ 0x29 (Table 3-4); a sub code, a D of zero or a function number tells rows apart. -/
def rows29 (f : Nat) (r : RArgs) : Option Instr :=
  match f with
  | 0 => some (.fset r)
  | 1 => some (.fwait r)
  | 2 => some (.lockw r)
  | 3 => some (.unlock r)
  | 4 => some (if sub r.px = 1 then .qputProm r else if sub r.px = 2 then .qputFill r else .qput r)
  | 5 => some (.qtake r)
  | _ => none

/-- Instructions of MAJ 0x2C (Table 3-4); a sub code, a D of zero or a function number tells rows apart. -/
def rows2C (f : Nat) (r : RArgs) : Option Instr :=
  match f with
  | 0 => some (.acp r)
  | 1 => some (.acpwait r)
  | 2 => some (.tplset r)
  | 3 => some (.swinit r)
  | 4 => some (.syncw r)
  | 5 => some (if sub r.px = 3 then .btestatClr r else .btestat r)
  | _ => none

/-- Instructions of MAJ 0x2D (Table 3-4); a sub code, a D of zero or a function number tells rows apart. -/
def rows2D (f : Nat) (r : RArgs) : Option Instr :=
  match f with
  | 0 => some (.gather r)
  | 1 => some (.scatter r)
  | 2 => some (.scatadd r)
  | 3 => some (if sub r.px = 1 then .gswaitDup r else if sub r.px = 2 then .gswaitOut r else .gswait r)
  | _ => none

/-- Instructions of MAJ 0x33 (Table 3-4); a sub code, a D of zero or a function number tells rows apart. -/
def rows33 (f : Nat) (r : RArgs) : Option Instr :=
  match f with
  | 0 => some (.mxseq r)
  | 1 => some (if sub r.px = 1 then .mxwaitOut r else .mxwait r)
  | _ => none

/-- Instructions of MAJ 0x38 (Table 3-4); a sub code, a D of zero or a function number tells rows apart. -/
def rows38 (f : Nat) (r : RArgs) : Option Instr :=
  match f with
  | 0 => some (.bmv r)
  | 1 => some (if sub r.px = 1 then .bfenceR r else .bfenceW r)
  | 2 => some (if sub r.px = 1 then .bmwaitAll r else if sub r.px = 2 then .bmwaitSeq r else if sub r.px = 3 then .bmwaitLast r else .bmwait r)
  | _ => none

/-- Instructions of MAJ 0x39 (Table 3-4); a sub code, a D of zero or a function number tells rows apart. -/
def rows39 (f : Nat) (r : RArgs) : Option Instr :=
  match f with
  | 0 => some (if sub r.px = 1 then .xresRel r else .xres r)
  | 1 => some (.xhit r)
  | 2 => some (if sub r.px = 1 then .xageNow r else .xage r)
  | 3 => some (.xquery r)
  | _ => none

/-- Instructions of MAJ 0x3B (Table 3-4); a sub code, a D of zero or a function number tells rows apart. -/
def rows3B (f : Nat) (r : RArgs) : Option Instr :=
  match f with
  | 0 => some (.trap r)
  | 1 => some (if sub r.px = 1 then .tretSkip r else .tret r)
  | 2 => some (.rdctl r)
  | 3 => some (.wrctl r)
  | 4 => some (.ctxsave r)
  | 5 => some (if sub r.px = 1 then .ctxloadRearm r else .ctxload r)
  | 6 => some (.tlbinv r)
  | 7 => some (if r.b = 1 then .smcAttest r else if r.b = 2 then .smcLoadKeySlot r else if r.b = 3 then .smcSetRegionEntry r else if r.b = 4 then .smcReadErrorCounters r else if r.b = 5 then .smcPowerState r else if r.b = 6 then .smcSnapshot r else if r.b = 7 then .smcBindFabricJob r else if r.b = 8 then .smcLoadSnapshot r else .smcVersion r)
  | _ => none

/-- Instructions of MAJ 0x15 (Table 3-4). -/
def rows15 (f : Nat) (k : KArgs) : Option Instr :=
  match f with
  | 0 => some (.kset k)
  | 1 => some (.kmov k)
  | 2 => some (.kpop k)
  | 4 => some (.join k)
  | 5 => some (.leave k)
  | 6 => some (.kwait k)
  | 8 => some (.klogAnd k)
  | 9 => some (.klogOr k)
  | 10 => some (.klogXor k)
  | 11 => some (.klogAndn k)
  | _ => none

/-- Instructions of MAJ 0x32 (Table 3-4). -/
def rows32 (f : Nat) (k : KArgs) : Option Instr :=
  match f with
  | 0 => some (.tpset k)
  | 8 => some (.tplogAnd k)
  | 9 => some (.tplogOr k)
  | 10 => some (.tplogXor k)
  | 11 => some (.tplogAndn k)
  | _ => none

/-- Instructions of MAJ 0x31 (Table 3-4). -/
def rows31 (f : Nat) (x : XArgs) : Option Instr :=
  match f with
  | 0 => some (.tbind x)
  | 1 => some (.tzero x)
  | 2 => some (.mxlw x)
  | 3 => some (.mxswap x)
  | 4 => some (.mxmm x)
  | 5 => some (.mxmms x)
  | 6 => some (.mxep x)
  | 7 => some (if bits x.payload.toNat 25 24 = 1 then .mxselRead x else .mxsel x)
  | 8 => some (.accld x)
  | 9 => some (.accst x)
  | 10 => some (.accz x)
  | 11 => some (.mxsave x)
  | 12 => some (.mxload x)
  | _ => none

/-- The instruction of a word, before the field checks; `px` is the payload of an extension word before it, `w1` the word after it. `none`: the opcode map assigns nothing (R53). -/
def assigned (px : Option (BitVec 25)) (w w1 : Nat) : Option Instr :=
  match bits w 30 25 with
  | 0 => rows00 (bits w 3 0) (rArgs px w)
  | 1 => rows01 (bits w 3 0) (rArgs px w)
  | 2 => some (.addi (iArgs px w))
  | 3 => some (.andi (iArgs px w))
  | 4 => some (.ori (iArgs px w))
  | 5 => some (.xori (iArgs px w))
  | 6 => some (.shli (iArgs px w))
  | 7 => some (.lui (iArgs px w))
  | 8 => rows08 (bits w 3 0) (rArgs px w)
  | 9 => rows09 (bits w 3 0) (rArgs px w)
  | 10 => rows0A (bits w 3 0) (rArgs px w)
  | 16 => rows10 (bits w 3 0) (rArgs px w)
  | 20 => rows14 (bits w 3 0) (rArgs px w)
  | 21 => if px.isSome then none else rows15 (bits w 5 0) (kArgs w)
  | 22 => some (.prio (iArgs px w))
  | 24 => some (.bra (jArgs px w))
  | 25 => some (.brc (cArgs px w))
  | 26 => rows1A (bits w 3 0) (rArgs px w)
  | 28 => some (.ld (mArgs px w))
  | 29 => some (.st (mArgs px w))
  | 30 => some (.ldt (mArgs px w))
  | 31 => some (.lds (mArgs px w))
  | 32 => some (.sts (mArgs px w))
  | 33 => rows21 (bits w 3 0) (rArgs px w)
  | 34 => rows22 (bits w 3 0) (rArgs px w)
  | 35 => rows23 (bits w 3 0) (rArgs px w)
  | 36 => if bits w 3 3 = 0 then some (.waitu (BitVec.ofNat 3 w) (rArgs px w)) else none
  | 37 => if bits w 3 3 = 0 then some (.waitl (BitVec.ofNat 3 w) (rArgs px w)) else none
  | 38 => rows26 (bits w 3 0) (rArgs px w)
  | 40 => rows28 (bits w 3 0) (rArgs px w)
  | 41 => rows29 (bits w 3 0) (rArgs px w)
  | 44 => rows2C (bits w 3 0) (rArgs px w)
  | 45 => rows2D (bits w 3 0) (rArgs px w)
  | 48 => some (.tslice (tArgs px w))
  | 49 => if px.isSome then none else rows31 (bits w 3 0) (xArgs w w1)
  | 50 => if px.isSome then none else rows32 (bits w 5 0) (kArgs w)
  | 51 => rows33 (bits w 3 0) (rArgs px w)
  | 56 => rows38 (bits w 3 0) (rArgs px w)
  | 57 => rows39 (bits w 3 0) (rArgs px w)
  | 59 => rows3B (bits w 3 0) (rArgs px w)
  | _ => none

/-- The word is an extension word (MAJ 0x3F, R44). -/
def isExt (w : Nat) : Bool := decide (bits w 30 25 = 0x3F)

/-- The word is the first word of an X-format instruction (R312). -/
def isX (w : Nat) : Bool := decide (bits w 30 25 = 0x31)

/-- How many words the instruction that begins with `w` takes (R44, R312). -/
def wordsOf (w : Nat) : Nat := if isExt w || isX w then 2 else 1

/-- Decode the instruction whose first word is `w0` and whose second word, where it has one, is `w1`, with the checks of R46 in their order. An extension word before another, before a K-format word, an X-format word or MAJ 0x3E is ILLEGAL_OP; an extension word with S = 1 is RESERVED_FIELD (R44). -/
def decode (w0 w1 : Nat) : Except DecodeTrap Instr :=
  let found := if isExt w0 then assigned (some (BitVec.ofNat 25 (bits w0 24 0))) w1 0 else assigned none w0 w1
  match found with
  | none => .error .illegalOp
  | some i =>
    match i.check with
    | some .illegalOp => .error .illegalOp
    | some .reservedField => .error .reservedField
    | none => if isExt w0 && bit w0 31 then .error .reservedField else .ok i

/-- A word from its bytes, the first at the lowest address (R2). -/
def wordOfBytes (b0 b1 b2 b3 : Byte) : Nat := b0.toNat + 256 * b1.toNat + 65536 * b2.toNat + 16777216 * b3.toNat

/-- The bytes of a word, the first at the lowest address (R2). -/
def bytesOfWord (w : Nat) : List Byte :=
  [BitVec.ofNat 8 w, BitVec.ofNat 8 (w / 256), BitVec.ofNat 8 (w / 65536), BitVec.ofNat 8 (w / 16777216)]

/-- Decode the instruction at the head of a byte string: the instruction or the decoding trap, and the bytes that follow it. `none`: too few bytes. -/
def decodeBytes : List Byte → Option (Except DecodeTrap Instr × List Byte)
  | b0 :: b1 :: b2 :: b3 :: t =>
    let w0 := wordOfBytes b0 b1 b2 b3
    if wordsOf w0 = 1 then some (decode w0 0, t)
    else
      match t with
      | c0 :: c1 :: c2 :: c3 :: u => some (decode w0 (wordOfBytes c0 c1 c2 c3), u)
      | _ => none
  | _ => none

/-- The word with the fields of an extension payload (Table 3-1, format E). -/
def extWord (p : BitVec 25) : Nat := 0x3F * 2 ^ 25 + p.toNat

/-- The switch marker at its place. -/
def swBit (sw : Bool) : Nat := if sw then 2 ^ 31 else 0

/-- A word after its extension word, when it has one. -/
def withExt (px : Option (BitVec 25)) (w : Nat) : List Nat :=
  match px with
  | none => [w]
  | some p => [extWord p, w]

/-- Words of an R-format instruction (Table 3-1). -/
def rWords (maj f : Nat) (r : RArgs) : List Nat :=
  withExt r.px (swBit r.sw + maj * 2 ^ 25 + r.d.toNat * 2 ^ 18 + r.a.toNat * 2 ^ 11 + r.b.toNat * 2 ^ 4 + f)

/-- Words of an I-format instruction (Table 3-1). -/
def iWords (maj : Nat) (i : IArgs) : List Nat :=
  withExt i.px (swBit i.sw + maj * 2 ^ 25 + i.d.toNat * 2 ^ 18 + i.a.toNat * 2 ^ 11 + i.imm.toNat)

/-- Words of BRA (Table 3-1, format J). -/
def jWords (j : JArgs) : List Nat := withExt j.px (swBit j.sw + 0x18 * 2 ^ 25 + j.prio.toNat * 2 ^ 21 + j.off.toNat)

/-- Words of BRC (Table 3-1, format C). -/
def cWords (c : CArgs) : List Nat :=
  withExt c.px (swBit c.sw + 0x19 * 2 ^ 25 + c.prio.toNat * 2 ^ 21 + c.cond.toNat * 2 ^ 14 + c.off.toNat)

/-- Words of an M-format instruction (Table 3-1). -/
def mWords (maj : Nat) (m : MArgs) : List Nat :=
  withExt m.px (swBit m.sw + maj * 2 ^ 25 + m.d.toNat * 2 ^ 18 + m.a.toNat * 2 ^ 11 + m.size.toNat * 2 ^ 8 + m.hint.toNat * 2 ^ 6 + m.off.toNat)

/-- The word of a K-format instruction (Table 3-1). -/
def kWords (maj f : Nat) (k : KArgs) : List Nat :=
  [swBit k.sw + maj * 2 ^ 25 + k.kd.toNat * 2 ^ 21 + k.ka.toNat * 2 ^ 17 + k.kb.toNat * 2 ^ 13 + k.r.toNat * 2 ^ 6 + f]

/-- Words of TSLICE (Table 3-1, format T). -/
def tWords (t : TArgs) : List Nat :=
  withExt t.px (swBit t.sw + 0x30 * 2 ^ 25 + t.tile.toNat * 2 ^ 21 + t.col.toNat * 2 ^ 20 + t.idx.toNat * 2 ^ 13 + t.imm.toNat * 2 ^ 8 +
    t.reg.toNat * 2 + t.wr.toNat)

/-- Words of an X-format instruction (Tables 17-1, 17-2). -/
def xWords (f : Nat) (x : XArgs) : List Nat :=
  [swBit x.sw + 0x31 * 2 ^ 25 + x.xd.toNat * 2 ^ 21 + x.xa.toNat * 2 ^ 17 + x.xb.toNat * 2 ^ 13 + x.q.toNat * 2 ^ 10 + x.hold.toNat * 2 ^ 9 +
    x.h.toNat * 2 ^ 5 + x.rsv.toNat * 2 ^ 4 + f, x.payload.toNat]

/-- The words of an encoded instruction, first word first; an event has none. -/
def encode : Instr → List Nat
  | .add r => rWords 0x00 0 r
  | .sub r => rWords 0x00 1 r
  | .mul r => rWords 0x00 2 r
  | .mulh r => rWords 0x00 3 r
  | .mulhU r => rWords 0x00 4 r
  | .mad r => rWords 0x00 5 r
  | .div r => rWords 0x00 6 r
  | .divU r => rWords 0x00 7 r
  | .mod r => rWords 0x00 8 r
  | .modU r => rWords 0x00 9 r
  | .min r => rWords 0x00 10 r
  | .minU r => rWords 0x00 11 r
  | .max r => rWords 0x00 12 r
  | .maxU r => rWords 0x00 13 r
  | .abs r => rWords 0x00 14 r
  | .neg r => rWords 0x00 15 r
  | .and r => rWords 0x01 0 r
  | .or r => rWords 0x01 1 r
  | .xor r => rWords 0x01 2 r
  | .not r => rWords 0x01 3 r
  | .shl r => rWords 0x01 4 r
  | .shr r => rWords 0x01 5 r
  | .sra r => rWords 0x01 6 r
  | .bfx r => rWords 0x01 7 r
  | .bfi r => rWords 0x01 8 r
  | .popc r => rWords 0x01 9 r
  | .clz r => rWords 0x01 10 r
  | .brev r => rWords 0x01 11 r
  | .lea r => rWords 0x01 12 r
  | .addi i => iWords 2 i
  | .andi i => iWords 3 i
  | .ori i => iWords 4 i
  | .xori i => iWords 5 i
  | .shli i => iWords 6 i
  | .lui i => iWords 7 i
  | .fadd r => rWords 0x08 0 r
  | .fsub r => rWords 0x08 1 r
  | .fmul r => rWords 0x08 2 r
  | .ffma r => rWords 0x08 3 r
  | .fmin r => rWords 0x08 4 r
  | .fmax r => rWords 0x08 5 r
  | .fcmp r => rWords 0x08 6 r
  | .fsel r => rWords 0x08 7 r
  | .frnd r => rWords 0x08 8 r
  | .fclass r => rWords 0x08 9 r
  | .frcp r => rWords 0x09 0 r
  | .frsq r => rWords 0x09 1 r
  | .fsqrt r => rWords 0x09 2 r
  | .fex2 r => rWords 0x09 3 r
  | .flg2 r => rWords 0x09 4 r
  | .fsin r => rWords 0x09 5 r
  | .fcos r => rWords 0x09 6 r
  | .dadd r => rWords 0x0A 0 r
  | .dmul r => rWords 0x0A 1 r
  | .dfma r => rWords 0x0A 2 r
  | .cvt r => rWords 0x10 0 r
  | .cvtn r => rWords 0x10 1 r
  | .amax r => rWords 0x10 2 r
  | .scaleq r => rWords 0x10 3 r
  | .pack r => rWords 0x10 4 r
  | .unpack r => rWords 0x10 5 r
  | .cmpset r => rWords 0x10 6 r
  | .shfl r => rWords 0x14 0 r
  | .vote r => rWords 0x14 1 r
  | .redw r => rWords 0x14 2 r
  | .scanw r => rWords 0x14 3 r
  | .matchLanes r => rWords 0x14 4 r
  | .kset k => kWords 0x15 0 k
  | .kmov k => kWords 0x15 1 k
  | .kpop k => kWords 0x15 2 k
  | .join k => kWords 0x15 4 k
  | .leave k => kWords 0x15 5 k
  | .kwait k => kWords 0x15 6 k
  | .klogAnd k => kWords 0x15 8 k
  | .klogOr k => kWords 0x15 9 k
  | .klogXor k => kWords 0x15 10 k
  | .klogAndn k => kWords 0x15 11 k
  | .prio i => iWords 22 i
  | .bra j => jWords j
  | .brc c => cWords c
  | .jmpi r => rWords 0x1A 0 r
  | .callw r => rWords 0x1A 1 r
  | .callk r => rWords 0x1A 2 r
  | .retw r => rWords 0x1A 3 r
  | .retwB r => rWords 0x1A 4 r
  | .retk r => rWords 0x1A 5 r
  | .exit r => rWords 0x1A 6 r
  | .nop r => rWords 0x1A 7 r
  | .yield r => rWords 0x1A 8 r
  | .yieldExpiry _ => []
  | .wbase r => rWords 0x1A 9 r
  | .ld m => mWords 28 m
  | .st m => mWords 29 m
  | .bteBulkCopy _ => []
  | .ldt m => mWords 30 m
  | .lds m => mWords 31 m
  | .sts m => mWords 32 m
  | .atomAdd r => rWords 0x21 0 r
  | .atomMinS r => rWords 0x21 1 r
  | .atomMaxS r => rWords 0x21 2 r
  | .atomMinU r => rWords 0x21 3 r
  | .atomMaxU r => rWords 0x21 4 r
  | .atomAnd r => rWords 0x21 5 r
  | .atomOr r => rWords 0x21 6 r
  | .atomXor r => rWords 0x21 7 r
  | .atomExch r => rWords 0x21 8 r
  | .atomCas r => rWords 0x21 9 r
  | .atomAddF32 r => rWords 0x21 10 r
  | .red op r => rWords 0x21 op.toNat r
  | .atomsAdd r => rWords 0x22 0 r
  | .atomsMinS r => rWords 0x22 1 r
  | .atomsMaxS r => rWords 0x22 2 r
  | .atomsMinU r => rWords 0x22 3 r
  | .atomsMaxU r => rWords 0x22 4 r
  | .atomsAnd r => rWords 0x22 5 r
  | .atomsOr r => rWords 0x22 6 r
  | .atomsXor r => rWords 0x22 7 r
  | .atomsExch r => rWords 0x22 8 r
  | .atomsCas r => rWords 0x22 9 r
  | .atomsAddF32 r => rWords 0x22 10 r
  | .reds op r => rWords 0x22 op.toNat r
  | .fpush r => rWords 0x23 0 r
  | .fpop r => rWords 0x23 1 r
  | .pref r => rWords 0x23 2 r
  | .chint r => rWords 0x23 3 r
  | .bankcfg r => rWords 0x23 4 r
  | .bankcfgComplete _ _ => []
  | .phase r => rWords 0x23 5 r
  | .fenceo r => rWords 0x23 6 r
  | .fencer r => rWords 0x23 7 r
  | .publish r => rWords 0x23 8 r
  | .shadowset r => rWords 0x23 9 r
  | .shadowsetDel r => rWords 0x23 9 r
  | .ldc r => rWords 0x23 10 r
  | .waitu cmp r => rWords 36 cmp.toNat r
  | .waitl cmp r => rWords 37 cmp.toNat r
  | .pegRegistration _ => []
  | .pegRetry _ => []
  | .homeWrite _ => []
  | .pegTimeout _ => []
  | .barr r => rWords 0x26 0 r
  | .bwait r => rWords 0x26 1 r
  | .bsetm r => rWords 0x26 2 r
  | .tspawn r => rWords 0x28 0 r
  | .trange r => rWords 0x28 1 r
  | .tnext r => rWords 0x28 2 r
  | .tjoin r => rWords 0x28 3 r
  | .tend r => rWords 0x28 4 r
  | .tcancel r => rWords 0x28 5 r
  | .tself r => rWords 0x28 6 r
  | .fset r => rWords 0x29 0 r
  | .fwait r => rWords 0x29 1 r
  | .lockw r => rWords 0x29 2 r
  | .unlock r => rWords 0x29 3 r
  | .qput r => rWords 0x29 4 r
  | .qputProm r => rWords 0x29 4 r
  | .qputFill r => rWords 0x29 4 r
  | .qtake r => rWords 0x29 5 r
  | .darnerPop _ _ => []
  | .stealRequest _ _ => []
  | .stealWithdraw _ _ => []
  | .darnerAccessFault => []
  | .acp r => rWords 0x2C 0 r
  | .acpLand _ _ => []
  | .acpwait r => rWords 0x2C 1 r
  | .tplset r => rWords 0x2C 2 r
  | .swinit r => rWords 0x2C 3 r
  | .syncw r => rWords 0x2C 4 r
  | .btestat r => rWords 0x2C 5 r
  | .btestatClr r => rWords 0x2C 5 r
  | .bteRowLand _ _ _ => []
  | .gather r => rWords 0x2D 0 r
  | .scatter r => rWords 0x2D 1 r
  | .scatadd r => rWords 0x2D 2 r
  | .gswait r => rWords 0x2D 3 r
  | .gswaitDup r => rWords 0x2D 3 r
  | .gswaitOut r => rWords 0x2D 3 r
  | .seamRowRequest _ _ _ => []
  | .seamEntryLand _ _ _ => []
  | .tslice t => tWords t
  | .tbind x => xWords 0 x
  | .tzero x => xWords 1 x
  | .mxlw x => xWords 2 x
  | .mxswap x => xWords 3 x
  | .mxmm x => xWords 4 x
  | .mxmms x => xWords 5 x
  | .mxep x => xWords 6 x
  | .mxsel x => xWords 7 x
  | .mxselRead x => xWords 7 x
  | .accld x => xWords 8 x
  | .accst x => xWords 9 x
  | .accz x => xWords 10 x
  | .mxsave x => xWords 11 x
  | .mxload x => xWords 12 x
  | .pressCommandComplete _ => []
  | .tpset k => kWords 0x32 0 k
  | .tplogAnd k => kWords 0x32 8 k
  | .tplogOr k => kWords 0x32 9 k
  | .tplogXor k => kWords 0x32 10 k
  | .tplogAndn k => kWords 0x32 11 k
  | .mxseq r => rWords 0x33 0 r
  | .mxwait r => rWords 0x33 1 r
  | .mxwaitOut r => rWords 0x33 1 r
  | .bmv r => rWords 0x38 0 r
  | .bfenceW r => rWords 0x38 1 r
  | .bfenceR r => rWords 0x38 1 r
  | .bmwait r => rWords 0x38 2 r
  | .bmwaitAll r => rWords 0x38 2 r
  | .bmwaitSeq r => rWords 0x38 2 r
  | .bmwaitLast r => rWords 0x38 2 r
  | .bcuCommandComplete _ => []
  | .xres r => rWords 0x39 0 r
  | .xresRel r => rWords 0x39 0 r
  | .xhit r => rWords 0x39 1 r
  | .xage r => rWords 0x39 2 r
  | .xageNow r => rWords 0x39 2 r
  | .xquery r => rWords 0x39 3 r
  | .hamperStagingComplete _ => []
  | .hamperAgeingStep _ => []
  | .trap r => rWords 0x3B 0 r
  | .tret r => rWords 0x3B 1 r
  | .tretSkip r => rWords 0x3B 1 r
  | .rdctl r => rWords 0x3B 2 r
  | .wrctl r => rWords 0x3B 3 r
  | .ctxsave r => rWords 0x3B 4 r
  | .ctxload r => rWords 0x3B 5 r
  | .ctxloadRearm r => rWords 0x3B 5 r
  | .tlbinv r => rWords 0x3B 6 r
  | .smcVersion r => rWords 0x3B 7 r
  | .smcAttest r => rWords 0x3B 7 r
  | .smcLoadKeySlot r => rWords 0x3B 7 r
  | .smcSetRegionEntry r => rWords 0x3B 7 r
  | .smcReadErrorCounters r => rWords 0x3B 7 r
  | .smcPowerState r => rWords 0x3B 7 r
  | .smcSnapshot r => rWords 0x3B 7 r
  | .smcBindFabricJob r => rWords 0x3B 7 r
  | .smcLoadSnapshot r => rWords 0x3B 7 r
  | .registerWritePerformed _ _ _ => []
  | .impreciseStoreFault => []
  | .chunkClaim _ _ => []
  | .warpEvictionSave _ => []
  | .warpRestore _ => []
  | .contextCreate _ => []
  | .cpServeEntry _ _ => []
  | .nodeKernel _ => []
  | .nodeTaskroot _ => []
  | .nodeCopy _ => []
  | .copyNodeComplete _ => []
  | .nodeCond _ => []
  | .nodeLoop _ => []
  | .nodeWaitmem _ => []
  | .nodeSignal _ => []
  | .nodeEnd _ => []
  | .hostWrite _ _ => []
  | .hostRead _ => []
  | .flitReceive _ _ => []
  | .linkHeartbeat _ => []
  | .moduleFailureDetect _ => []
  | .moduleReset => []
  | .bringupStage _ _ => []
  | .powerStateChange _ _ _ => []
  | .warpWaitDeadline _ => []
  | .pipeIntervalEnd _ _ _ => []

/-- Decode a word list of one or two words. -/
def decodeWords : List Nat → Except DecodeTrap Instr
  | [w0] => decode w0 0
  | [w0, w1] => decode w0 w1
  | _ => .error .illegalOp

/-- The instruction the decoder reads from an instruction of the opcode table whose bits are `w`, the first word in the low bits; bits above `nbits` are 0. -/
def decodeTableWord (nbits w : Nat) : Option Instr :=
  let v := w % 2 ^ nbits
  match decodeBytes (bytesOfWord v ++ bytesOfWord (v / 2 ^ 32)) with
  | some (.ok i, _) => some i
  | _ => none

end Sys2Proof
end

