-- ==== Sys2Proof/Machine/Issue.lean ====
section
/-! DEFINITION. Issue: the choice among eligible warps (R59) and entries (R61), the fetch of an instruction's words (R45, R411), the pipes of a quarter (R135, R161, R185), and the switch marker (R40). -/

namespace Sys2Proof.Machine

/-! ### Fetch -/

/-- A byte of code at the home under an owner key, free where the contents are undefined for the party that fetches it (R4, R45, R209). -/
def State.codeByte (s : State) (p : Party) (okey k : Nat) : Byte :=
  if s.isUndef k || offends p (s.histOf (k / 4 * 4)) then s.freeBits [12, k] 8 else s.underKey okey k (s.mem.byte k)

/-- Fetch one word of code in a warp's context (R45): bytes at the home under the page's owner key. What is not published to the warp's core is recalled first (R205), and the line takes its page's class (R14). A word that an uncorrectable error struck is dropped, counted, and read once more; the flag says that it failed again (R411). DEDUCED (log 13): a fetch that the region table denies as it arrives (R406) is dropped twice too. Log 21. -/
def State.fetchWord (s : State) (w : WarpCore) (pc : Nat) : State × Except (Trap × Bool) Nat :=
  match s.translate w.party (s.asidOf w) (s.warpWorld w) .fetch pc with
  | (s, .error e) => (s, .error (e.trap .fetch pc, false))
  | (s, .ok (l, pa)) =>
    let s := (s.fillSpan l pa 4).recall w.party pa 4
    if !s.regionAllows (s.warpWorld w) pa then (s.count (homeDie pa) 3 2, .error (trapAt .pageFaultLd pc, true))
    else
      let s := s.countDrop pa 4
      if s.struck pa 4 && decide (s.pick [12, pa] 2 = 0) then (s.countDrop pa 4, .error (trapAt .pageFaultLd pc, true))
      else (s, .ok (natOfBytes ((keysFrom pa 4).map (s.codeByte w.party l.okey))))

/-- What a READY entry issues next: an instruction, or a trap of fetch or decoding. -/
inductive Fetched where
  | ins (i : Instr) (c : Issue)
  | trap (c : Issue) (t : Trap) (drop : Bool)
  deriving DecidableEq, Repr

/-- The cause of a decoding trap (R46). -/
def decodeCause : DecodeTrap → Cause
  | .illegalOp => .illegalOp
  | .reservedField => .reservedField

/-- The issue record of an entry's instruction from its words (Table 24-1, INSN and PAIR). -/
def issueOf (wid : Nat) (e : Entry) (w0 w1 : Nat) : Issue :=
  { wid := wid, pc := e.pc, prio := e.prio, lanes := e.lanes, len := 4 * wordsOf w0, pair := isExt w0,
    insn := if isExt w0 then w1 + w0 * 2 ^ 32 else if isX w0 then w0 + w1 * 2 ^ 32 else w0 }

/-- Fetch and decode the instruction at an entry (R44, R46). -/
def State.fetch (s : State) (wid : Nat) (w : WarpCore) (e : Entry) : State × Fetched :=
  match s.fetchWord w e.pc with
  | (s, .error t) => (s, .trap { (issueOf wid e 0 0) with insn := 0 } t.1 t.2)
  | (s, .ok w0) =>
    if wordsOf w0 = 1 then
      match decode w0 0 with
      | .ok i => (s, .ins i (issueOf wid e w0 0))
      | .error d => (s, .trap (issueOf wid e w0 0) (trapOf (decodeCause d) 0) false)
    else
      match s.fetchWord w ((e.pc + 4) % 2 ^ 57) with
      | (s, .error t) => (s, .trap (issueOf wid e w0 0) t.1 t.2)
      | (s, .ok w1) =>
        match decode w0 w1 with
        | .ok i => (s, .ins i (issueOf wid e w0 w1))
        | .error d => (s, .trap (issueOf wid e w0 w1) (trapOf (decodeCause d) 0) false)

/-! ### Pipes (R135, R161, R185) -/

/-- The quarter's pipe for an instruction is free. Log 31. -/
def State.pipeFree (s : State) (core q insn : Nat) : Bool :=
  match pipeOf insn with
  | some (p, _) => !((s.core core).pipes.any (fun h => decide (h.1 = q) && decide (h.2.1 = p) && decide (s.clk < h.2.2)))
  | none => true

/-! ### Which warp, which entry -/

/-- Between READY entries: the higher priority, then the lower PC (R61). -/
def bestEntry : List Entry → Option Entry
  | [] => none
  | e :: r =>
    match bestEntry r with
    | none => if e.isReady then some e else none
    | some b => if e.isReady && (decide (b.prio < e.prio) || (decide (e.prio = b.prio) && decide (e.pc ≤ b.pc))) then some e else some b

/-- A warp's own conditions of R59: not leaving, not held at a switch marker, not yielding, and what a wait or a trap drained performed. DEDUCED (log 57): the code that a wait has still to write is no outstanding register write before the wait completes, so the other entries of its warp issue; the marker of the waiting instruction holds the warp from the completion on. Log 5. -/
def State.mayIssue (s : State) (w : WarpCore) : Bool :=
  !s.evicting.contains w.wid && (!w.held || w.out.isEmpty) && decide (w.drained ≤ s.clk) &&
    (match w.yieldTo with | some t => decide (t ≤ s.clk) | none => true)

/-- What a warp would issue now, when it is eligible (R59, R135). -/
def State.attempt (s : State) (core q wid : Nat) : Option (State × Fetched) :=
  match s.warp? wid with
  | none => none
  | some w =>
    if !s.mayIssue w then none
    else
      match bestEntry w.frontier with
      | none => none
      | some e =>
        match s.fetch wid w e with
        | (s1, .trap c t d) => some (s1, .trap c t d)
        | (s1, .ins i c) => if s.pipeFree core q c.insn then some (s1, .ins i c) else none

/-- Slots of a quarter in the order of its rotation (R59): from the one after the slot it issued last. -/
def rotation (q last : Nat) : List Nat := (List.range 16).map (fun i => (last / 4 + 1 + i) % 16 * 4 + q)

/-- The first eligible warp of a quarter in rotation, and what it issues. -/
def State.nextIssue (s : State) (core q : Nat) : Option (State × Fetched) :=
  if s.clk < ((s.core core).nextAt[q]?).getD 0 then none
  else (rotation q (((s.core core).lastSlot[q]?).getD 0)).findSome? (fun slot => s.attempt core q (widOf core slot))

/-! ### After an issue -/

/-- A quarter has issued: its rotation moves, other warps of it stop yielding (R159), the pipe is held (R135), and an instruction with a switch marker holds its warp until its register writes are performed (R40). Log 31. -/
def State.issued (s : State) (c : Issue) (token : Nat) (pipe : Option (Pipe × Nat)) : State :=
  let core := c.wid / 64
  let slot := c.wid % 64
  let q := slot % 4
  let s := s.modCore core fun x => { x with
    lastSlot := x.lastSlot.set q slot
    nextAt := x.nextAt.set q (s.clk + 1)
    pipes := (match pipe with | some (p, n) => [(q, p, s.clk + n)] | none => []) ++
      x.pipes.filter (fun h => !(decide (h.1 = q) && decide (some h.2.1 = pipe.map (·.1)))) }
  let s := { s with warps := s.warps.map (fun (e : Nat × Warp) =>
    if e.1 / 64 = core ∧ e.1 % 4 = q ∧ e.1 ≠ c.wid then (e.1, { e.2 with run := { e.2.run with yieldTo := none } }) else e) }
  s.modTok token (fun w => { w with held := bit c.insn 31 })

/-- An instruction that failed to fetch or decode traps in every lane of its entry (R45, R46). -/
def State.issueTrap (s : State) (c : Issue) (t : Trap) (drop : Bool) : State :=
  let s := if drop then (s.modRun c.wid (fun w => { w with drop := true })).count (dieOf (c.wid / 64)) 4 1 else s
  s.trapAll c t

end Sys2Proof.Machine
end

