-- ==== Sys2Proof/Machine/Evict.lean ====
section
/-! DEFINITION. Partial eviction (R79 to R81, R368): which warps leave a core for incoming work, the save of a warp (R80, R390, R391), the save of a launch's banks and Press context once all its warps have left a core, and the restore of a warp. -/

namespace Sys2Proof.Machine

/-! ### Priorities (R79, R367, R368) -/

/-- A context's priority while warps of it are marked runnable (R368). -/
def State.raised (s : State) (asid p : Nat) : Nat :=
  if s.saved.any (fun v => v.marked.isSome && decide ((s.launch v.warp.run.launch).asid = asid)) then min (p + 1) 7 else p

/-- The priority of a launch's context as it comes to a core: the highest of its launches there, the incoming one among them. -/
def State.inPrio (s : State) (core launch : Nat) : Nat :=
  let l := s.launch launch
  max (s.ctxPrio core l.asid) (s.raised l.asid l.prio)

/-! ### Which warps leave (R79) -/

/-- Launch of a resident warp. -/
def State.launchOf (s : State) (wid : Nat) : Nat := match s.warp? wid with | some w => w.launch | none => 0

/-- ASID of a resident warp. -/
def State.asidAt (s : State) (wid : Nat) : Nat := (s.launch (s.launchOf wid)).asid

/-- Resident warps of a core, ascending slots. -/
def State.widsOn (s : State) (core : Nat) : List Nat := (s.warps.filter (fun e => decide (e.1 / 64 = core))).map (·.1)

/-- The core as it would be without a warp: its launch's banks go free with the launch's last warp there. -/
def State.without (s : State) (wid : Nat) : State :=
  let core := wid / 64
  let l := s.launchOf wid
  let s := { s with warps := s.warps.erase wid, saved := s.saved.filter (fun v => decide (v.wid ≠ wid)) }
  if (s.widsOn core).any (fun x => decide (s.launchOf x = l)) then s
  else s.modCore core (fun c => { c with banks := c.banks.map (fun (b : Bank) => if b.owner = some l then { b with owner := none } else b) })

/-- Candidates for eviction: warps of contexts of lower priority than `p`, but not of `asid`, the lowest priority first, and within one the highest slot. -/
def State.victims (s : State) (core asid p : Nat) : List Nat :=
  ((List.range p).map (fun q => ((s.widsOn core).filter (fun x =>
    decide (s.asidAt x ≠ asid) && decide (s.ctxPrio core (s.asidAt x) = q))).reverse)).flatten

/-- The shortest run of candidates whose eviction makes room. -/
def evictUntil (fits : State → Bool) : List Nat → State → Option (List Nat)
  | [], s => if fits s then some [] else none
  | x :: r, s => if fits s then some [] else (evictUntil fits r (s.without x)).map (fun l => x :: l)

/-- The resident context that a fifth one evicts whole, whatever its own priority: the lowest priority, and the one placed earliest among equals. -/
def State.fifthOut (s : State) (core : Nat) : Option Nat :=
  let cs := (s.core core).placed.filter (fun a => (s.contextsOn core).contains a)
  cs.foldl (fun b a => match b with
    | none => some a
    | some x => if s.ctxPrio core a < s.ctxPrio core x then some a else some x) none

/-- The warps that leave a core so that work of a launch fits there, apart from those already leaving; none when no eviction makes room, and then nothing is evicted. Log 42. -/
def State.evictionPlan (s : State) (core launch : Nat) (fits : State → Bool) : Option (List Nat) :=
  let a := (s.launch launch).asid
  let p := s.inPrio core launch
  let s := (s.evicting.filter (fun x => decide (x / 64 = core))).foldl State.without s
  if (s.contextsOn core).contains a || decide ((s.contextsOn core).length < 4) then evictUntil fits (s.victims core a p) s
  else
    match s.fifthOut core with
    | none => none
    | some b =>
      let out := ((s.widsOn core).filter (fun x => decide (s.asidAt x = b))).reverse
      let s := out.foldl State.without s
      (evictUntil fits (s.victims core a p) s).map (fun l => out ++ l)

/-! ### Which launch a core serves (R367) -/

/-- A chunk that a core may claim: from its own die's counter, then from the next dies that have one. -/
def Launch.ticket (l : Launch) (die : Nat) : Option (Nat × Nat) :=
  (List.range 4).findSome? (fun i => match l.tickets.find? (fun t => decide (t.1 = (die + i) % 4)) with
    | some t => if t.2.1 < t.2.2 then some (t.1, t.2.1) else Option.none
    | Option.none => Option.none)

/-- The context's limit of launches on a core lets this one come (R390). -/
def State.launchFits (s : State) (core id asid : Nat) : Bool := (s.launchesOn core asid).contains id || decide ((s.launchesOn core asid).length < 4)

/-- The CP may place a launch on a core where it has no warp. -/
def State.mayPlace (s : State) (core id : Nat) (l : Launch) : Bool :=
  !l.stopped && s.ctxRuns l.asid && l.holds core && decide (core < 384) && (s.warpsOn core id).isEmpty && s.launchFits core id l.asid

/-- A core is idle for a flat launch that has chunks left for it, and the CP may place it there. -/
def State.wants (s : State) (core id : Nat) (l : Launch) : Bool := !l.task && s.mayPlace core id l && (l.ticket (dieOf core)).isSome

/-- A core is idle for a task launch whose Darner there has a record to start, and the CP may place it there. -/
def State.wantsTask (s : State) (core id : Nat) (l : Launch) : Bool :=
  l.task && s.mayPlace core id l && (let d := s.darner core id; !(d.handed ++ d.pending ++ d.deque).isEmpty)

/-- A core has room for what starts first of a launch: all the warps of a chunk, or one task (R69, R70, R79). -/
def State.roomFor (s : State) (core id : Nat) : Bool :=
  let l := s.launch id
  s.banksFit core id && s.admits core id && (if l.task then (s.taskSlot core id).isSome else (chooseSlots (s.slotsUsed core) l.alloc l.warps).isSome)

/-- The order in which launches that compete for a core are served (R367). Log 39. -/
def State.launchBefore (s : State) (a b : Launch) : Bool :=
  let q (l : Launch) : Nat := match s.graphs.find? l.graph with | some r => r.queue | none => 0
  decide (b.prio < a.prio) || (decide (a.prio = b.prio) && (decide (a.since < b.since) || (decide (a.since = b.since) &&
    (decide (a.asid < b.asid) || (decide (a.asid = b.asid) && decide (q a < q b))))))

/-- Some launch that goes first wants the core and can have it, or will have it once what leaves has left (R367). -/
def State.outranked (s : State) (core id : Nat) : Bool :=
  let l := s.launch id
  s.launches.any (fun e => decide (e.1 ≠ id) && s.launchBefore e.2 l && (s.wants core e.1 e.2 || s.wantsTask core e.1 e.2) &&
    (s.evictionPlan core e.1 (fun s => s.roomFor core e.1)).isSome)

/-! ### Room (R79) -/

/-- Evict what R79 evicts for a launch's incoming work. Log 42. -/
def State.makeRoom (s : State) (core launch : Nat) (fits : State → Bool) : State :=
  match s.evictionPlan core launch fits with
  | some l => { s with evicting := s.evicting ++ l }
  | none => s

/-! ### The save of a warp (R80, R285, R337, R390, R391) -/

/-- A lane of the warp has a recorded code (R229). -/
def Warp.hasCode (x : Warp) : Bool :=
  (x.run :: x.help).any (fun w => w.frontier.any (fun e => match e.state with | .wait _ t => t.code.isSome | _ => false))

/-- A warp leaves its core (R80): outstanding register writes performed, stores published, monitors moved to the Peg Table, its state written. -/
def State.saveWarp (s : State) (wid : Nat) : State :=
  let s := (s.modRun wid WarpCore.drainRegs).boundary wid .dev false
  let s := s.moveMonitors wid
  match s.warps.find? wid with
  | none => s
  | some x =>
    let s := s.saveWarpImage x
    if (s.warps.find? wid).isNone then s
    else
      { s with
        warps := s.warps.erase wid
        evicting := s.evicting.filter (fun y => decide (y ≠ wid))
        marks := s.marks + 1
        saved := s.saved ++ [{ wid := wid, warp := x, byCall := none, marked := if x.hasCode then some s.marks else none }] }

/-- WARP_EVICTION_SAVE (R80): a warp that is leaving has drained. -/
def execWarpEvictionSave (wid : Nat) (s : State) : Host.Outcome State Fault Refusal :=
  .next (match s.warps.find? wid with
    | some x => if s.evicting.contains wid && s.saveReady x then s.saveWarp wid else s
    | none => s)

/-! ### The save of what a launch holds on a core (R79, R285, R310, R391) -/

/-- A launch of a suspended context holds banks or Press on a core, though it has no warp there: it may start warps there again (R70, R292). Log 42. -/
def State.keepsIdle (s : State) (core launch : Nat) : Bool :=
  let k := s.core core
  (match s.ctxs.find? (s.launch launch).asid with | some c => c.suspended | none => false) &&
    (k.banks.any (fun b => decide (b.owner = some launch)) || decide (k.press.owner = some launch))

/-- All warps of a launch on a core are evicted, and the commands that must complete first have done so (R285): its Seam commands run on (Table 24-5). Log 42. -/
def State.mayLeave (s : State) (core launch : Nat) : Bool :=
  let k := s.core core
  !(s.widsOn core).any (fun x => decide (s.launchOf x = launch)) &&
    (s.saved.any (fun v => decide (v.wid / 64 = core) && decide (v.warp.run.launch = launch) && decide (v.byCall = none)) || s.keepsIdle core launch) &&
    (s.bankSave core launch).isNone && !k.bte.any (fun c => decide (c.launch = launch)) && !k.aperture.any (fun a => decide (a.launch = launch)) &&
    !k.acps.any (fun a => decide (a.token / 2 ^ 32 = launch))

/-- Press gives up the context of a launch that has left (R292, R310): it is saved. -/
def State.savePress (s : State) (core launch : Nat) : State :=
  if (s.core core).press.owner = some launch then
    let a := (s.launch launch).asid
    let s := s.putImage a core (s.core core).press
    s.modCore core (fun k => { k with pressSaved := k.pressSaved.insert launch k.press, press := Press.fresh })
  else s

/-- The Darner of a core that a launch has left: pending steal requests are refused (R391). -/
def State.saveDarner (s : State) (core launch : Nat) : State :=
  let thieves := (s.darner core launch).mailbox.map (·.1)
  let s := if thieves.isEmpty then s else s.modDarner core launch (fun d => { d with mailbox := [] })
  thieves.foldl (fun s t => s.modDarner t launch (fun d => { d with request := none })) s

/-- The banks, templates, channel status, Press and Darner of a launch that has left a core are saved, and its banks go free (Table 24-5). -/
def State.leave (s : State) (core launch : Nat) : State :=
  let a := (s.launch launch).asid
  let area := s.coreArea a core
  let bs := s.banksOf core launch
  let n := ((s.launchesOn core a).takeWhile (fun l => decide (l ≠ launch))).length
  let s := bs.foldl (fun s b => s.putBank a core b) s
  let s := s.putTemplates a core launch (area + 0x134000 + 0x1000 * n)
  let s := (s.savePress core launch).saveDarner core launch
  if !(s.mayLeave core launch) then s
  else
    let save : BankSave := { core := core, launch := launch, banks := bs.map (s.bank core), nos := bs }
    let s := bs.zipIdx.foldl (fun s b => (s.moveBank (spadKey core b.1 0) (savedKey launch core (65536 * b.2))).modBank core b.1 (fun _ => Bank.atReset)) s
    { s with bankSaves := s.bankSaves ++ [save] }

/-- Every launch that may leave a core does. -/
def State.leaveAll (s : State) : State :=
  let idle (e : Nat × Core) : List (Nat × Nat) := (e.2.banks.filterMap (·.owner) ++ e.2.press.owner.toList).map (fun l => (e.1, l))
  let pairs : List (Nat × Nat) := s.saved.map (fun (v : SavedWarp) => (v.wid / 64, v.warp.run.launch)) ++ (s.cores.map idle).flatten
  pairs.eraseDups.foldl (fun s e => if s.mayLeave e.1 e.2 then s.leave e.1 e.2 else s) s

/-- A context has left the module (R391): no warp resident, and what its launches held on each core is saved. -/
def State.hasLeft (s : State) (asid : Nat) : Bool :=
  !s.warps.any (fun e => decide ((s.launch e.2.run.launch).asid = asid)) &&
    (s.saved.filter (fun v => decide ((s.launch v.warp.run.launch).asid = asid) && decide (v.byCall = none))).all
      (fun v => (s.bankSave (v.wid / 64) v.warp.run.launch).isSome) &&
    !s.cores.any (fun e => e.2.banks.any (fun b => match b.owner with | some l => decide ((s.launch l).asid = asid) | none => false))

/-! ### The restore (R81, R229, R368) -/

/-- The slot, the registers and the banks of an evicted warp are free on its core. -/
def SavedWarp.fits (v : SavedWarp) (s : State) : Bool :=
  let core := v.wid / 64
  let w := v.warp.run
  !(s.slotsUsed core).any (fun e => decide (e.1 = v.wid % 64)) && decide (w.alloc / 32 ≤ freeGranules (s.slotsUsed core) (v.wid % 4)) && s.banksFit core w.launch && s.admits core w.launch

/-- Among the marked warps of a context the one marked first goes first (R368). Log 42. -/
def State.turnOf (s : State) (v : SavedWarp) : Bool :=
  match v.marked with
  | none => true
  | some m => !s.saved.any (fun x => decide (x.byCall = none) && decide ((s.launch x.warp.run.launch).asid = (s.launch v.warp.run.launch).asid) &&
      (match x.marked with | some n => decide (n < m) | none => false))

/-- A warp's state is read back from its save slot (R390, R411). -/
def State.readSlot (s : State) (x : Warp) : State × Option Nat :=
  s.readSaves (s.asidOf x.run) (x.image.map (fun e => (s.saveSlot x.run + e.1, e.2)))

/-- Waits of a restored warp on the Peg Table register again (CTXLOAD.rearm, R397). -/
def State.rearm (s : State) (wid : Nat) : State :=
  { s with regs := s.regs.map (fun e =>
      let mine := match e.2.owner with
        | .warp x _ => decide (x = wid)
        | .darner x _ _ => decide (x = wid)
        | _ => false
      (e.1, if mine && decide (e.2.place ≠ .warp) then { e.2 with place := .inFlight } else e.2)) }

/-- A warp restored from a snapshot registers its lanes' waits anew, under numbers of this module (R392, R397). -/
def State.takeWaits (s : State) (wid : Nat) (ws : Table Registration) : State :=
  if ws.isEmpty || (s.warps.find? wid).isNone then s
  else
    let base := s.regs.foldl (fun m e => max m e.1) 0 + 1
    { s with
      regs := ws.foldl (fun t e => t.insert (base + e.1) { e.2 with place := if e.2.place = .warp then .warp else .inFlight }) s.regs
      warps := s.warps.modify wid (fun x => { run := x.run.mapRegs (base + ·), help := x.help.map (WarpCore.mapRegs (base + ·)) }) }

/-- A saved warp as it stands now: a code of a wait of it may have been recorded since (R229). -/
def State.savedAs (s : State) (v : SavedWarp) : SavedWarp := (s.saved.find? (fun x => decide (x.wid = v.wid) && decide (x.byCall = none))).getD v

/-- An evicted warp is resident again (R81): a placement of its context when no other warp of it is there (R364), and a refresh (Table 11-2). -/
def State.restore (s : State) (v : SavedWarp) : State :=
  let a := s.asidOf v.warp.run
  match s.readSlot v.warp with
  | (s, some f) => s.endContext a f
  | (s, none) =>
    let s := s.placeContext (v.wid / 64) a
    let v := s.savedAs v
    let s := { s with saved := s.saved.filter (fun x => decide (x ≠ v)), warps := s.warps.insert v.wid v.warp }.refreshWarp v.wid
    let s := (s.takeBanks (v.wid / 64) v.warp.run.launch).takeWaits v.wid v.waits
    match s.ctxs.find? a with
    | some c =>
      if c.rearm then
        let more := s.saved.any (fun x => decide (s.asidOf x.warp.run = a) && decide (x.byCall = none))
        { s.rearm v.wid with ctxs := s.ctxs.insert a { c with rearm := more } }
      else s
    | none => s

/-- WARP_RESTORE (R81): an evicted warp whose turn it is comes back to its slot, or room is made for it. Log 42. -/
def execWarpRestore (wid : Nat) (s : State) : Host.Outcome State Fault Refusal :=
  .next (match s.saved.find? (fun v => decide (v.wid = wid) && decide (v.byCall = none) && s.turnOf v && s.ctxRuns (s.asidOf v.warp.run)) with
    | none => s
    | some v => if v.fits s then s.restore v else s.makeRoom (wid / 64) v.warp.run.launch v.fits)

end Sys2Proof.Machine
end

