-- ==== Sys2Proof/Machine/Darner.lean ====
section
/-! DEFINITION. Task instructions (R251 to R256, R267) and the Darner's own events (R248, R249, R415). -/

namespace Sys2Proof.Machine

/-! ### Spawning (R250, R252) -/

/-- The current task's record, and job. -/
def WarpCore.spawnControl (w : WarpCore) (range : Bool) : Nat := ctlWord 0 0 range w.job

/-- A record joins those that keep its launch from completing (R247). -/
def State.openRecord (s : State) (launch record : Nat) : State :=
  s.modLaunch launch (fun l => { l with records := record :: l.records.filter (fun x => decide (x ≠ record)) })

/-- JOIN of a running record rises by 1 (R250, R252). -/
def State.addChild (s : State) (core launch record token : Nat) : State :=
  if record = 0 then s
  else
    match s.control launch record token with
    | (s, some v) => s.setControl core launch record (ctlSetJoin v (ctlJoin v + 1)) token
    | (s, none) => s

/-- A record is discarded under the cancel rule when it has not started (R252, R267). -/
def State.discard (s : State) (core launch record token : Nat) : State :=
  match s.control launch record token with
  | (s, some v) => if ctlState v = 0 ∨ ctlState v = 3 then s.finishHere core launch record 6 token else s
  | (s, none) => s

/-- One lane of TSPAWN or TRANGE (R252): code 0, or 4 when the job is cancelled. -/
def State.spawnLane (s : State) (c : Issue) (w : WarpCore) (range : Bool) (record : Nat) : State × Except Trap Nat :=
  match s.waveAccess w .load ((s.launch w.launch).cancel + w.job / 8) 1 with
  | (s, .error t) => (s, .error t)
  | (s, .ok _) =>
  let (s, dead) := s.cancelBit w.launch w.job w.task w.token
  if dead = some true then (s, .ok 4)
  else
    match s.waveAccess w .atomic record 32 with
    | (s, .error t) => (s, .error t)
    | (s, .ok _) =>
      if (s.darner w.core w.launch).mailbox.isEmpty && s.dequeFull w.core w.launch then (s, .error (trapOf .protection 4))
      else
        let s := s.publish c.wid .dev
        let s := s.dWrite w.launch record (record + 16) (bytesOfNat 8 w.task) w.token
        let s := s.setControl w.core w.launch record (w.spawnControl range) w.token
        let s := s.addChild w.core w.launch w.task w.token
        let s := (s.openRecord w.launch record).pushRecord w.core w.launch record
        let (s, dead) := s.cancelBit w.launch w.job w.task w.token
        if dead = some true then (s.discard w.core w.launch record w.token, .ok 4) else (s, .ok 0)

/-- TSPAWN and TRANGE (R252). -/
def spawn (i : Instr) (range : Bool) (r : RArgs) (s : State) : Host.Outcome State Fault Refusal :=
  onWarp i s fun c w =>
    if !s.hasDarner w.launch then s.trapAll c (trapOf .protection 1)
    else
      s.orCancel c w fun s c =>
        let (s, faults, codes) := s.loadLanes (lanesOf c.lanes) (fun s l => s.spawnLane c w range (r.pairA s w l).toNat)
        let s := s.modRun c.wid (fun v => WarpCore.writeLanes s v (w.resolve r.d.toNat) (codes.map (fun e => (e.1, BitVec.ofNat 32 e.2))))
        s.conclude c faults

/-- TSPAWN (R252). -/
def execTspawn (r : RArgs) (s : State) : Host.Outcome State Fault Refusal := spawn (.tspawn r) false r s

/-- TRANGE (R252). -/
def execTrange (r : RArgs) (s : State) : Host.Outcome State Fault Refusal := spawn (.trange r) true r s

/-! ### Ranges (R250, R253) -/

/-- Chunks that remain of a range (R250). -/
def RangeTask.chunks (r : RangeTask) : Nat := (r.hi - r.lo + r.grain - 1) / r.grain

/-- How a range is split (R250): the bounds of the split record, and those that the victim keeps. -/
def RangeTask.split (r : RangeTask) : (Nat × Nat) × (Nat × Nat) :=
  let cut := r.lo + (r.chunks - r.chunks / 2) * r.grain
  if r.chunks / 2 = 1 ∧ r.hi - cut < r.grain then ((r.lo, cut), (cut, r.hi)) else ((cut, r.hi), (r.lo, cut))

/-- A free slot of the split pool (R246). -/
def State.splitSlot (s : State) (core launch : Nat) : Option Nat :=
  ((List.range Config.splitSlots).map (fun i => s.darnerArea core launch + 0xC000 + 64 * i)).find? (fun a => !(s.darner core launch).pool.contains a)

/-- TNEXT serves the oldest steal request with part of the running range (R250). -/
def State.serveSplit (s : State) (w : WarpCore) : State :=
  let d := s.darner w.core w.launch
  match d.mailbox, d.ranges.find? w.task, s.splitSlot w.core w.launch with
  | _ :: _, some r, some a =>
    if r.chunks < 2 then s
    else
      let (give, keep) := r.split
      let s := s.dWrite w.launch a a (bytesOfNat 8 r.code ++ bytesOfNat 8 r.frame ++ bytesOfNat 8 w.task) w.token
      let s := s.dWrite w.launch a (a + 32) (bytesOfNat 4 give.1 ++ bytesOfNat 4 give.2 ++ bytesOfNat 4 r.grain ++ bytesOfNat 4 0) w.token
      let s := s.setControl w.core w.launch a (w.spawnControl true) w.token
      let s := s.addChild w.core w.launch w.task w.token
      let s := s.modDarner w.core w.launch (fun d => { d with pool := a :: d.pool, ranges := d.ranges.insert w.task { r with lo := keep.1, hi := keep.2 } })
      (s.openRecord w.launch a).pushRecord w.core w.launch a
  | _, _, _ => s

/-- TNEXT (R253). -/
def execTnext (r : RArgs) (s : State) : Host.Outcome State Fault Refusal :=
  onWarp (.tnext r) s fun c w =>
    if !s.hasDarner w.launch then s.trapAll c (trapOf .protection 1)
    else if ((s.darner w.core w.launch).ranges.find? w.task).isNone then s.trapAll c (trapOf .protection 2)
    else
      let s := s.serveSplit w
      match (s.darner w.core w.launch).ranges.find? w.task with
      | none => s.conclude c []
      | some x =>
        let n := min x.grain (x.hi - x.lo)
        let s := s.modDarner w.core w.launch (fun d => { d with ranges := d.ranges.insert w.task { x with lo := x.lo + n } })
        (s.giveAll c r.d.toNat [BitVec.ofNat 32 x.lo, BitVec.ofNat 32 n]).conclude c []

/-! ### The end of a task (R254, R255) -/

/-- TEND (R255): a boundary at .dev without refresh, then as EXIT. -/
def execTend (r : RArgs) (s : State) : Host.Outcome State Fault Refusal :=
  onWarp (.tend r) s fun c w =>
    if !s.hasDarner w.launch then s.trapAll c (trapOf .protection 1)
    else
      s.orCancel c w fun s c =>
        let s := s.boundary c.wid .dev false
        let s := { s.modRun c.wid WarpCore.drainRegs with cur := none }
        (s.exitLanes c.wid c.lanes).settleCalls

/-- A running task suspends (R254): its bounds return to its record, CODE is written before STATE, and every live lane ends without `EndTask`. -/
def State.suspend (s : State) (c : Issue) (w : WarpCore) (code control : Nat) : State :=
  let s := s.boundary c.wid .dev false
  let s := s.storeRange w.core w.launch w.task w.token
  let s := s.dWrite w.launch w.task w.task (bytesOfNat 8 code) w.token
  let s := s.setControl w.core w.launch w.task (ctlSetState control 2) w.token
  let s := { s.modRun c.wid (fun w => { w.drainRegs with task := 0 }) with cur := none }
  (s.exitLanes c.wid w.live).settleCalls

/-- TJOIN (R254); one that suspends is a boundary of Table 11-2, at which a cancelled lane takes its CANCEL trap (R267). Log 30. -/
def execTjoin (r : RArgs) (s : State) : Host.Outcome State Fault Refusal :=
  onWarp (.tjoin r) s fun c w =>
    if !s.hasDarner w.launch then s.trapAll c (trapOf .protection 1)
    else if w.live &&& ~~~c.lanes ≠ 0 then s.trapAll c (trapOf .protection 5)
    else if w.task = 0 then s.conclude c []
    else
      match s.waveAccess w .atomic w.task 32 with
      | (s, .error t) => s.trapAll c t
      | (s, .ok _) =>
        match s.control w.launch w.task w.token with
        | (s, none) => s.conclude c []
        | (s, some v) =>
          if ctlJoin v = 0 then s.conclude c []
          else
            s.orCancel c w fun s c =>
              if w.live &&& ~~~c.lanes ≠ 0 then s.trapAll c (trapOf .protection 5) else s.suspend c w (r.pairA s w c.lead).toNat v

/-- TSELF (R256). -/
def execTself (r : RArgs) (s : State) : Host.Outcome State Fault Refusal :=
  onWarp (.tself r) s fun c w =>
    let vals :=
      if sub r.px = 0 then [BitVec.ofNat 32 w.task, BitVec.ofNat 32 (w.task / 2 ^ 32)]
      else if sub r.px = 1 then [BitVec.ofNat 32 w.job]
      else [BitVec.ofNat 32 w.depth]
    (s.giveAll c r.d.toNat vals).conclude c []

/-! ### Cancel (R267) -/

/-- Records that a launch's Darners refer to: deques, pending lists and hand-overs. -/
def State.queuedRecords (s : State) (launch : Nat) : List (Nat × Nat) :=
  s.cores.foldl (fun acc e => match e.2.darners.find? launch with
    | some d => acc ++ (d.deque ++ d.pending ++ d.handed).map (fun r => (e.1, r))
    | none => acc) []

/-- The cancel scan (R267): unstarted records of the job become DISCARDED. -/
def State.cancelScan (s : State) (launch job token : Nat) : State :=
  (s.queuedRecords launch).foldl (fun s e =>
    match s.control launch e.2 token with
    | (s, some v) => if ctlJob v = job then s.discard e.1 launch e.2 token else s
    | (s, none) => s) s

/-- TCANCEL (R267): the bit, the scans, the completion word, and the waits of the job's running tasks. Its own accesses fault precisely (R251). -/
def execTcancel (r : RArgs) (s : State) : Host.Outcome State Fault Refusal :=
  onWarp (.tcancel r) s fun c w =>
    let job := (r.vA s w c.lead).toNat % 2 ^ 16
    let word := (r.pairB s w c.lead).toNat
    if !s.hasDarner w.launch then s.trapAll c (trapOf .protection 1)
    else
      let at_ := (s.launch w.launch).cancel + job / 8
      match s.waveAccess w .atomic at_ 1 with
      | (s, .error t) => s.trapAll c t
      | (s, .ok _) =>
      match s.waveAccess w .atomic word 4 with
      | (s, .error t) => s.trapAll c t
      | (s, .ok (leaf, pa)) =>
        let s := s.publish c.wid .dev
        let s := match s.dRead w.launch w.task at_ 1 w.token with
          | (s, some b) => s.dWrite w.launch w.task at_ (bytesOfNat 1 (b ||| 2 ^ (job % 8))) w.token
          | (s, none) => s
        let s := s.cancelScan w.launch job w.token
        let s := s.cancelJob w.launch job
        let (leaf, pa) := s.readPlace w leaf word pa
        let (s, old) := (s.fillSpan leaf pa 4).readGlobal c.wid w true leaf word 4
        let s := if s.regionAllows (s.warpWorld w) pa then
            (s.homeWrite w.writer .dev none leaf.okey pa (bytesOfNat 4 (natOfBytes old + 1))).spoilDarner (s.asidOf w) word 4
          else s
        (s.giveAll c r.d.toNat [0]).conclude c []

/-! ### The Darner's events -/

/-- A core may start a warp of the launch now: a rectangle core of a task launch that nothing has stopped, whose context may run, with a place for it. -/
def State.mayStart (s : State) (core launch : Nat) : Option (Nat × Nat) :=
  match s.launches.find? launch with
  | none => none
  | some l =>
    if l.task && !l.stopped && s.ctxRuns l.asid && l.holds core && decide (core < 384) && s.admits core launch then s.taskSlot core launch else none

/-- The next entry of a Darner, in the order it starts them (R248, R249), and the Darner without it. -/
def Darner.take (d : Darner) : Option (Nat × Darner) :=
  match d.handed, d.pending, d.deque with
  | r :: t, _, _ => some (r, { d with handed := t })
  | [], r :: t, _ => some (r, { d with pending := t })
  | [], [], r :: t => some (r, { d with deque := t })
  | [], [], [] => none

/-- DARNER_POP (R248): a Darner with a free slot claims its next entry and runs it, unless it would bring its launch to a core that another launch goes before it to (R367). -/
def execDarnerPop (core launch : Nat) (s : State) : Host.Outcome State Fault Refusal :=
  .next (match s.mayStart core launch, (s.darner core launch).take with
    | some (slot, rank), some (record, d) =>
      if (s.warpsOn core launch).isEmpty && s.outranked core launch then s
      else
      let s := s.modDarner core launch (fun _ => d)
      match s.claim core launch record 0 with
      | (s, .won v) => s.startTask core launch record v slot rank
      | (s, _) => s
    | _, _ => s)

/-- Cores in ascending (y, x): core indexes rise that way. -/
def rectCores (l : Launch) : List Nat := (List.range 384).filter l.holds

/-- The cyclic order in which a core chooses victims (R249). Log 30. -/
def victimOrder (l : Launch) (core : Nat) : List Nat :=
  ((List.range 4).map (fun i => (rectCores l).filter (fun c => decide (c ≠ core) && decide (dieOf c = (dieOf core + i) % 4)))).flatten

/-- The victim after the last one, wrapping around. Log 30. -/
def nextVictim (order : List Nat) (last : Option Nat) : Option Nat :=
  match last with
  | none => order.head?
  | some v => match (order.dropWhile (fun x => decide (x ≠ v))).drop 1 with
    | x :: _ => some x
    | [] => order.head?

/-- A task of the launch runs on a core. -/
def State.tasksOn (s : State) (core launch : Nat) : Bool := (s.warpsOn core launch).any (fun w => decide (w.task ≠ 0))

/-- A request reaches a victim (R249): served at once from its pending list (R248), refused, or kept in its mailbox. -/
def State.postRequest (s : State) (core launch victim : Nat) : State :=
  let s := s.modDarner core launch (fun d => { d with lastVictim := some victim })
  let d := s.darner victim launch
  if 4 ≤ d.mailbox.length ∨ !s.tasksOn victim launch then s
  else
    match d.pending with
    | r :: rest =>
      let s := s.modDarner victim launch (fun d => { d with pending := rest })
      s.modDarner core launch (fun d => { d with handed := d.handed ++ [r] })
    | [] =>
      let s := s.modDarner victim launch (fun d => { d with mailbox := d.mailbox ++ [(core, s.ns)] })
      s.modDarner core launch (fun d => { d with request := some (victim, s.ns) })

/-- STEAL_REQUEST (R249): a Darner with a free slot and nothing to claim asks its next victim. -/
def execStealRequest (core launch : Nat) (s : State) : Host.Outcome State Fault Refusal :=
  .next (match s.mayStart core launch, (s.darner core launch).take, (s.darner core launch).request with
    | some _, none, none =>
      match nextVictim (victimOrder (s.launch launch) core) (s.darner core launch).lastVictim with
      | some v => s.postRequest core launch v
      | none => s
    | _, _, _ => s)

/-- STEAL_WITHDRAW (R249): a request unserved for 2 µs. -/
def execStealWithdraw (core launch : Nat) (s : State) : Host.Outcome State Fault Refusal :=
  .next (match (s.darner core launch).request with
    | some (victim, t) =>
      if s.ns < t + 2000 then s
      else
        let s := s.modDarner victim launch (fun d => { d with mailbox := d.mailbox.filter (fun m => decide (m.1 ≠ core)) })
        s.modDarner core launch (fun d => { d with request := none })
    | none => s)

/-- Every Darner of a launch forgets its entries (R415). -/
def State.clearDarners (s : State) (launch : Nat) : State :=
  { s with cores := s.cores.map (fun e => (e.1, { e.2 with darners := e.2.darners.modify launch (fun d =>
      { d with deque := [], pending := [], mailbox := [], request := none, handed := [] }) })) }

/-- A fault of a Darner's own access stops its launch (R415). -/
def State.stopLaunch (s : State) (f : DarnerFault) : State :=
  let s := s.queueFrame (s.launch f.launch).asid (some f.launch)
    { Frame.queued_ .engineFault 8 with task := f.record, faddr := f.addr, token := f.token } 0
  let s := s.modLaunch f.launch (fun l => { l with stopped := true, faulted := true })
  (s.clearDarners f.launch).cancelLaunchWaits f.launch none true

/-- DARNER_ACCESS_FAULT (R415): the oldest fault. -/
def execDarnerAccessFault (s : State) : Host.Outcome State Fault Refusal :=
  .next (match s.darnerFaults with
    | [] => s
    | f :: rest => State.stopLaunch { s with darnerFaults := rest } f)

end Sys2Proof.Machine
end

