-- ==== Sys2Proof/Machine/Hamper.lean ====
section
/-! DEFINITION. The Hamper (R338 to R343): the expert table of a context in memory, residency, staging, counting and ageing. -/

namespace Sys2Proof.Machine

/-! ### The table (R338) -/

/-- A context's Hamper table as its header gives it (Table 19-5). -/
structure HamperTable where
  asid : Nat
  at_ : Nat
  slots : Nat
  experts : Nat
  slotBase : Nat
  slotSz : Nat
  dir : Nat
  scBase : Nat
  scSz : Nat
  period : Nat
  deriving DecidableEq, Repr

/-- The slot region lies in tier-1 mappings of the context (R338). -/
def State.tierOne (s : State) (asid va n : Nat) : Bool :=
  (pageRuns va n).all (fun r => match s.walk asid r.1 with
    | some l => decide (l.pa r.1 < 0x4000000000)
    | none => false)

/-- The header meets Table 19-5 and the conditions of R338; its reserved bits are ignored (R3). Log 37. -/
def HamperTable.ok (s : State) (h : HamperTable) : Bool :=
  decide (h.dir % 32 = 0) && decide (h.slotSz % 2 ^ 18 = 0) && decide (h.slotBase % 2 ^ 18 = 0) && decide (h.slots * h.slotSz ≤ 2 ^ 36) &&
    (decide (h.scBase = 0) || decide (h.scSz % 8192 = 0)) && s.tierOne h.asid h.slotBase (h.slots * h.slotSz)

/-- Physical runs of a virtual range: virtual start, physical start, length; pages that are not mapped are left out. -/
def State.physRuns (s : State) (asid va n : Nat) : List (Nat × Nat × Nat) :=
  (pageRuns va n).filterMap (fun r => (s.walk asid r.1).map (fun l => (r.1, l.pa r.1, r.2)))

/-- The fields of a header (Table 19-5). -/
def hamperFields (asid at_ v : Nat) : HamperTable :=
  { asid := asid, at_ := at_, slots := bits v 103 96 + 1, experts := bits v 207 192 + 1, slotBase := bits v 63 0, slotSz := bits v 95 64,
    dir := bits v 191 128, scBase := bits v 383 320, scSz := bits v 415 384, period := bits v 287 256 }

/-- A physical word holds a field that the Hamper alone writes: PERIOD, the slot map, or COUNT, SLOT and STATE of an expert (R338). -/
def State.hwField (s : State) (h : HamperTable) (k : Nat) : Bool :=
  (s.physRuns h.asid (h.at_ + 32) 4 ++ s.physRuns h.asid (h.at_ + 64) (8 * h.slots)).any (fun r => decide (r.2.1 ≤ k) && decide (k < r.2.1 + r.2.2)) ||
    (s.physRuns h.asid h.dir (32 * h.experts)).any (fun r => decide (r.2.1 ≤ k) && decide (k < r.2.1 + r.2.2) && decide ((r.1 + (k - r.2.1) - h.dir) % 32 / 4 = 6))

/-- Position of the newest write of a wave into a HW field of a table, 0 for none (R338). -/
def State.spoiltAt (s : State) (h : HamperTable) : Nat :=
  (s.hist.filter (fun x => x.wid.isSome && s.hwField h x.key)).foldl (fun m x => max m x.seq) 0

/-- A context's table after the step before: a wave's write into a HW field since leaves the whole of it with undefined contents, until the next writes of its words (R4, R338). Log 37. -/
def State.spoilTable (s : State) (asid : Nat) : State :=
  match s.ctxs.find? asid with
  | none => s
  | some c =>
    if c.rcd.hamper = 0 then s
    else
      let bytes (va n : Nat) : List Byte := ((s.physRuns asid va n).map (fun r => (keysFrom r.2.1 r.2.2).map (fun x => s.found [42] x (s.mem.byte x)))).flatten
      let h := hamperFields asid c.rcd.hamper (natOfBytes (bytes c.rcd.hamper 64))
      let n := s.spoiltAt h
      if n ≤ c.tableSeen then s
      else
        { s with
          undef := (s.physRuns asid h.at_ (64 + 8 * h.slots) ++ s.physRuns asid h.dir (32 * h.experts)).map (fun r => wordRange r.2.1 r.2.2) ++ s.undef
          ctxs := s.ctxs.modify asid (fun x => { x with tableSeen := n }) }

/-- Every context's table. -/
def State.spoilTables (s : State) : State := s.ctxs.foldl (fun s e => s.spoilTable e.1) s

/-- The table of a context, when it has one that is good. Log 37. -/
def State.hamper (s : State) (asid : Nat) : State × Option HamperTable :=
  match s.ctxs.find? asid with
  | none => (s, none)
  | some c =>
    if c.rcd.hamper = 0 then (s, none)
    else
      match s.homeRead asid c.rcd.hamper 64 with
      | (s, none) => (s, none)
      | (s, some v) => (s, if (hamperFields asid c.rcd.hamper v).ok s then some (hamperFields asid c.rcd.hamper v) else none)

/-- A slot map entry (Table 19-6), 0 when it cannot be read. -/
def State.slotEntry (s : State) (h : HamperTable) (i : Nat) : Nat := ((s.homeRead h.asid (h.at_ + 64 + 8 * i) 8).2).getD 0

/-- HOLD. -/
def slotHold (v : Nat) : Nat := bits v 63 48
/-- USED. -/
def slotUsed (v : Nat) : Bool := bit v 31
/-- STG. -/
def slotStg (v : Nat) : Bool := bit v 30
/-- EXPERT. -/
def slotExpert (v : Nat) : Nat := bits v 15 0
/-- A slot map entry. -/
def slotWord (hold : Nat) (used stg : Bool) (expert : Nat) : Nat :=
  hold % 2 ^ 16 * 2 ^ 48 + (if used then 2 ^ 31 else 0) + (if stg then 2 ^ 30 else 0) + expert % 2 ^ 16

/-- Write a slot map entry. -/
def State.setSlot (s : State) (h : HamperTable) (i v : Nat) : State := s.homePut h.asid (h.at_ + 64 + 8 * i) (bytesOfNat 8 v)

/-- An expert's directory entry (Table 19-7). -/
def State.expert (s : State) (h : HamperTable) (e : Nat) : Nat := ((s.homeRead h.asid (h.dir + 32 * e) 32).2).getD 0

/-- STATE. -/
def exState (v : Nat) : Nat := bits v 217 216
/-- SLOT. -/
def exSlot (v : Nat) : Nat := bits v 215 208
/-- COUNT. -/
def exCount (v : Nat) : Nat := bits v 207 192

/-- Write the hardware's word of a directory entry: COUNT, SLOT, STATE in bits [223:192]. -/
def State.setExpert (s : State) (h : HamperTable) (e state slot count : Nat) : State :=
  s.homePut h.asid (h.dir + 32 * e + 24) (bytesOfNat 4 (count % 2 ^ 16 + slot % 256 * 2 ^ 16 + state % 4 * 2 ^ 24))

/-- Change an expert's STATE. -/
def State.setExState (s : State) (h : HamperTable) (e state : Nat) : State :=
  let v := s.expert h e
  s.setExpert h e state (exSlot v) (exCount v)

/-- Change an expert's COUNT. -/
def State.setExCount (s : State) (h : HamperTable) (e count : Nat) : State :=
  let v := s.expert h e
  s.setExpert h e (exState v) (exSlot v) count

/-! ### Ageing (R340, R342) -/

/-- Every COUNT of a table is halved `n` times. -/
def State.halveCounts (s : State) (h : HamperTable) (n : Nat) : State :=
  (List.range h.experts).foldl (fun s e => s.setExCount h e (exCount (s.expert h e) / 2 ^ n)) s

/-- Ageing steps that are due by now: one for every PERIOD µs of the reference timer since the period started (R342). -/
def HamperTable.due (h : HamperTable) (x : Context) (now : Nat) : Nat :=
  if h.period = 0 ∨ x.ended then 0 else (now - x.ageFrom) / (1000 * h.period)

/-- The ageing steps that are due are made (R340, R342). -/
def State.ageTable (s : State) (h : HamperTable) : State :=
  match s.ctxs.find? h.asid with
  | none => s
  | some x =>
    let n := h.due x s.ns
    if n = 0 then s
    else
      let s := s.halveCounts h (min n 16)
      { s with ctxs := s.ctxs.modify h.asid (fun x => { x with ageFrom := x.ageFrom + 1000 * h.period * n }) }

/-! ### Instructions' frame -/

/-- A trap of a Hamper instruction (Table 19-4). -/
def hamperTrap (detail : Nat) : Trap := { cause := .engineFault, subcode := 4, faddr := detail }

/-- The table, and the ids that some lanes name, or the fault that every active lane traps with (R338, Table 19-8). An ageing step that is due comes before the request (R340). -/
def State.hamperFor (s : State) (w : WarpCore) (ids : List Nat) : State × Except Trap HamperTable :=
  match s.hamper (s.asidOf w) with
  | (s, none) => (s, .error (hamperTrap 1))
  | (s, some h) => if ids.any (fun e => decide (h.experts ≤ e)) then (s, .error (hamperTrap 2)) else (s.ageTable h, .ok h)

/-- Expert id of a lane. -/
def expertOf (r : RArgs) (s : State) (w : WarpCore) (l : Nat) : Nat := (r.vA s w l).toNat % 65536

/-! ### Arrivals (R339, R341, R414) -/

/-- The arrivals of one XRES: a unit at its sync word, and at its barrier group. Log 37. -/
def State.hamperArrive (s : State) (x : HamperWaiter) : State :=
  let s := match x.sync with
    | none => s
    | some o =>
      if (s.launches.find? x.launch).isNone then s
      else
        match s.syncArrive x.core x.launch o 1 with
        | (s, none) => s
        | (s, some bad) => s.engineFrame x.launch x.token 4 bad
  match x.group with
  | none => s
  | some g => s.engineArrive g

/-! ### XRES (R341) -/

/-- The slot that a new expert takes: the lowest unused, else the unheld one whose expert counts least. -/
def State.victimSlot (s : State) (h : HamperTable) : Option (Nat × Bool) :=
  let all := (List.range h.slots).map (fun i => (i, s.slotEntry h i))
  match all.find? (fun e => !slotUsed e.2) with
  | some e => some (e.1, false)
  | none =>
    (all.filter (fun e => !slotStg e.2 && decide (slotHold e.2 = 0))).foldl (fun (b : Option (Nat × Bool)) e =>
      match b with
      | none => some (e.1, true)
      | some x => if exCount (s.expert h (slotExpert e.2)) < exCount (s.expert h (slotExpert (s.slotEntry h x.1))) then some (e.1, true) else b) none

/-- The entry of an expert is one that can be staged (Table 19-4, code 3). -/
def expertBad (h : HamperTable) (v : Nat) : Bool :=
  decide (h.slotSz < bits v 159 128) || decide (h.scSz < bits v 191 160) || decide (bits v 63 0 % 2 ^ 18 ≠ 0)

/-- A request names its sync word (R277). -/
def State.nameArrival (s : State) (x : HamperWaiter) : State :=
  match x.sync with
  | some o => s.nameSync x.core x.launch o
  | none => s

/-- A resident or staging expert's XRES: one hold more, and the arrivals now or with the staging. -/
def State.xresHit (s : State) (h : HamperTable) (e v : Nat) (x : HamperWaiter) : State :=
  let i := exSlot v
  let m := s.slotEntry h i
  let s := (s.setSlot h i (slotWord (min (slotHold m + 1) 0xFFFF) (slotUsed m) (slotStg m) (slotExpert m))).nameArrival x
  if exState v = 1 then
    { s with stagings := s.stagings.map (fun (g : Staging) => if g.asid = h.asid ∧ g.expert = e then { g with waiters := g.waiters ++ [x] } else g) }
  else s.hamperArrive x

/-- An absent expert's XRES takes a slot and starts its staging; as a BFENCE.W would, it publishes the warp's earlier stores (R335, R339). -/
def State.xresMiss (s : State) (h : HamperTable) (e v i : Nat) (evict : Bool) (x : HamperWaiter) : State :=
  let s := if evict then s.setExState h (slotExpert (s.slotEntry h i)) 0 else s
  let s := s.setSlot h i (slotWord 1 true true e)
  let s := ((s.setExpert h e 1 i (exCount v)).nameArrival x).publish x.wid .dev
  { s with stagings := s.stagings ++ [{ asid := h.asid, expert := e, slot := i, launch := x.launch, token := x.token, since := s.seq, waiters := [x] }] }

/-- XRES (R341). -/
def execXres (r : RArgs) (s : State) : Host.Outcome State Fault Refusal :=
  onWarp (.xres r) s fun c w =>
    let l := c.lead
    let e := expertOf r s w l
    let b := (r.pairB s w l).toNat
    let o := bits b 31 0
    let g := bits b 41 32
    let x : HamperWaiter :=
      { wid := c.wid, core := w.core, launch := w.launch, token := w.token, sync := if o = 0xFFFFFFFF then none else some o,
        group := if bit b 42 then some g else none }
    match x.sync.bind (fun o => s.syncFail w.core w.launch o) with
    | some bad => s.trapAll c (trapAt .spadBounds bad)
    | none =>
      if x.group.isSome && !s.groupOf (s.asidOf w) g then s.trapAll c (trapOf .protection 1)
      else
        match s.hamperFor w [e] with
        | (s, .error t) => s.trapAll c t
        | (s, .ok h) =>
          let v := s.expert h e
          if expertBad h v then s.trapAll c (hamperTrap 3)
          else if exState v ≠ 0 then ((s.giveAll c r.d.toNat [BitVec.ofNat 32 (exSlot v)]).xresHit h e v x).conclude c []
          else
            match s.victimSlot h with
            | none => (s.giveAll c r.d.toNat [0xFFFFFFFF]).conclude c []
            | some (i, evict) => ((s.giveAll c r.d.toNat [BitVec.ofNat 32 i]).xresMiss h e v i evict x).conclude c []

/-- XRES.rel (R341). -/
def execXresRel (r : RArgs) (s : State) : Host.Outcome State Fault Refusal :=
  onWarp (.xresRel r) s fun c w =>
    let e := expertOf r s w c.lead
    match s.hamperFor w [e] with
    | (s, .error t) => s.trapAll c t
    | (s, .ok h) =>
      let v := s.expert h e
      let m := s.slotEntry h (exSlot v)
      if exState v ≠ 0 ∧ 0 < slotHold m then
        (s.setSlot h (exSlot v) (slotWord (slotHold m - 1) (slotUsed m) (slotStg m) (slotExpert m))).conclude c []
      else s.conclude c []

/-! ### Counting and ageing (R342) -/

/-- XHIT (R342): one more for each active lane's expert. -/
def execXhit (r : RArgs) (s : State) : Host.Outcome State Fault Refusal :=
  onWarp (.xhit r) s fun c w =>
    let ids := (lanesOf c.lanes).map (expertOf r s w)
    match s.hamperFor w ids with
    | (s, .error t) => s.trapAll c t
    | (s, .ok h) => (ids.foldl (fun s e => s.setExCount h e (min (exCount (s.expert h e) + 1) 0xFFFF)) s).conclude c []

/-- XAGE (R342): PERIOD, and the period starts anew. -/
def execXage (r : RArgs) (s : State) : Host.Outcome State Fault Refusal :=
  onWarp (.xage r) s fun c w =>
    match s.hamperFor w [] with
    | (s, .error t) => s.trapAll c t
    | (s, .ok h) =>
      let s := s.homePut h.asid (h.at_ + 32) (bytesOfNat 4 (r.vA s w c.lead).toNat)
      { s with ctxs := s.ctxs.modify h.asid (fun x => { x with ageFrom := s.ns }) }.conclude c []

/-- XAGE.now (R342). -/
def execXageNow (r : RArgs) (s : State) : Host.Outcome State Fault Refusal :=
  onWarp (.xageNow r) s fun c w =>
    match s.hamperFor w [] with
    | (s, .error t) => s.trapAll c t
    | (s, .ok h) => (s.halveCounts h 1).conclude c []

/-- XQUERY (R342). -/
def execXquery (r : RArgs) (s : State) : Host.Outcome State Fault Refusal :=
  onWarp (.xquery r) s fun c w =>
    match s.hamperFor w ((lanesOf c.lanes).map (expertOf r s w)) with
    | (s, .error t) => s.trapAll c t
    | (s, .ok h) => s.perLane c r.d fun l =>
        let v := s.expert h (expertOf r s w l)
        (BitVec.ofNat 32 ((if exState v = 2 then 2 ^ 31 else 0) + (if exState v = 1 then 2 ^ 30 else 0) + exSlot v * 2 ^ 16 + exCount v), 0)

/-- HAMPER_AGEING_STEP (R342): PERIODs of the reference timer have passed. -/
def execHamperAgeingStep (asid : Nat) (s : State) : Host.Outcome State Fault Refusal :=
  .next (match s.hamper asid, s.ctxs.find? asid with
    | (s', some h), some x => if h.due x s.ns = 0 then s else s'.ageTable h
    | _, _ => s)

/-! ### Staging (R339) -/

/-- Copy raw bytes between mappings of a context, to the devices, with no copy of a line left in a cache (R339); the physical ranges written, or none on a fault, with nothing written. -/
def State.stageBytes (s : State) (g : Staging) (dst src n tag : Nat) : State × Option (List (Nat × Nat)) :=
  match s.pieces .dev g.asid .load src n with
  | (s, .error _) => (s, none)
  | (s, .ok from_) =>
    match s.pieces .dev g.asid .store dst n with
    | (s, .error _) => (s, none)
    | (s, .ok dst2) =>
      let (s, data) := s.readPieces .dev g.token { at_ := g.since, fresh := 0, token := none } tag from_
      (dst2.foldl (fun s p => s.dropLines p.pa p.len) (s.writePieces none data dst2), some (dst2.map (fun p => (p.pa, p.pa + p.len))))

/-- The copy of a staging: weights, then scales. Log 37. -/
def State.stageCopy (s : State) (h : HamperTable) (g : Staging) : State × Option (List (Nat × Nat)) :=
  let v := s.expert h g.expert
  match s.stageBytes g (h.slotBase + g.slot * h.slotSz) (bits v 63 0) (bits v 159 128) 37 with
  | (s, none) => (s, none)
  | (s, some a) =>
    match s.stageBytes g (h.scBase + g.slot * h.scSz) (bits v 127 64) (if h.scBase = 0 then 0 else bits v 191 160) 38 with
    | (s, none) => (s, none)
    | (s, some b) => (s, some (a ++ b))

/-- Ranges of a slot and of its scales, as a BFENCE.W over them writes them back (R216, R339). -/
def State.slotRanges (s : State) (h : HamperTable) (g : Staging) : List (Nat × Nat × Nat) :=
  (s.physRuns h.asid (h.slotBase + g.slot * h.slotSz) h.slotSz ++
    (if h.scBase = 0 then [] else s.physRuns h.asid (h.scBase + g.slot * h.scSz) h.scSz)).map (fun r => (r.2.1, r.2.1 + r.2.2, g.since))

/-- A staging ends (R339): resident, with its bytes on their devices for the warp that caused it, and its whole slot written back as by a BFENCE.W of that warp at the XRES; or absent again, with a frame. The waiting arrivals are made in both cases. Log 37. -/
def State.stageEnd (s : State) (h : HamperTable) (g : Staging) : State :=
  let s := match s.stageCopy h g with
    | (s, some rs) =>
      let m := s.slotEntry h g.slot
      let s := s.setSlot h g.slot (slotWord (slotHold m) true false g.expert)
      let s := s.setExState h g.expert 2
      s.modTok g.token (fun w => { w with fenced := rs.map (fun r => (r.1, r.2, s.seq)) ++ s.slotRanges h g ++ w.fenced })
    | (s, none) =>
      let s := s.engineFrame g.launch g.token 4 4
      let s := s.setSlot h g.slot 0
      s.setExState h g.expert 0
  g.waiters.foldl (fun s x => s.hamperArrive x) s

/-- HAMPER_STAGING_COMPLETE (R339): a staging finishes; one of a context that has ended is dropped (R343). -/
def execHamperStagingComplete (idx : Nat) (s : State) : Host.Outcome State Fault Refusal :=
  .next (match s.stagings[idx]? with
    | none => s
    | some g =>
      let s := { s with stagings := s.stagings.eraseIdx idx }
      match s.hamper g.asid, s.ctxs.find? g.asid with
      | (s, some h), some x => if x.ended then s else s.stageEnd h g
      | (s, _), _ => s)

end Sys2Proof.Machine
end

