-- ==== Sys2Proof/Machine/Cp.lean ====
section
/-! DEFINITION. The command processor (R364 to R376, R416): contexts, submission queues, graphs and their nodes, flat launches and their chunks (R66 to R75), completion records. -/

namespace Sys2Proof.Machine

/-! ### Contexts (R364, R365) -/

/-- A frame that the CP writes for a queue, a graph or the context (R416). Log 40. -/
def State.cpFrame (s : State) (asid detail faddr : Nat) : State :=
  s.queueFrame asid none { Frame.queued_ .engineFault 6 with insn := detail, faddr := faddr } 0

/-- A queue that serves nothing more (R366, R416). Log 40. -/
def State.stopQueue (s : State) (asid q detail faddr : Nat) : State :=
  let s := { s with ctxs := s.ctxs.modify asid (fun c => { c with queues := c.queues.modify q (fun x => { x with stopped := true }) }) }
  s.cpFrame asid detail faddr

/-- Read a queue's descriptor (R365). -/
def State.openQueue (s : State) (asid qtable q : Nat) : State :=
  let put (s : State) (x : Queue) : State := { s with ctxs := s.ctxs.modify asid (fun c => { c with queues := c.queues.insert q x }) }
  let va := qtable + 16 * q
  let x : Queue := { base := 0, caplog := 0, prio := 0, stopped := false, graph := none, reg := none, since := s.free }
  match s.homeRead asid va 16 with
  | (s, none) => (put s x).stopQueue asid q 3 va
  | (s, some v) =>
    let x := { x with base := bits v 63 0, caplog := bits v 68 64, prio := bits v 71 69 }
    let s := put s x
    if x.base % 64 ≠ 0 ∨ 16 < x.caplog ∨ bits v 127 72 ≠ 0 then s.stopQueue asid q 4 va else s

/-- The place of the next context in the order of creation (R364). -/
def State.nextBorn (s : State) : Nat := s.ctxs.foldl (fun m e => max m e.2.born) 0 + 1

/-- A new context from its record (R364, R365); its barrier groups start anew (R236). -/
def State.createContext (s : State) (asid : Nat) : State :=
  let born := s.nextBorn
  let (r, bad) := s.askRecord asid born
  let c : Context :=
    { rcd := r, born := born, bad := bad, suspended := false, ended := false, queues := [], shadows := [], swaps := [], tableSeen := s.seq, ageFrom := s.ns, rearm := false }
  let s := { s with ctxs := s.ctxs.insert asid c }
  let s := if bad then s else s.resetGroups r.bgbase r.bgcount
  (List.range (r.nq + 1)).foldl (fun s q => s.openQueue asid r.qtable q) s

/-- Everything that the module holds of a launch goes. Log 43. -/
def State.dropLaunch (s : State) (id : Nat) : State :=
  let mine (token : Nat) : Bool := decide (token / 2 ^ 32 = id)
  let core (c : Core) : Core := { c with
    banks := c.banks.map (fun (b : Bank) => if b.owner = some id then Bank.atReset else b)
    darners := c.darners.erase id
    bte := c.bte.filter (fun x => decide (x.launch ≠ id))
    aperture := c.aperture.filter (fun x => decide (x.launch ≠ id))
    channels := c.channels.erase id
    templates := c.templates.erase id
    acps := c.acps.filter (fun a => !mine a.token)
    press := if c.press.owner = some id then Press.fresh else c.press
    pressSaved := c.pressSaved.erase id }
  { s with
    launches := s.launches.erase id
    cores := s.cores.map (fun e => (e.1, core e.2))
    bankSaves := s.bankSaves.filter (fun x => decide (x.launch ≠ id))
    bcus := s.bcus.filter (fun c => decide (c.launch ≠ id))
    seams := s.seams.map (fun e => (e.1, { e.2 with cmds := e.2.cmds.filter (fun c => decide (c.launch ≠ id)) }))
    stagings := s.stagings.filter (fun g => decide (g.launch ≠ id))
    denied := s.denied.filter (fun d => decide (d.launch ≠ id))
    darnerFaults := s.darnerFaults.filter (fun d => decide (d.launch ≠ id)) }

/-- What a Seam holds of a context goes (R356, R358): a context that waited for its place takes it. -/
def Seam.forget (x : Seam) (asid : Nat) : Seam :=
  let held := x.resident.contains asid
  let waits := if x.waiting = some asid then none else x.waiting
  { x with
    resident := x.resident.filter (fun a => decide (a ≠ asid)) ++ (if held then waits.toList else [])
    closing := x.closing && !held && waits.isSome
    waiting := if held then none else waits
    dups := x.dups.erase asid
    dedup := x.dedup.map (fun e => (e.1, e.2.erase asid)) }

/-- A context exists no more: its record's VALID is 0 (R364); its fabric job is unbound (R360), the Seams forget it (R358), and its barrier groups are free again (R236). Log 43. -/
def State.removeContext (s : State) (asid : Nat) : State :=
  let of (l : Nat) : Bool := decide ((s.launch l).asid = asid)
  let ids := (s.launches.filter (fun e => decide (e.2.asid = asid))).map (·.1)
  let s := { s with
    warps := s.warps.filter (fun e => !of e.2.run.launch)
    saved := s.saved.filter (fun v => !of v.warp.run.launch)
    evicting := s.evicting.filter (fun k => !of (s.launchOf k))
    widens := s.widens.filter (fun e => !of e.2.launch)
    gathers := s.gathers.filter (fun e => !of e.2.launch)
    keyeds := s.keyeds.filter (fun e => !of e.2.launch)
    regs := s.regs.filter (fun e => decide (e.2.asid ≠ asid))
    graphs := s.graphs.filter (fun e => decide (e.2.asid ≠ asid))
    jobs := s.jobs.filter (fun j => decide (j.asid ≠ asid))
    seams := s.seams.map (fun (e : Nat × Seam) => (e.1, e.2.forget asid)) }
  let s := match s.ctxs.find? asid with
    | some c => if c.bad then s else s.resetGroups c.rcd.bgbase c.rcd.bgcount
    | none => s
  ids.foldl State.dropLaunch { s with ctxs := s.ctxs.erase asid }

/-- CONTEXT_CREATE (R364): the CP reads a record when it sees VALID written. Log 7, 43. -/
def execContextCreate (asid : Nat) (s : State) : Host.Outcome State Fault Refusal :=
  .next (
    if s.boot.ready ∧ asid < 4096 then
      let s := s.callRecord asid
      match s.ctxs.find? asid, s.recordValid asid with
      | none, true => s.createContext asid
      | some _, true => s.rereadContext asid
      | some _, false => s.removeContext asid
      | none, false => s
    else s)

/-! ### The end of a graph (R376) -/

/-- Every write that is published on the device is published to the host too, before what follows (R210). Log 39. -/
def State.publishSys (s : State) : State :=
  { s with seq := s.seq + 1, hist := s.hist.map (fun (h : HWrite) => if h.pubDev.isSome then h.pubAt .sys (s.seq + 1) else h) }

/-- The completion record at DONE (Table 22-5): its other fields, then FLAG. Log 39. -/
def State.completion (s : State) (r : GraphRun) : State :=
  let tstart := match r.tstart with | some t => t | none => (s.freeBits [42, r.asid, r.queue] 64).toNat
  let body := bytesOfNat 4 0 ++ bytesOfNat 4 r.status.toNat ++
    bytesOfNat 2 (min 65535 r.faults) ++ bytesOfNat 2 r.node ++ bytesOfNat 8 tstart ++ bytesOfNat 8 s.ns
  if r.done % 32 ≠ 0 then s.cpFrame r.asid 5 r.done
  else
    match s.cpWrite r.asid .sys (r.done + 4) body with
    | (s, false) => s.cpFrame r.asid 5 r.done
    | (s, true) => ((s.publishSys).cpWrite r.asid .sys r.done (bytesOfNat 4 1)).1

/-- HEAD := HEAD + 1 (R366); a header that cannot be reached stops the queue. -/
def State.advanceHead (s : State) (asid q : Nat) : State :=
  match (s.ctxs.find? asid).bind (fun c => c.queues.find? q) with
  | none => s
  | some x =>
    let s := { s with ctxs := s.ctxs.modify asid (fun c => { c with queues := c.queues.modify q (fun y => { y with graph := none, since := s.free }) }) }
    match s.homeRead asid x.base 8 with
    | (s, none) => s.stopQueue asid q 3 x.base
    | (s, some v) =>
      match s.publishSys.cpWrite asid .sys (x.base + 4) (bytesOfNat 4 ((bits v 63 32 + 1) % 2 ^ 32)) with
      | (s, true) => s
      | (s, false) => s.stopQueue asid q 3 x.base

/-- A graph ends (R376). Log 39. -/
def State.endGraph (s : State) (g : Nat) (r : GraphRun) : State :=
  ({ s with graphs := s.graphs.erase g }.completion r).advanceHead r.asid r.queue

/-- A status bit of Table 22-5 is set. -/
def GraphRun.mark (r : GraphRun) (i : Nat) : GraphRun := { r with status := r.status ||| (1#8 <<< i) }

/-- The node is not one (R375): the graph ends with BAD_NODE. Log 40. -/
def State.badNode (s : State) (g : Nat) (r : GraphRun) : State := s.endGraph g (r.mark 5)

/-! ### Queues (R366, R367) -/

/-- The CP registers on a word of a queue (R221, R366). -/
def State.watchQueue (s : State) (asid q va : Nat) (w64 : Bool) (operand : Nat) : State :=
  match s.engineTranslate .dev asid .load va with
  | (s, .error _) => s.stopQueue asid q 3 va
  | (s, .ok (l, pa)) =>
    let id := s.regs.fresh 0
    let r : Registration :=
      { owner := .queue asid q, place := .inFlight, asid := asid, va := va, key := pa, okey := l.okey, w64 := w64, cmp := 1, operand := operand, deadline := none, zero := false, lanes := 0 }
    let s := { s with
      regs := s.regs.insert id r
      ctxs := s.ctxs.modify asid (fun c => { c with queues := c.queues.modify q (fun x => { x with reg := some id }) }) }
    s.register id

/-- A graph starts (R366, R370), or is refused at once (R364). -/
def State.startGraph (s : State) (asid q graph done : Nat) : State :=
  let id := s.graphs.fresh 1
  let r : GraphRun :=
    { asid := asid, queue := q, graph := graph, done := done, node := 0, from_ := none, phase := .atNode, status := 0, faults := 0, tstart := none, since := s.free, held := 0 }
  let s := { s with
    graphs := s.graphs.insert id r
    ctxs := s.ctxs.modify asid (fun c => { c with queues := c.queues.modify q (fun x => { x with graph := some id }) }) }
  match s.ctxs.find? asid with
  | some c => if c.bad then s.endGraph id (r.mark 6) else s
  | none => s

/-- A queue that may have an entry to serve. -/
def Queue.open_ (x : Queue) : Bool := !x.stopped && x.graph.isNone && x.reg.isNone

/-- Queues that go before this one (R367): higher PRIO, then the one whose next graph was ready earlier, then lower ASID, then lower number. Log 39. -/
def State.queuesBefore (s : State) (asid q : Nat) (x : Queue) : Nat :=
  (s.ctxs.map (fun c => if c.2.suspended || c.2.ended then 0 else
    (c.2.queues.filter (fun e => e.2.open_ && (decide (x.prio < e.2.prio) || (decide (e.2.prio = x.prio) &&
      (decide (e.2.since < x.since) || (decide (e.2.since = x.since) &&
        (decide (c.1 < asid) || (decide (c.1 = asid) && decide (e.1 < q))))))))).length)).sum

/-- Serve entry HEAD mod CAP of a queue, or wait for one (R366). -/
def State.serveQueue (s : State) (asid q : Nat) (x : Queue) : State :=
  match s.homeRead asid x.base 64 with
  | (s, none) => s.stopQueue asid q 3 x.base
  | (s, some h) =>
    let tail := bits h 31 0
    let head := bits h 63 32
    if tail = head then s.watchQueue asid q x.base false head
    else if 2 ^ x.caplog < (tail + 2 ^ 32 - head) % 2 ^ 32 then s.stopQueue asid q 1 0
    else
      let va := x.base + 64 + 32 * (head % 2 ^ x.caplog)
      match s.homeRead asid va 32 with
      | (s, none) => s.stopQueue asid q 3 va
      | (s, some e) =>
        if bits e 63 0 = 0 then s.watchQueue asid q va true 0
        else
          match s.cpWrite asid .dev va (bytesOfNat 8 0) with
          | (s, false) => s.stopQueue asid q 3 va
          | (s, true) => s.startGraph asid q (bits e 63 0) (bits e 127 64)

/-- CP_SERVE_ENTRY (R366): a queue that waits for nothing looks at its header; at most 256 graphs run at once (R367). Log 7. -/
def execCpServeEntry (asid queue : Nat) (s : State) : Host.Outcome State Fault Refusal :=
  .next (match (s.ctxs.find? asid).bind (fun c => c.queues.find? queue) with
    | none => s
    | some x =>
      if s.boot.ready && s.ctxRuns asid && x.open_ && decide (s.graphs.length + s.queuesBefore asid queue x < 256) then s.serveQueue asid queue x
      else s)

/-! ### Nodes (R370, Tables 22-3 and 22-4) -/

/-- TYPE. -/
def nodeType (v : Nat) : Nat := bits v 7 0
/-- BODY of a LOOP. -/
def nodeBody (v : Nat) : Nat := bits v 47 32
/-- TARGET of a COND, MAX of a LOOP. -/
def nodeArgH (v : Nat) : Nat := bits v 63 48
/-- Bits [127:64]: SRC or ADDR. -/
def nodeAddr (v : Nat) : Nat := bits v 127 64
/-- Bits [191:128]: DST, OPERAND or VALUE. -/
def nodeData (v : Nat) : Nat := bits v 191 128
/-- A word of 64 bits: W64 of a COND, LOOP or WAITMEM. -/
def nodeW64 (v : Nat) : Bool := bit v 195

/-- Read a node at its home (R370); none on a fetch fault or a misaligned address. -/
def State.readNode (s : State) (r : GraphRun) (i : Nat) : State × Option Nat :=
  if r.graph % 64 ≠ 0 then (s, none) else s.homeRead r.asid (r.graph + 64 * i) 64

/-- Reserved bits of a node are zero. -/
def nodeReserved (v : Nat) : Bool :=
  decide (bits v 31 9 = 0) &&
    (match nodeType v with
      | 0 => decide (bits v 63 32 = 0) && decide (bits v 511 64 = 0)
      | 1 => decide (bits v 63 32 = 0) && decide (bits v 95 89 = 0) && decide (bits v 447 352 = 0)
      | 2 => decide (bits v 63 32 = 0) && decide (bits v 95 89 = 0) && decide (bits v 319 304 = 0)
      | 3 => decide (bits v 63 32 = 0) && decide (bits v 511 256 = 0)
      | 4 => decide (bits v 47 32 = 0) && decide (bits v 511 196 = 0)
      | 5 => decide (bits v 255 196 = 0) && decide (bits v 511 320 = 0)
      | 6 => decide (bits v 63 32 = 0) && decide (bits v 223 196 = 0) && decide (bits v 511 256 = 0)
      | 7 => decide (bits v 63 32 = 0) && decide (bits v 511 194 = 0)
      | _ => false)

/-- Ranges and alignments of node `i` whose breach is BAD_NODE (R375). -/
def nodeRanges (i v : Nat) : Bool :=
  let aligned (w64 : Bool) : Bool := decide (nodeAddr v % (if w64 then 8 else 4) = 0)
  match nodeType v with
  | 3 => decide (bits v 255 192 ≤ 2 ^ 40)
  | 4 => aligned (nodeW64 v)
  | 5 => aligned (nodeW64 v) && decide (bits v 319 256 % 4 = 0) && decide (1 ≤ nodeBody v) && decide (i + nodeBody v ≤ 65535)
  | 6 => aligned (nodeW64 v)
  | 7 => aligned (bit v 192)
  | _ => true

/-- LOOP nodes below `top` whose bodies end at node `j`, the highest first (R374). Log 39. -/
def State.loopsEnding (s : State) (r : GraphRun) (j top : Nat) : List Nat :=
  (List.range top).reverse.filter (fun i => match (s.readNode r i).2 with
    | some v => decide (nodeType v = 5) && decide (i + nodeBody v = j)
    | none => false)

/-- The graph goes on at a node, reached from another one. A node past 65 535 does not exist (R370): the graph ends with BAD_NODE. Log 39. -/
def State.goTo (s : State) (g : Nat) (r : GraphRun) (node from_ : Nat) : State :=
  let r := { r with node := node, from_ := some from_, phase := .atNode, since := s.free, held := 0 }
  if 65535 < node then s.badNode g { r with node := from_ } else { s with graphs := s.graphs.insert g r }

/-- The successor of a node that names no other (R370, R374): a LOOP whose body ends there, else the next node. -/
def State.goOn (s : State) (g : Nat) (r : GraphRun) : State :=
  match s.loopsEnding r r.node r.node with
  | i :: _ => s.goTo g r i r.node
  | [] => s.goTo g r (r.node + 1) r.node

/-- A LOOP ends (R374): the next lower LOOP whose body ends at the same node, else the node after it. Log 39. -/
def State.leaveLoop (s : State) (g : Nat) (r : GraphRun) (v : Nat) : State :=
  let j := r.node + nodeBody v
  match s.loopsEnding r j r.node with
  | i :: _ => s.goTo g r i j
  | [] => s.goTo g r (j + 1) r.node

/-- A node has an error (R375): the graph ends there unless CONT lets it go on. -/
def State.nodeError (s : State) (g : Nat) (r : GraphRun) (i : Nat) (on : State → GraphRun → State) : State :=
  let r := r.mark i
  if bit r.held 8 then on s r else s.endGraph g r

/-- The frame of the node events: the graph's next node is fetched; one that is no node ends the graph; one of another type leaves everything as it was. -/
def onNode (type g : Nat) (s : State) (body : State → GraphRun → Nat → State) : Host.Outcome State Fault Refusal :=
  .next (match s.graphs.find? g with
    | none => s
    | some r =>
      if r.phase = .atNode && s.ctxRuns r.asid then
        let r := { r with tstart := some (r.tstart.getD s.ns) }
        match s.readNode r r.node with
        | (s1, none) => s1.badNode g r
        | (s1, some v) =>
          if !(nodeReserved v && nodeRanges r.node v) then s1.badNode g r
          else if nodeType v = type then body s1 { r with held := v } v
          else s
      else s)

/-! ### KERNEL and TASKROOT (R66 to R73, R371, R372) -/

/-- Reserved bits of an initial-state block. -/
def initOk (b : List Byte) : Bool :=
  let v := natOfBytes (b.take 64)
  decide (bits v 63 16 = 0) && decide (bits v 511 128 = 0)

/-- Entries of a block that its mask names. -/
def initEntries (b : List Byte) (w count mask at_ size : Nat) : Table (BitVec w) :=
  ((List.range count).filter (fun i => bit mask i)).foldl (fun t i =>
    Map.set 0 t i (BitVec.ofNat w (natOfBytes ((b.drop (at_ + size * i)).take size)))) []

/-- The initial-state block of a launch: tile registers and templates; none when the launch is refused for it. -/
def State.readInit (s : State) (asid va : Nat) : State × Option (Table (BitVec 128) × Table (BitVec 256)) :=
  if va = 0 then (s, some ([], []))
  else
    match s.homeRead asid va 2368 with
    | (s, none) => (s, none)
    | (s, some n) =>
      let b := bytesOfNat 2368 n
      let v := natOfBytes (b.take 16)
      (s, if initOk b then some (initEntries b 128 16 (bits v 63 0) 64 16, initEntries b 256 64 (bits v 127 64) 320 32) else none)

/-- Dies that a rectangle touches, ascending. -/
def Launch.dies (l : Launch) : List Nat := (List.range 4).filter (fun d => (rectCores l).any (fun c => decide (dieOf c = d)))

/-- The ticket counters of a flat launch (R73). -/
def Launch.newTickets (l : Launch) : List (Nat × Nat × Nat) :=
  let m := (l.iters + l.chunk - 1) / l.chunk
  let n := l.dies.length
  l.dies.zipIdx.map (fun e => (e.1, e.2 * m / n, (e.2 + 1) * m / n))

/-- The launch that a KERNEL or TASKROOT node asks for. -/
def launchOfNode (r : GraphRun) (g prio v : Nat) (task : Bool) : Launch :=
  let geom := bits v 95 64
  { Launch.none with
    asid := r.asid, graph := g, prio := prio, since := r.since, task := task, x := bits geom 3 0, y := bits geom 8 4, logw := bits geom 11 9, logh := bits geom 14 12,
    warps := bits geom 20 15 + 1, alloc := 32 * (bits geom 24 21 + 1), spad := bits v 127 96, entry := if task then 0 else bits v 191 128,
    arena := bits v 255 192, arenaSz := bits v 287 256, iters := if task then 0 else bits v 319 288, chunk := if task then 0 else bits v 351 320,
    job := if task then bits v 303 288 else 0, darner := if task then bits v 383 320 else 0, cancel := if task then bits v 447 384 else 0 }

/-- The rectangle meets R66. -/
def Launch.rectOk (l : Launch) : Bool :=
  decide (l.logw ≤ 4) && decide (l.logh ≤ 4) && decide (l.x % 2 ^ l.logw = 0) && decide (l.y % 2 ^ l.logh = 0) &&
    decide (l.x + 2 ^ l.logw ≤ 16) && decide (l.y + 2 ^ l.logh ≤ 24)

/-- The per-core quantities meet R68. -/
def Launch.sizesOk (l : Launch) : Bool :=
  decide (l.spad ≤ 768 * 1024) && decide (l.arenaSz % 16 = 0) && (chooseSlots [] l.alloc l.warps).isSome

/-- The alignments and the counts that R371 checks. -/
def launchFieldsOk (l : Launch) (v : Nat) : Bool :=
  decide (l.arena % 16 = 0) && decide (bits v 511 448 % 64 = 0) &&
    (if l.task then decide (bits v 191 128 % 32 = 0) && decide (l.darner % 65536 = 0) && decide (l.cancel % 8192 = 0)
     else decide (l.entry % 4 = 0) && decide (1 ≤ l.iters) && decide (1 ≤ l.chunk))

/-- A launch is refused (R371): an error of its node. -/
def State.refuse (s : State) (g : Nat) (r : GraphRun) : State := s.nodeError g r 0 (fun s r => s.goOn g r)

/-- PRIO of a graph's queue. -/
def State.graphPrio (s : State) (r : GraphRun) : Nat :=
  match (s.ctxs.find? r.asid).bind (fun c => c.queues.find? r.queue) with
  | some x => x.prio
  | none => 0

/-- A launch begins under a fresh id: its templates are set on every core of its rectangle (R372), and the node runs until it completes. -/
def State.beginLaunch (s : State) (g : Nat) (r : GraphRun) (l : Launch) : State × Nat :=
  let id := s.launches.fresh s.nextLaunch
  let s := { s with
    launches := s.launches.insert id { l with tickets := if l.task then [] else l.newTickets }
    nextLaunch := if id + 1 < 2 ^ 32 then id + 1 else 1
    graphs := s.graphs.insert g { r with phase := .launch id } }
  let s := if l.tpls.isEmpty then s else (rectCores l).foldl (fun s c => s.modCore c (fun k => { k with templates := k.templates.insert id l.tpls })) s
  (s, id)

/-- Refusals that KERNEL and TASKROOT share, and the launch otherwise. -/
def State.askLaunch (s : State) (g : Nat) (r : GraphRun) (v : Nat) (task : Bool) : State × Option Launch :=
  let l := launchOfNode r g (s.graphPrio r) v task
  if !(l.rectOk && l.sizesOk && launchFieldsOk l v) then (s, none)
  else
    match s.readInit r.asid (bits v 511 448) with
    | (s, none) => (s, none)
    | (s, some (xs, ts)) => (s, some { l with tiles := xs, tpls := ts })

/-- NODE_KERNEL (R371): a flat launch. Log 7. -/
def execNodeKernel (graph : Nat) (s : State) : Host.Outcome State Fault Refusal :=
  onNode 1 graph s fun s r v =>
    match s.askLaunch graph r v false with
    | (s, none) => s.refuse graph r
    | (s, some l) => (s.beginLaunch graph r l).1

/-- NODE_TASKROOT (R371): a task launch, its root record pushed on the deque of the origin core. The deques, mailboxes and pending lists in the Darner areas (Table 13-4) are the Darners' own, which the model holds elsewhere: their bytes are undefined (log 12). -/
def execNodeTaskroot (graph : Nat) (s : State) : Host.Outcome State Fault Refusal :=
  onNode 2 graph s fun s r v =>
    match s.askLaunch graph r v true with
    | (s, none) => s.refuse graph r
    | (s, some l) =>
      let root := bits v 191 128
      match s.cpWrite r.asid .dev (root + 16) (bytesOfNat 8 0 ++ bytesOfNat 8 (ctlWord 0 0 true l.job)) with
      | (s, false) => s.refuse graph r
      | (s, true) =>
        let (s, id) := s.beginLaunch graph r l
        let core := coreAt l.x l.y
        let s := (rectCores l).foldl (fun s c => s.undefine id (s.darnerArea c id) 0xC000) s
        let s := (s.openRecord id root).modDarner core id (fun d => { d with deque := root :: d.deque })
        s.makeRoom core id (fun s => s.admits core id && (s.taskSlot core id).isSome)

/-! ### Chunks (R73, R74) -/

/-- The launch without that chunk. -/
def Launch.take (l : Launch) (die : Nat) : Launch :=
  { l with tickets := l.tickets.map (fun t => if t.1 = die then (t.1, t.2.1 + 1, t.2.2) else t) }

/-- Start the warps of a chunk (R71, R74): w0 to w3 hold the chunk, its first iteration, its iteration count and the warp's number. -/
def State.startChunk (s : State) (core id chunk : Nat) (slots : List Nat) : State :=
  let l := s.launch id
  let first := chunk * l.chunk
  let n := min ((chunk + 1) * l.chunk) l.iters - first
  slots.zipIdx.foldl (fun s e =>
    s.startFor core e.1 id e.2 l.entry 0xFFFFFFFF [BitVec.ofNat 32 chunk, BitVec.ofNat 32 first, BitVec.ofNat 32 n, BitVec.ofNat 32 e.2]) s

/-- CHUNK_CLAIM (R74): an idle core claims a chunk and starts its warps, or room is made for them (R79). Log 7. -/
def execChunkClaim (core launch : Nat) (s : State) : Host.Outcome State Fault Refusal :=
  .next (match s.launches.find? launch with
    | none => s
    | some l =>
      if !s.wants core launch l || s.outranked core launch then s
      else
        match l.ticket (dieOf core), chooseSlots (s.slotsUsed core) l.alloc l.warps with
        | some (die, chunk), some slots =>
          if s.roomFor core launch then
            (s.modLaunch launch (fun l => l.take die)).startChunk core launch chunk slots
          else s.makeRoom core launch (fun s => s.roomFor core launch)
        | some _, none => s.makeRoom core launch (fun s => s.roomFor core launch)
        | none, _ => s)

/-! ### COPY (R374) -/

/-- NODE_COPY: the copy begins; nothing has moved. Log 41. -/
def execNodeCopy (graph : Nat) (s : State) : Host.Outcome State Fault Refusal :=
  onNode 3 graph s fun s r v =>
    let n := bits v 255 192
    { s with graphs := s.graphs.insert graph { r with phase := .copy (if n = 0 then [] else [(0, n)]) s.seq } }

/-- The bytes of the destination that lie in the source too hold undefined contents, and no other byte (R4, R374). Log 41. -/
def State.spoilOverlap (s : State) (asid src dst n : Nat) : State :=
  let lo := max src dst
  let hi := min (src + n) (dst + n)
  if lo < hi then
    match s.pieces .dev asid .store lo (hi - lo) with
    | (s, .ok ps) => { s with undef := ps.map (fun p => (p.pa, p.pa + p.len)) ++ s.undef }
    | (s, .error _) => s
  else s

/-- Move a run of bytes, within one page of source and destination; false when a page fails. Log 41. -/
def State.copyRun (s : State) (r : GraphRun) (since off n : Nat) : State × Bool :=
  match s.engineTranslate .dev r.asid .load (nodeAddr r.held + off) with
  | (s, .error _) => (s, false)
  | (s, .ok (l, pa)) =>
    match s.engineTranslate .dev r.asid .store (nodeData r.held + off) with
    | (s, .error _) => (s, false)
    | (s, .ok (l', pa')) =>
      let s := ((s.touch .dev pa n).fillSpan l pa n).fillSpan l' pa' n
      let data := s.engineBytes .dev { at_ := since, fresh := 0, token := none } [43, off] l.okey pa n
      ((s.countDrop pa n).engineWrite none l'.okey pa' data, true)

/-- Longest run of one page of source and destination at an offset, up to `n` bytes. -/
def copyLimit (r : GraphRun) (off n : Nat) : Nat :=
  let room (va : Nat) : Nat := 2 ^ 18 - va % 2 ^ 18
  min n (min (room (nodeAddr r.held + off)) (room (nodeData r.held + off)))

/-- A COPY is over: what it made undefined, and the node's end. -/
def State.endCopy (s : State) (g : Nat) (r : GraphRun) (fault : Bool) : State :=
  let s := s.spoilOverlap r.asid (nodeAddr r.held) (nodeData r.held) (bits r.held 255 192)
  if fault then s.nodeError g r 4 (fun s r => s.goOn g r) else s.goOn g r

/-- COPY_NODE_COMPLETE (R374): bytes of a COPY move, in an order that is free; with the last the node completes. Log 41. -/
def execCopyNodeComplete (graph : Nat) (s : State) : Host.Outcome State Fault Refusal :=
  .next (match s.graphs.find? graph with
    | none => s
    | some r =>
      match r.phase with
      | .copy [] _ => s.endCopy graph r false
      | .copy (x :: rest) since =>
        let (lo, hi) := s.choose [44, graph] x (x :: rest)
        let off := lo + s.pick [45, graph] (hi - lo)
        let n := 1 + s.pick [46, graph] (copyLimit r off (hi - off))
        match s.copyRun r since off n with
        | (s, false) => s.endCopy graph r true
        | (s, true) =>
          let others := (x :: rest).filter (fun e => decide (e ≠ (lo, hi)))
          let left := others ++ ([(lo, off), (off + n, hi)].filter (fun e => decide (e.1 < e.2)))
          if left.isEmpty then s.endCopy graph r false
          else { s with graphs := s.graphs.insert graph { r with phase := .copy left since } }
      | _ => s)

/-! ### COND, LOOP, WAITMEM, SIGNAL, END (R374) -/

/-- The comparison of a COND or LOOP on its word, read at its home; none when the word cannot be read. -/
def State.nodeHolds (s : State) (r : GraphRun) : State × Option Bool :=
  let v := r.held
  match s.homeRead r.asid (nodeAddr v) (if nodeW64 v then 8 else 4) with
  | (s, none) => (s, none)
  | (s, some x) => (s, some (cmpHolds (bits v 194 192) (nodeW64 v) x (nodeData v)))

/-- NODE_COND. -/
def execNodeCond (graph : Nat) (s : State) : Host.Outcome State Fault Refusal :=
  onNode 4 graph s fun s r v =>
    match s.nodeHolds r with
    | (s, none) => s.nodeError graph r 4 (fun s r => s.goOn graph r)
    | (s, some true) => s.goTo graph r (nodeArgH v) r.node
    | (s, some false) => s.goOn graph r

/-- A LOOP's test and count, once CNT has been written 0 where that is due. -/
def State.runLoop (s : State) (g : Nat) (r : GraphRun) (v : Nat) : State :=
  let fail (s : State) : State := s.nodeError g r 4 (fun s r => s.leaveLoop g r v)
  match s.homeRead r.asid (bits v 319 256) 4 with
  | (s, none) => fail s
  | (s, some cnt) =>
    if nodeArgH v ≤ cnt then s.leaveLoop g r v
    else
      match s.nodeHolds r with
      | (s, none) => fail s
      | (s, some false) => s.leaveLoop g r v
      | (s, some true) =>
        match s.cpWrite r.asid .dev (bits v 319 256) (bytesOfNat 4 (cnt + 1)) with
        | (s, false) => fail s
        | (s, true) => s.goTo g r (r.node + 1) r.node

/-- NODE_LOOP: CNT starts at 0 unless the node was reached from its own body's last node. -/
def execNodeLoop (graph : Nat) (s : State) : Host.Outcome State Fault Refusal :=
  onNode 5 graph s fun s r v =>
    if r.from_ = some (r.node + nodeBody v) then s.runLoop graph r v
    else
      match s.cpWrite r.asid .dev (bits v 319 256) (bytesOfNat 4 0) with
      | (s, false) => s.nodeError graph r 4 (fun s r => s.leaveLoop graph r v)
      | (s, true) => s.runLoop graph r v

/-- NODE_WAITMEM: a registration of the CP at the word's home (R221 to R225). -/
def execNodeWaitmem (graph : Nat) (s : State) : Host.Outcome State Fault Refusal :=
  onNode 6 graph s fun s r v =>
    match s.engineTranslate .dev r.asid .load (nodeAddr v) with
    | (s, .error _) => s.nodeError graph r 4 (fun s r => s.goOn graph r)
    | (s, .ok (l, pa)) =>
      let id := s.regs.fresh 0
      let t : Word := BitVec.ofNat 32 (bits v 255 224)
      let reg : Registration :=
        { owner := .graph graph, place := .inFlight, asid := r.asid, va := nodeAddr v, key := pa, okey := l.okey, w64 := nodeW64 v, cmp := bits v 194 192, operand := nodeData v,
          deadline := s.deadline t, zero := decide (t = 0), lanes := 0 }
      { s with regs := s.regs.insert id reg, graphs := s.graphs.insert graph { r with phase := .wait none } }.register id

/-- What a WAITMEM's code does (R374). -/
def State.endWaitmem (s : State) (g : Nat) (r : GraphRun) (code : Nat) : State :=
  let on (s : State) (r : GraphRun) : State := s.goOn g r
  if code ≤ 1 then on s r else if code = 2 then s.nodeError g r 2 on else s.nodeError g r 3 on

/-- NODE_SIGNAL: VALUE stored or added at ADDR, published at .sys after all that precedes it (R210). -/
def execNodeSignal (graph : Nat) (s : State) : Host.Outcome State Fault Refusal :=
  onNode 7 graph s fun s r v =>
    let n := if bit v 192 then 8 else 4
    let add := bit v 193
    match s.engineTranslate .dev r.asid (if add then .atomic else .store) (nodeAddr v) with
    | (s, .error _) => s.nodeError graph r 4 (fun s r => s.goOn graph r)
    | (s, .ok (l, pa)) =>
      let s := s.publishSys
      let s :=
        if add then (s.atomicAt { wid := none, core := none } .dev .sys l.okey pa n 0 (nodeData v % 2 ^ (8 * n)) 0).1
        else s.homeWrite { wid := none, core := none } .sys none l.okey pa (bytesOfNat n (nodeData v))
      s.goOn graph r

/-- NODE_END: the graph ends. -/
def execNodeEnd (graph : Nat) (s : State) : Host.Outcome State Fault Refusal := onNode 0 graph s fun s r _ => s.endGraph graph r

/-! ### The end of a launch (R74, R247, R373) -/

/-- No chunk is left to claim and no record to finish, or nothing more of the launch is started. -/
def Launch.spent (l : Launch) : Bool := l.stopped || (if l.task then l.records.isEmpty else l.tickets.all (fun t => decide (t.2.2 ≤ t.2.1)))

/-- A command of the launch is outstanding on a core. -/
def Core.busyFor (c : Core) (id : Nat) : Bool :=
  c.bte.any (fun x => decide (x.launch = id)) || c.aperture.any (fun x => decide (x.launch = id)) || c.acps.any (fun x => decide (x.token / 2 ^ 32 = id)) ||
    (decide (c.press.owner = some id) && !c.press.queue.isEmpty) || (match c.pressSaved.find? id with | some p => !p.queue.isEmpty | none => false)

/-- A launch is complete (R74, R247, R373): every warp of it has ended, every command that they issued has completed, and every frame of it is written. -/
def State.launchDone (s : State) (id : Nat) (l : Launch) : Bool :=
  let of (x : Warp) : Bool := (x.run :: x.help).any (fun w => decide (w.launch = id))
  l.spent && !s.warps.any (fun e => of e.2) && !s.saved.any (fun v => of v.warp) && !s.cores.any (fun e => e.2.busyFor id) &&
    !s.widens.any (fun e => decide (e.2.launch = id)) && !s.gathers.any (fun e => decide (e.2.launch = id)) && !s.keyeds.any (fun e => decide (e.2.launch = id)) &&
    !s.bcus.any (fun c => decide (c.launch = id) && !c.complete) && !s.seams.any (fun e => e.2.cmds.any (fun c => decide (c.launch = id))) &&
    !s.stagings.any (fun g => decide (g.launch = id) || g.waiters.any (fun x => decide (x.launch = id))) && !s.denied.any (fun d => decide (d.launch = id)) && !s.darnerFaults.any (fun d => decide (d.launch = id))

/-- The node of a complete launch completes (R373, R375). -/
def State.endLaunch (s : State) (id : Nat) (l : Launch) : State :=
  let s := s.dropLaunch id
  match s.graphs.find? l.graph with
  | none => s
  | some r =>
    if r.phase ≠ .launch id then s
    else
      let r := if l.dropped then r.mark 7 else r
      let dead := match s.ctxs.find? r.asid with | some c => c.ended | none => true
      if dead then s.endGraph l.graph (r.mark 1)
      else if l.faulted then s.nodeError l.graph r 1 (fun s r => s.goOn l.graph r)
      else s.goOn l.graph r

/-- Every launch that is complete ends, and every WAITMEM whose code is recorded. -/
def State.settleNodes (s : State) : State :=
  let s := s.launches.foldl (fun s e => match s.launches.find? e.1 with
    | some l => if s.launchDone e.1 l then s.endLaunch e.1 l else s
    | none => s) s
  s.graphs.foldl (fun s e => match s.graphs.find? e.1 with
    | some r => (match r.phase with
      | .wait (some code) => s.endWaitmem e.1 r code
      | _ => s)
    | none => s) s

end Sys2Proof.Machine
end

