-- ==== Sys2Proof/Machine/Phases.lean ====
section
/-! DEFINITION. Phases, owner and remote fences (R197, R198, R212), shadow sets and their publication (R199, R200, R215), and the events that perform a buffered store or an outstanding register write (R40, R205, R222). -/

namespace Sys2Proof.Machine

/-- Buffered stores of a warp that may take their place next (R205, R217): the oldest, and a queue entry that only entries of other queues come before. -/
def WarpCore.nextStores (w : WarpCore) : List Nat :=
  (List.range w.stores.length).filter fun i =>
    decide (i = 0) ||
      match (w.stores[i]?).bind (·.queue) with
      | some q => (w.stores.take i).all (fun p => match p.queue with | some x => decide (x ≠ q) | none => false)
      | none => false

/-- Publish the buffered store `i` of a warp at a scope. -/
def State.publishAt (s : State) (wid i : Nat) (sc : Scope) : State :=
  match s.anyWarp? wid with
  | none => s
  | some w =>
    match w.stores[i]? with
    | none => s
    | some p => (s.modWarp wid (fun w => { w with stores := w.stores.eraseIdx i })).perform wid w sc p

/-- A buffered store of a warp takes its place before any boundary asks for it (R205, R217): which of those that may is free. A store to global memory is then published to the whole module at once, or to the host and the peers as well: there is one publication order (Table 11-10). Log 8. -/
def execHomeWrite (wid : Nat) (s : State) : Host.Outcome State Fault Refusal :=
  let i := s.choose [19, wid] 0 (match s.anyWarp? wid with | some w => w.nextStores | none => [])
  .next (s.publishAt wid i (if s.pick [14, wid] 2 = 0 then .dev else .sys))

/-- The first outstanding write of a place whose pipe interval has ended is performed (R135). -/
def dropOut (now lane reg : Nat) : List OutWrite → List OutWrite
  | [] => []
  | o :: r => if o.lane = lane ∧ o.loc.code = reg ∧ o.due ≤ now then r else o :: dropOut now lane reg r

/-- An outstanding register write is performed (R40), no earlier than the end of its instruction's pipe interval (R135). Log 5. -/
def execRegisterWritePerformed (wid lane reg : Nat) (s : State) : Host.Outcome State Fault Refusal :=
  .next (s.modRun wid (fun w => { w with out := dropOut s.clk lane reg w.out }))

/-- PHASE (R197). -/
def execPhase (r : RArgs) (s : State) : Host.Outcome State Fault Refusal :=
  onWarp (.phase r) s fun c w => s.orCancel c w fun s c => (s.boundary c.wid (scopeOf (sub r.px)) true).conclude c []

/-! ### Fences (R198, R212) -/

/-- A FENCEO mark in a warp's stores. -/
def fenceMark (c : Issue) : Pending := { storeOf c c.lead 0 0 0 0 0 false with mark := true }

/-- FENCEO (R198): a mark; the refresh that a FENCER's serving still owes is made by now (R212). -/
def execFenceo (r : RArgs) (s : State) : Host.Outcome State Fault Refusal :=
  onWarp (.fenceo r) s fun c w =>
    let s := if w.owed then s.refreshWarp c.wid else s
    (s.modRun c.wid (fun w => { w with stores := w.stores ++ [fenceMark c], owed := false })).conclude c []

/-- A FENCER is served at a warp (R212): its stores up to a point are published at .dev, every one before its last FENCEO among them, and it is refreshed there, or by its next FENCEO. Where the point lies between two FENCEOs is free (log 9). -/
def State.serveFence (s : State) (wid : Nat) : State :=
  match s.warp? wid with
  | none => s
  | some w =>
    let last := w.stores.zipIdx.foldl (fun m e => if e.1.mark then e.2 + 1 else m) 0
    let s1 := (s.publishSome wid (last + s.pick [16, wid] (w.stores.length - last + 1)) .dev).widen wid .dev
    if s.pick [17, wid] 2 = 0 then s1.refreshWarp wid else s1.modRun wid (fun w => { w with owed := true })

/-- A FENCER's targets (R198): the warps of a core, or the warp of a token; none for a coordinate outside the mesh or a token of another context. Log 9. -/
def State.fenceTargets (s : State) (w : WarpCore) (bySub : Nat) (v : DWord) : Option (List Nat) :=
  if bySub = 0 then
    let x := bits v.toNat 15 8
    let y := bits v.toNat 7 0
    if x < 16 ∧ y < 24 then some ((s.warps.filter (fun e => decide (e.1 / 64 = coreAt x y))).map (·.1)) else none
  else
    let id := v.toNat / 2 ^ 32
    match s.launches.find? id with
    | some l => if l.asid = s.asidOf w then some (if s.runsNow v.toNat then [tokenWid v.toNat] else []) else none
    | none => some []

/-- FENCER (R198, R212): publishes its own stores, serves every target, refreshes its own warp. Log 9. -/
def execFencer (r : RArgs) (s : State) : Host.Outcome State Fault Refusal :=
  onWarp (.fencer r) s fun c w => s.orCancel c w fun s c =>
    match s.fenceTargets w (sub r.px) (r.pairA s w c.lead) with
    | none => s.trapAll c (trapOf .protection 0)
    | some ts =>
      let s := s.publish c.wid .dev
      let s := ts.foldl (fun s t => s.serveFence t) s
      (s.refreshWarp c.wid).conclude c []

/-! ### Shadow sets (R199, R200) -/

/-- Hardware writes a page-table word, under the key that wrote it before (R404). -/
def State.writeEntry (s : State) (pa v : Nat) : State :=
  s.homeWrite { wid := none, core := none } .dev none (s.slotOf (s.tagAt pa)) pa (bytesOfNat 8 v)

/-- A page-table word as hardware reads it to change it. -/
def State.entryWord (s : State) (pa : Nat) : Nat := natOfBytes ((keysFrom pa 8).map (fun x => s.found [24] x (s.mem.byte x)))

/-- The entry's SHADOW bit set or cleared. -/
def State.setShadow (s : State) (l : Leaf) (on : Bool) : State :=
  let e := s.entryWord l.at_
  let base := if bit e 5 then e - 2 ^ 5 else e
  s.writeEntry l.at_ (if on then base + 2 ^ 5 else base)

/-- The set that holds a page, when one does. -/
def Context.setOf (c : Context) (page : Nat) : Option Nat :=
  ((c.shadows.filter (fun e => e.2.any (fun p => decide (p.1 = page) || decide (p.2 = page)))).head?).map (·.1)

/-- Pairs of a set. -/
def Context.pairs (c : Context) (n : Nat) : List (Nat × Nat) := (c.shadows.find? n).getD []

/-- PROTECTION subcode of a SHADOWSET that adds a pair (Table 10-3). DESIGN CHOICE (log 27): Table 10-3 refuses a page of another set only, so a page that is already in a pair of this set, or is paired with itself, makes one more pair. -/
def shadowFault (c : Context) (set v h : Nat) (lv lh : Leaf) : Option Nat :=
  if 256 ≤ set then some 1
  else if 64 ≤ (c.pairs set).length then some 2
  else if lv.big || lh.big || (c.setOf v).any (fun n => decide (n ≠ set)) || (c.setOf h).any (fun n => decide (n ≠ set)) then some 3
  else if lv.fmt ≠ lh.fmt ∨ lv.geo ≠ lh.geo ∨ lv.layout ≠ lh.layout then some 4
  else none

/-- SHADOWSET (R199): add a pair, and mark the shadow page's mapping. Log 27. -/
def execShadowset (r : RArgs) (s : State) : Host.Outcome State Fault Refusal :=
  onWarp (.shadowset r) s fun c w =>
    let asid := s.asidOf w
    let set := (r.vD s w c.lead).toNat
    let v := (r.pairA s w c.lead).toNat
    let h := (r.pairB s w c.lead).toNat
    if v % 2 ^ 18 ≠ 0 then s.trapAll c (trapAt .align v)
    else if h % 2 ^ 18 ≠ 0 then s.trapAll c (trapAt .align h)
    else
      match s.walk asid v, s.walk asid h with
      | none, _ => s.trapAll c (trapAt .pageFaultSt v)
      | _, none => s.trapAll c (trapAt .pageFaultSt h)
      | some lv, some lh =>
        match s.ctxs.find? asid with
        | none => s.conclude c []
        | some x =>
          match shadowFault x set v h lv lh with
          | some n => s.trapAll c (trapOf .protection n)
          | none =>
            let s := { s with ctxs := s.ctxs.insert asid { x with shadows := x.shadows.insert set (x.pairs set ++ [(v, h)]) } }
            (s.setShadow lh true).conclude c []

/-- SHADOWSET.del (R199): remove the pair that holds a page, and clear its shadow page's mark. DESIGN CHOICE (log 27): it does not look at vB, since R199 names no check of vB for this form. -/
def execShadowsetDel (r : RArgs) (s : State) : Host.Outcome State Fault Refusal :=
  onWarp (.shadowsetDel r) s fun c w =>
    let asid := s.asidOf w
    let v := (r.pairA s w c.lead).toNat
    if v % 2 ^ 18 ≠ 0 then s.trapAll c (trapAt .align v)
    else
      match s.walk asid v with
      | none => s.trapAll c (trapAt .pageFaultSt v)
      | some _ =>
        if 256 ≤ (r.vD s w c.lead).toNat then s.trapAll c (trapOf .protection 1)
        else
          match s.ctxs.find? asid with
          | none => s.trapAll c (trapOf .protection 5)
          | some x =>
            match x.setOf v with
            | none => s.trapAll c (trapOf .protection 5)
            | some set =>
              let hit (p : Nat × Nat) : Bool := decide (p.1 = v) || decide (p.2 = v)
              let gone := (x.pairs set).filter hit
              let kept := (x.pairs set).filter (fun p => !hit p)
              let s := { s with ctxs := s.ctxs.insert asid { x with shadows := if kept.isEmpty then x.shadows.erase set else x.shadows.insert set kept } }
              let s := gone.foldl (fun s p => match s.walk asid p.2 with | some l => s.setShadow l false | none => s) s
              s.conclude c []

/-- Waits on global words in a range of a context end with ABANDONED (Table 12-4). -/
def State.abandonRange (s : State) (asid lo hi : Nat) : State :=
  let hit := s.regs.filter fun e =>
    let r := e.2
    decide (r.asid = asid) && (r.va :: r.also).any (fun v => decide (lo ≤ v) && decide (v < hi)) && !isSpad r.key && decide (r.cmp ≠ 8) &&
      (match r.owner with | .warp _ _ => true | .graph _ => true | _ => false)
  hit.foldl (fun s e => s.endReg e.1 3) s

/-- Swap the frames of one pair in the page tables, drop its cached translations, and end the waits behind them (R200, R404, Table 12-4). Log 27. -/
def State.swapPair (s : State) (asid : Nat) (sc : Scope) (core pos : Nat) (p : Nat × Nat) : State :=
  match s.walk asid p.1, s.walk asid p.2 with
  | some a, some b =>
    let ea := s.entryWord a.at_
    let eb := s.entryWord b.at_
    let s := s.writeEntry a.at_ (ea - a.frame + b.frame)
    let s := s.writeEntry b.at_ (eb - b.frame + a.frame)
    let s := { s with ctxs := s.ctxs.modify asid (fun c => { c with swaps := (pos, sc, core, p.1, a) :: c.swaps }) }
    let s := (s.dropTlb asid p.1 (p.1 + 2 ^ 18)).dropTlb asid p.2 (p.2 + 2 ^ 18)
    (s.abandonRange asid p.1 (p.1 + 2 ^ 18)).abandonRange asid p.2 (p.2 + 2 ^ 18)
  | _, _ => s

/-- PUBLISH (R200, R215): a phase boundary, and every pair of the set swapped in one step of the publication order. Whether its own refresh takes the new generation is free (the manual names both orders). DESIGN CHOICE (log 27): a set number of 256 or more, of which R200 says nothing, names an empty set, so that the PUBLISH is a phase boundary alone. -/
def execPublish (r : RArgs) (s : State) : Host.Outcome State Fault Refusal :=
  onWarp (.publish r) s fun c w => s.orCancel c w fun s c =>
    let sc := scopeOf (sub r.px)
    let asid := s.asidOf w
    let after := decide (s.pick [18, c.wid] 2 = 0)
    let s := s.boundary c.wid sc true
    let ps := match s.ctxs.find? asid with | some x => x.pairs (r.vA s w c.lead).toNat | none => []
    let s := { s with seq := s.seq + 1 }
    let pos := s.seq
    let s := ps.foldl (fun s p => s.swapPair asid sc w.core pos p) s
    let s := if after then s.refreshWarp c.wid else s
    s.conclude c []

end Sys2Proof.Machine
end

