-- ==== Sys2Proof/Machine/System.lean ====
section
/-! DEFINITION. The system instructions (R393 to R398): TRAP, TRET, control registers, suspending and resuming a context, TLBINV; and the frame of a store denied beyond the core (R388). -/

namespace Sys2Proof.Machine

/-! ### TRAP and TRET (R394, R395) -/

/-- TRAP (R394): every active lane takes SOFT_TRAP with the operand as subcode. -/
def execTrap (r : RArgs) (s : State) : Host.Outcome State Fault Refusal :=
  onWarp (.trap r) s fun c _ => s.trapAll c (trapOf .softTrap r.b.toNat)

/-- Bytes of the frame and the resume array, as the handler lane's own loads read them (R389). -/
def State.readFrame (s : State) (c : Issue) (w : WarpCore) (va : Nat) : State × Except Trap (List Byte) :=
  match s.translate w.party (s.asidOf w) (s.warpWorld w) .load va with
  | (s, .error e) => (s, .error (e.trap .load va))
  | (s, .ok (l, pa)) =>
    let (s, b) := s.plainBytes c.wid [47] l.okey pa 320
    (s, .ok b)

/-- TRET by the lanes of an entry (R389, R395): the handler lane returns; any other lane traps. When the handler lane faults at its frame, it joins the others in one sub-warp (R381). Log 28. -/
def State.tret (s : State) (c : Issue) (w : WarpCore) (skip : Bool) : State :=
  let illegal := trapOf .illegalOp 0
  match w.handler with
  | none => s.trapAll c illegal
  | some h =>
    if !hasLane c.lanes h.lane then s.trapAll c illegal
    else
      let others := c.lanes &&& ~~~(laneBit h.lane)
      match s.readFrame c w h.frame with
      | (s, .error t) => s.trapAll c (if c.lead = h.lane then t else illegal)
      | (s, .ok b) =>
        let s := if others = 0 then s else s.takeTrap c others illegal
        { s.returnFrom c h b skip with cur := none }

/-- TRET (R395). -/
def execTret (r : RArgs) (s : State) : Host.Outcome State Fault Refusal := onWarp (.tret r) s fun c w => s.tret c w false

/-- TRET.skip (R395). -/
def execTretSkip (r : RArgs) (s : State) : Host.Outcome State Fault Refusal := onWarp (.tretSkip r) s fun c w => s.tret c w true

/-! ### Control registers (R51, R396, Table 3-6) -/

/-- `ctl.status` (Table 24-7). -/
def WarpCore.status (w : WarpCore) : Nat := w.flags.toNat + (if w.handler.isSome then 2 ^ 8 else 0) + w.depth % 16 * 2 ^ 16

/-- The value of a control register (Table 3-6). -/
def State.readCtl (s : State) (w : WarpCore) (n : Nat) : Nat :=
  let l := s.launch w.launch
  match n with
  | 0 => w.status
  | 1 => w.srng.toNat
  | 2 => if w.drop then 1 else 0
  | 3 => w.trapvec.toNat
  | 4 => l.asid
  | 5 => if s.warpWorld w then 1 else 0
  | 6 => w.wbase
  | 7 => s.arenaOf w
  | 8 => l.arenaSz
  | 9 => l.spad
  | 10 => w.launch
  | 11 => w.token
  | _ => 0

/-- RDCTL (R396). -/
def execRdctl (r : RArgs) (s : State) : Host.Outcome State Fault Refusal :=
  onWarp (.rdctl r) s fun c w =>
    let v := s.readCtl w r.b.toNat
    if ctlWide r.b then s.perLanePair c r.d (fun _ => (BitVec.ofNat 64 v, 0)) else s.perLane c r.d (fun _ => (BitVec.ofNat 32 v, 0))

/-- Write a control register that waves may write (R396). -/
def WarpCore.writeCtl (w : WarpCore) (n : Nat) (v : DWord) : WarpCore :=
  let x := loWord v
  match n with
  | 0 => { w with flags := x.setWidth 8 }
  | 1 => { w with srng := x, lanes := w.lanes.zipIdx.map (fun e => { e.1 with stream := laneSeed x e.2 }) }
  | 2 => { w with drop := x.getLsbD 0 }
  | 3 => { w with trapvec := v }
  | _ => w

/-- WRCTL (R396): a register that is read-only for waves traps with PROTECTION (R51). Log 45. -/
def execWrctl (r : RArgs) (s : State) : Host.Outcome State Fault Refusal :=
  onWarp (.wrctl r) s fun c w =>
    let n := r.b.toNat
    let v := if ctlWide r.b then r.pairA s w c.lead else pairOf (r.vA s w c.lead) 0
    if 3 < n then s.trapAll c (trapOf .protection 0)
    else if n = 3 ∧ v.toNat % 4 ≠ 0 then s.trapAll c (trapAt .align v.toNat)
    else (s.modRun c.wid (fun w => w.writeCtl n v)).conclude c []

/-! ### CTXSAVE and CTXLOAD (R393, R397) -/

/-- PROTECTION subcode of CTXSAVE and CTXLOAD for an ASID. -/
def State.ctxFault (s : State) (w : WarpCore) (asid : Nat) : Option Nat :=
  if s.asidOf w ≠ 0 then some 7 else if (s.ctxs.find? asid).isNone then some 8 else none

/-- The context's warps leave every core, and the CP places none of its work (R391, R397). -/
def State.suspendContext (s : State) (asid : Nat) : State :=
  let ws := (s.warps.filter (fun e => decide ((s.launch e.2.run.launch).asid = asid) && !s.evicting.contains e.1)).map (·.1)
  { s with
    ctxs := s.ctxs.modify asid (fun c => { c with suspended := true })
    evicting := s.evicting ++ ws }

/-- The context may run again (R397). -/
def State.resumeContext (s : State) (asid : Nat) (rearm : Bool) : State :=
  { s with ctxs := s.ctxs.modify asid (fun c => { c with suspended := false, rearm := rearm }) }

/-- A context has a resident warp. -/
def State.hasResident (s : State) (asid : Nat) : Bool := s.warps.any (fun e => decide ((s.launch e.2.run.launch).asid = asid))

/-- CTXSAVE (R397). -/
def execCtxsave (r : RArgs) (s : State) : Host.Outcome State Fault Refusal :=
  onWarp (.ctxsave r) s fun c w => s.orCancel c w fun s c =>
    let asid := (r.vA s w c.lead).toNat % 4096
    match s.ctxFault w asid with
    | some n => s.trapAll c (trapOf .protection n)
    | none =>
      let none_ := !s.hasResident asid
      let t := Wait.mk' (.ctxsave asid) (s.deadline (r.vB s w c.lead)) (w.resolve r.d.toNat) false
      let s := { (s.startWait c c.lanes false t).suspendContext asid with cur := none }
      if none_ then s.finishWait c.wid c.lanes t 0 else s

/-- CTXLOAD, with or without `.rearm` (R397). -/
def ctxload (i : Instr) (rearm : Bool) (r : RArgs) (s : State) : Host.Outcome State Fault Refusal :=
  onWarp i s fun c w => s.orCancel c w fun s c =>
    let asid := (r.vA s w c.lead).toNat % 4096
    match s.ctxFault w asid with
    | some n => s.trapAll c (trapOf .protection n)
    | none =>
      let s := (s.resumeContext asid rearm).boundary c.wid .dev true
      (s.giveAll c r.d.toNat [0]).conclude c []

/-- CTXLOAD (R397). -/
def execCtxload (r : RArgs) (s : State) : Host.Outcome State Fault Refusal := ctxload (.ctxload r) false r s

/-- CTXLOAD.rearm (R397). -/
def execCtxloadRearm (r : RArgs) (s : State) : Host.Outcome State Fault Refusal := ctxload (.ctxloadRearm r) true r s

/-! ### TLBINV (R398) -/

/-- Cached translations of an ASID in a range go, and the waits there end with ABANDONED. Log 10. -/
def State.invalidate (s : State) (asid lo hi : Nat) : State :=
  (s.dropTlb asid lo hi).abandonRange asid lo hi

/-- TLBINV (R398): another context's ASID is for ASID 0 alone (R393). Log 45. -/
def execTlbinv (r : RArgs) (s : State) : Host.Outcome State Fault Refusal :=
  onWarp (.tlbinv r) s fun c w =>
    let va := (r.pairA s w c.lead).toNat
    let n := (r.vB s w c.lead).toNat
    let asid := (r.vB1 s w c.lead).toNat % 4096
    let own := s.asidOf w
    if asid ≠ own ∧ own ≠ 0 then s.trapAll c (trapOf .protection 7)
    else (if n = 0 then s.invalidate asid 0 (2 ^ 57) else s.invalidate asid va (min (va + n) (2 ^ 57))).conclude c []

/-! ### Imprecise store faults (R388) -/

/-- The frame of a store that the region table denied beyond the core. -/
def State.storeFrame (s : State) (d : DeniedStore) : Frame :=
  let live := s.tokWarp? d.token
  { Frame.queued_ .impreciseStore Cause.world.code with
    task := (match live with | some w => w.task | none => 0), token := d.token, insn := d.insn, pc := d.pc, faddr := d.va, lanes := 2 ^ d.lane,
    pair := decide (2 ^ 32 ≤ d.insn), gone := live.isNone }

/-- IMPRECISE_STORE_FAULT (R388): the oldest denied store's frame is queued. -/
def execImpreciseStoreFault (s : State) : Host.Outcome State Fault Refusal :=
  .next (match s.denied with
    | [] => s
    | d :: rest =>
      let s := { s with denied := rest }
      s.queueFrame (s.launch d.launch).asid (some d.launch) (s.storeFrame d) 0)

end Sys2Proof.Machine
end

