-- ==== Sys2Proof/Machine/Monitor.lean ====
section
/-! DEFINITION. The secure monitor (R394, Table 25-5): versions, attestation (R410), key slots (R408), the region table (R406, R407), error counters (R411), the power state (R412), snapshots (R392) and fabric jobs (R360). -/

namespace Sys2Proof.Machine

/-- A privilege error (Table 25-5). -/
def smcDenied : Word := 0xFFFFFFFE

/-- Every other error. -/
def smcError : Word := 0xFFFFFFFF

/-- v0 to v7 of the lowest active lane (R394). -/
def State.smcArg (s : State) (c : Issue) (w : WarpCore) (i : Nat) : Word := s.rd w c.lead i i

/-- Two of them as a 64-bit value. -/
def State.smcPair (s : State) (c : Issue) (w : WarpCore) (i : Nat) : Nat := (s.smcArg c w i).toNat + (s.smcArg c w (i + 1)).toNat * 2 ^ 32

/-- The frame of the monitor's functions that answer at once: results from v0 on in every active lane, and a boundary at .dev. -/
def smc (i : Instr) (s : State) (body : State → Issue → WarpCore → State × List Word) : Host.Outcome State Fault Refusal :=
  onWarp i s fun c w => s.orCancel c w fun s c =>
    let (s, res) := body s c w
    let s := (s.modRun c.wid WarpCore.drainRegs).boundary c.wid .dev true
    (s.giveAll c 0 res).conclude c []

/-- SMC 0, and every unknown function (R394). Log 16, 45. -/
def execSmcVersion (r : RArgs) (s : State) : Host.Outcome State Fault Refusal :=
  smc (.smcVersion r) s fun s _ _ => (s, if r.b = 0 then [Config.monitorVersion, 0xB1] else [smcError])

/-- SMC 1 (R410): a report over the caller's nonce, into its buffer. Log 16. -/
def execSmcAttest (r : RArgs) (s : State) : Host.Outcome State Fault Refusal :=
  smc (.smcAttest r) s fun s c w =>
    let va := s.smcPair c w 0
    let asid := s.asidOf w
    if va % 4096 ≠ 0 then (s, [smcError])
    else
      match s.homeRead asid va 8 with
      | (s, none) => (s, [smcError])
      | (s, some tail) =>
        let nonce := ((List.range 6).map (fun i => bytesOfNat 4 (s.smcArg c w (i + 2)).toNat)).flatten ++ bytesOfNat 8 tail
        let n := min 4096 Config.attestLength
        match s.cpWrite asid .dev va ((List.range n).map (Config.attestByte s.boot.firmware s.boot.record s.boot.modId nonce)) with
        | (s, true) => (s, [0, BitVec.ofNat 32 n])
        | (s, false) => (s, [smcError])

/-- A key slot holds a new key (R408): bytes written under the old one are not plain under it; those that the new one wrote before, in whichever slot, are. Log 47. -/
def State.loadKey (s : State) (slot : Nat) (wrapped : List Byte) : State :=
  { s with keys := s.keys.insert slot wrapped, keyRing := if s.keyRing.contains wrapped then s.keyRing else s.keyRing ++ [wrapped] }

/-- SMC 2 (R408). Log 16. -/
def execSmcLoadKeySlot (r : RArgs) (s : State) : Host.Outcome State Fault Refusal :=
  smc (.smcLoadKeySlot r) s fun s c w =>
    let slot := (s.smcArg c w 0).toNat
    if !s.warpWorld w then (s, [smcDenied])
    else if 4096 ≤ slot then (s, [smcError])
    else
      match s.homeRead (s.asidOf w) (s.smcPair c w 1) Config.wrappedLength with
      | (s, none) => (s, [smcError])
      | (s, some v) =>
        let b := bytesOfNat Config.wrappedLength v
        if Config.unwraps b then (s.loadKey slot b, [0]) else (s, [smcError])

/-- A region table entry (Table 25-4); none for one whose fields are out of range. Reserved bits are ignored (R3). -/
def regionOf (v : Nat) : Option Region :=
  let logsz := bits v 103 98
  let base := bits v 51 18 * 2 ^ 18
  if 18 ≤ logsz ∧ logsz ≤ 52 ∧ base % 2 ^ logsz = 0 then
    some { en := bit v 96, nsok := bit v 97, logsz := logsz, base := base }
  else none

/-- A region's range contains an address of a cached translation's page. -/
def Region.meets (x : Region) (l : Leaf) : Bool :=
  decide (x.base < l.frame + (if l.big then 2 ^ 31 else 2 ^ 18)) && decide (l.frame < x.base + 2 ^ x.logsz)

/-- A region entry changes (R407): accesses admitted under its old value take their place, and every translation that its old or its new value may decide goes, whichever entry decided it before. -/
def State.setRegion (s : State) (i : Nat) (x : Region) : State :=
  let s := s.warps.foldl (fun s e => s.publishSome e.1 e.2.run.stores.length .core) s
  { s with
    tlb := s.tlb.filter (fun e => !(x.meets e.leaf || (match s.regions.find? i with | some y => y.meets e.leaf | none => false)))
    regions := s.regions.insert i x }

/-- SMC 3 (R406, R407). Log 45. -/
def execSmcSetRegionEntry (r : RArgs) (s : State) : Host.Outcome State Fault Refusal :=
  smc (.smcSetRegionEntry r) s fun s c w =>
    let i := (s.smcArg c w 0).toNat
    if !s.warpWorld w then (s, [smcDenied])
    else
      match regionOf (s.smcPair c w 1 + s.smcPair c w 3 * 2 ^ 64) with
      | some x => if i < 64 then (s.setRegion i x, [0]) else (s, [smcError])
      | none => (s, [smcError])

/-- SMC 4 (R411). -/
def execSmcReadErrorCounters (r : RArgs) (s : State) : Host.Outcome State Fault Refusal :=
  smc (.smcReadErrorCounters r) s fun s c w =>
    let die := (s.smcArg c w 0).toNat
    let i := (s.smcArg c w 1).toNat
    let n := Map.get 0 s.counters (8 * die + i)
    (s, if die < 4 ∧ i < 6 then [BitVec.ofNat 32 n, BitVec.ofNat 32 (n / 2 ^ 32)] else [smcError])

/-- Code of a power state (R412). -/
def powerCode : PowerState → Nat
  | .run => 0
  | .capped => 1
  | .idle => 2
  | .thermal => 3

/-- SMC 5 (R412). -/
def execSmcPowerState (r : RArgs) (s : State) : Host.Outcome State Fault Refusal :=
  smc (.smcPowerState r) s fun s _ _ =>
    (s, [powerCode s.boot.power, s.boot.watts, s.boot.mhz, s.boot.limit].map (BitVec.ofNat 32))

/-! ### Fabric jobs (R360) -/

/-- A member list entry (R360): module, buddy, store base. Reserved bits are ignored (R3). -/
def memberOf (v : Nat) : Nat × Nat × Nat := (bits v 12 0, bits v 28 16, bits v 127 64)

/-- Bind a job to a context, in place of any earlier binding of it (R360). -/
def State.bindJob (s : State) (asid key : Nat) (ms : List (Nat × Nat × Nat)) : State :=
  { s with jobs := { asid := asid, key := key, members := ms } :: s.jobs.filter (fun j => decide (j.asid ≠ asid)) }

/-- SMC 7 (R360): a job has one member context of the module, so a second context of a bound job is an error. Log 45. -/
def execSmcBindFabricJob (r : RArgs) (s : State) : Host.Outcome State Fault Refusal :=
  smc (.smcBindFabricJob r) s fun s c w =>
    let asid := (s.smcArg c w 0).toNat
    let key := s.smcPair c w 1
    let n := (s.smcArg c w 5).toNat
    let others := s.jobs.filter (fun j => decide (j.asid ≠ asid))
    if s.asidOf w ≠ 0 then (s, [smcDenied])
    else if (s.ctxs.find? asid).isNone then (s, [smcError])
    else if key = 0 then ({ s with jobs := others }, [0])
    else if 8192 < n ∨ 64 ≤ others.length ∨ others.any (fun j => decide (j.key = key)) then (s, [smcError])
    else
      match s.homeRead (s.asidOf w) (s.smcPair c w 3) (16 * n) with
      | (s, none) => (s, [smcError])
      | (s, some v) => (s.bindJob asid key ((List.range n).map (fun i => memberOf (bits v (128 * i + 127) (128 * i)))), [0])

/-! ### Snapshots (R392) -/

/-- Bytes of a table: 64 KiB, or 128 KiB when it is extended. -/
def tableSpan (t : Nat × Bool) : Nat := if t.2 then 0x20000 else 0x10000

/-- Stands for the owner key of a page table, which is read as it is (R404). Log 10. -/
def plainTag : Nat := 4096

/-- Frames and tables below one level-3 table: base, bytes, owner key. -/
def State.framesOf3 (s : State) (t : Nat × Bool) : List (Nat × Nat × Nat) :=
  (t.1, tableSpan t, plainTag) :: (List.range 8192).filterMap (fun i => (s.tableEntry t i).bind (fun e =>
    if leafValid e.2.1 e.2.2 t.2 false then some (bits e.2.1 51 18 * 2 ^ 18, 2 ^ 18, bits e.2.1 63 52) else none))

/-- Frames and tables below one level-2 table. -/
def State.framesOf2 (s : State) (t : Nat × Bool) : List (Nat × Nat × Nat) :=
  (t.1, tableSpan t, plainTag) :: ((List.range 8192).map (fun i => match s.tableEntry t i with
    | none => []
    | some e =>
      if bits e.2.1 3 1 ≠ 0 then
        if leafValid e.2.1 e.2.2 t.2 true then [(bits e.2.1 51 18 * 2 ^ 18, 2 ^ 31, bits e.2.1 63 52)] else []
      else
        match pointerOf e.2.1 e.2.2 with
        | some t3 => s.framesOf3 t3
        | none => [])).flatten

/-- Frames and tables of a context. -/
def State.framesOf (s : State) (asid : Nat) : List (Nat × Nat × Nat) :=
  match (s.tableWord (s.fw.rootArray + 8 * asid)).bind (fun e => pointerOf e 0) with
  | none => []
  | some t =>
    (t.1, tableSpan t, plainTag) :: ((List.range 8192).map (fun i => match (s.tableEntry t i).bind (fun e => pointerOf e.2.1 e.2.2) with
      | some t2 => s.framesOf2 t2
      | none => [])).flatten

/-- What the Seams remember of a context's SCATADD rows (R358): die, source and dispatch, epoch, applied indices. -/
def State.dedupOf (s : State) (asid : Nat) : List (Nat × Nat × Nat × List Nat) :=
  (s.seams.map (fun e => e.2.dedup.filterMap (fun t => (t.2.find? asid).map (fun x => (e.1, t.1, x.1, x.2))))).flatten

/-- A core with nothing but what a set of launches has on it. -/
def Core.only (c : Core) (ls : List Nat) : Core :=
  { Core.atReset with
    darners := c.darners.filter (fun e => ls.contains e.1)
    channels := c.channels.filter (fun e => ls.contains e.1)
    templates := c.templates.filter (fun e => ls.contains e.1)
    pressSaved := c.pressSaved.filter (fun e => ls.contains e.1) }

/-- A saved warp with the WAIT state of its lanes (R392): its registrations themselves are not copied. -/
def State.withWaits (s : State) (v : SavedWarp) : SavedWarp :=
  let toks := (v.warp.run :: v.warp.help).map WarpCore.token
  { v with waits := s.regs.filter (fun e => match e.2.owner with
    | .warp _ token => toks.contains token
    | .darner _ token _ => toks.contains token
    | _ => false) }

/-- The CP record of a context in its save region (R392, Table 24-3): a graph state of 256 bytes for each graph, in a layout that the manual leaves open (log 12). -/
def State.saveCp (s : State) (asid : Nat) (c : Context) : State :=
  s.saveBytes asid ((c.rcd.save + 0x3DE000000) % 2 ^ 64) (256 * (s.graphs.filter (fun e => decide (e.2.asid = asid))).length)

/-- The parts of some ranges that lie in frames. -/
def rangesIn (fs : List (Nat × Nat × Nat)) (l : List (Nat × Nat)) : List (Nat × Nat) :=
  ((fs.map (fun f => l.map (fun r => (max r.1 f.1, min r.2 (f.1 + f.2.1))))).flatten).filter (fun r => decide (r.1 < r.2))

/-- Physical base of the member's snapshot store on its buddy, as the member list of its job gives it (R360); 0 without one. -/
def storeBase (jobs : List FabricJob) (asid modId : Nat) : Nat :=
  match (jobs.find? (fun j => decide (j.asid = asid))).bind (fun j => j.members.find? (fun e => decide (e.1 = modId))) with
  | some e => e.2.2
  | none => 0

/-- The snapshot of a context that has left every core (R392): frames are read under the context's owner keys; undefined contents stay undefined, and dropped bytes are zero bits (R4, R183). -/
def State.takeSnapshot (s : State) (asid gen : Nat) (c : Context) : Snapshot :=
  let fs := s.framesOf asid
  let launches := s.launches.filter (fun e => decide (e.2.asid = asid))
  let ls := launches.map (·.1)
  let mine (k : Nat) : Option Nat := (fs.find? (fun f => decide (f.1 ≤ k) && decide (k < f.1 + f.2.1))).map (·.2.2)
  let savedBank (k : Nat) : Bool := decide (savedBase ≤ k) && ls.any (fun l => decide ((k - savedBase) / 2 ^ 20 / 384 = l))
  { modId := s.boot.modId, asid := asid, gen := gen, record := s.recordOf asid, root := natOfBytes (s.mem.bytes (s.fw.rootArray + 8 * asid) 8), store := storeBase s.jobs asid s.boot.modId, frames := fs,
    mem := s.mem.filterMap (fun e =>
      if s.poison.contains e.1 then none
      else if savedBank e.1 then some e
      else
        match mine e.1 with
        | some okey => some (e.1, if okey = plainTag then e.2 else s.underKey okey e.1 e.2)
        | none => none),
    undef := rangesIn fs (s.undef ++ s.mixed.map (fun f => (f * 2 ^ 18, (f + 1) * 2 ^ 18))),
    ctx := { c with suspended := false, queues := c.queues.map (fun q => (q.1, { q.2 with reg := none })) },
    saved := (s.saved.filter (fun v => ls.contains v.warp.run.launch)).map s.withWaits, bcus := s.bcus.filter (fun b => ls.contains b.launch),
    graphs := s.graphs.filter (fun e => decide (e.2.asid = asid)), launches := launches, cores := s.cores.map (fun e => (e.1, e.2.only ls)),
    bankSaves := s.bankSaves.filter (fun x => ls.contains x.launch), widens := s.widens.filter (fun e => ls.contains e.2.launch),
    gathers := s.gathers.filter (fun e => ls.contains e.2.launch), keyeds := s.keyeds.filter (fun e => ls.contains e.2.launch),
    jobs := s.jobs.filter (fun j => decide (j.asid = asid)), dedup := s.dedupOf asid }

/-- The context has no Seam or Hamper command outstanding (R392). -/
def State.fabricQuiet (s : State) (asid : Nat) : Bool :=
  !s.seams.any (fun e => e.2.cmds.any (fun c => decide ((s.launch c.launch).asid = asid))) && !s.stagings.any (fun g => decide (g.asid = asid))

/-- A snapshot that is being taken goes on (R392), with what SMC 6 answers when it ends: an error when its context is gone or ends by a save fault; nothing while the context has not left; else the snapshot is kept, the earlier one before it stays, and the context may run again. -/
def State.trySnapshot (s : State) (asid gen : Nat) : State × Option Word :=
  match s.ctxs.find? asid with
  | none => (s, some smcError)
  | some c =>
    if c.ended then (s, some smcError)
    else if s.hasLeft asid && s.fabricQuiet asid then
      let s := s.saveCp asid c
      if (match s.ctxs.find? asid with | some c => c.ended | none => true) then (s, some smcError)
      else
        let s := s.callRecord asid
        let x := s.takeSnapshot asid gen c
        let same (y : Snapshot) : Bool := decide (y.asid = asid) && decide (y.modId = x.modId)
        ({ s with snapshots := x :: (s.snapshots.filter same).take 1 ++ s.snapshots.filter (fun y => !same y) }.resumeContext asid false, some 0)
    else (s, none)

/-- SMC 6 (R392): the member context is suspended, and the issuing lanes wait for its snapshot. Log 45. -/
def execSmcSnapshot (r : RArgs) (s : State) : Host.Outcome State Fault Refusal :=
  onWarp (.smcSnapshot r) s fun c w => s.orCancel c w fun s c =>
    let asid := (s.smcArg c w 0).toNat
    let gen := (s.smcArg c w 1).toNat
    let t := Wait.mk' (.snapshot asid gen) none (w.resolve 0) false
    let denied := decide (s.asidOf w ≠ 0)
    let member := (s.ctxs.find? asid).isSome && s.jobs.any (fun j => decide (j.asid = asid))
    let s := { s.startWait c c.lanes false t with cur := none }
    if denied then s.finishWait c.wid c.lanes t smcDenied.toNat
    else if !member then s.finishWait c.wid c.lanes t smcError.toNat
    else s.suspendContext asid

/-- The bytes of a snapshot's frames take their places again, under the owner keys of its leaves; what was undefined there before is written, and what the snapshot left undefined is undefined (R4, R392). -/
def State.loadFrames (s : State) (x : Snapshot) : State :=
  let inside (k : Nat) : Bool := x.frames.any (fun f => decide (f.1 ≤ k) && decide (k < f.1 + f.2.1))
  let root := s.fw.rootArray + 8 * x.asid
  let rcd := s.fw.ctxTable + 64 * x.asid
  let kept := Memory.write (Memory.write (s.mem.filter (fun (e : Nat × Byte) => !inside e.1)) root (bytesOfNat 8 x.root)) rcd (bytesOfNat 64 x.record)
  { s with
    mem := x.mem.foldl (fun m e => Map.set 0 m e.1 e.2) kept
    hist := s.hist.filter (fun h => !inside h.key && decide (h.key / 64 ≠ rcd / 64) && decide (h.key / 8 ≠ root / 8))
    byteKeys := x.frames.map (fun f => (f.1, f.1 + f.2.1, if f.2.2 = plainTag then 0 else s.keyTag f.2.2)) ++ s.byteKeys
    undef := x.undef ++ x.frames.foldl (fun l f => cutRanges f.1 (f.1 + f.2.1) l) (cutRanges root (root + 8) (cutRanges rcd (rcd + 64) s.undef))
    poison := s.poison.filter (fun k => !inside k && !(decide (root ≤ k) && decide (k < root + 8)) && !(decide (rcd ≤ k) && decide (k < rcd + 64)))
    tlb := s.tlb.filter (fun e => decide (e.asid ≠ x.asid))
    tlbinvs := (x.asid, 0, 2 ^ 57, s.seq) :: s.tlbinvs }

/-- Put the entries of one table into another. -/
def Table.merge {α : Type} (t u : Table α) : Table α := u.foldl (fun t e => t.insert e.1 e.2) t

/-- What a snapshot's launches have on a core, added to the core. -/
def Core.add (c d : Core) : Core :=
  { c with darners := c.darners.merge d.darners, channels := c.channels.merge d.channels, templates := c.templates.merge d.templates, pressSaved := c.pressSaved.merge d.pressSaved }

/-- A context that a module takes from a snapshot: created here (R364), its publications all done. -/
def Context.moved (c : Context) (s : State) : Context :=
  { c with born := s.nextBorn, tableSeen := s.seq, swaps := [], rearm := true }

/-- A graph resumes at its recorded node (R392): a WAITMEM waits anew. -/
def GraphRun.moved (r : GraphRun) (s : State) : GraphRun :=
  { r with since := s.free, phase := match r.phase with
      | .wait none => .atNode
      | .copy left _ => .copy left s.seq
      | p => p }

/-- A bank command whose rows go on here. -/
def BcuCmd.moved (c : BcuCmd) (s : State) : BcuCmd := { c with since := s.seq, fresh := s.seq, floors := [] }

/-- The module takes a snapshot's context, and the failed module's id and routes (R362, R392): its waits register again at the restore (R397). -/
def State.loadSnapshot (s : State) (x : Snapshot) : State :=
  let s := s.loadFrames x
  let s := x.cores.foldl (fun (s : State) (e : Nat × Core) => s.modCore e.1 (fun c => c.add e.2)) s
  let s := x.dedup.foldl (fun (s : State) (e : Nat × Nat × Nat × List Nat) => s.modSeam e.1 (fun m => { m with
    dedup := m.dedup.insert e.2.1 (((m.dedup.find? e.2.1).getD []).insert x.asid (e.2.2.1, e.2.2.2)) })) s
  { s with
    boot := { s.boot with modId := x.modId }
    isolated := s.isolated.filter (fun m => decide (m ≠ x.modId))
    jobs := x.jobs ++ s.jobs.filter (fun j => decide (j.asid ≠ x.asid))
    ctxs := s.ctxs.insert x.asid (x.ctx.moved s)
    saved := s.saved ++ x.saved
    bcus := s.bcus ++ x.bcus.map (fun b => b.moved s)
    graphs := s.graphs.merge (x.graphs.map (fun e => (e.1, e.2.moved s)))
    launches := s.launches.merge x.launches
    bankSaves := s.bankSaves ++ x.bankSaves
    widens := s.widens.merge x.widens
    gathers := s.gathers.merge x.gathers
    keyeds := s.keyeds.merge x.keyeds }

/-- No number of the snapshot is in use here. -/
def State.clearFor (s : State) (x : Snapshot) : Bool :=
  (s.ctxs.find? x.asid).isNone && x.launches.all (fun e => (s.launches.find? e.1).isNone) && x.graphs.all (fun e => (s.graphs.find? e.1).isNone) &&
    x.widens.all (fun e => (s.widens.find? e.1).isNone) &&
    x.gathers.all (fun e => (s.gathers.find? e.1).isNone) && x.keyeds.all (fun e => (s.keyeds.find? e.1).isNone)

/-- SMC 8 (R392): the latest complete snapshot of a member in the store that v2:v3 names is loaded. Log 45. -/
def execSmcLoadSnapshot (r : RArgs) (s : State) : Host.Outcome State Fault Refusal :=
  smc (.smcLoadSnapshot r) s fun s c w =>
    let asid := (s.smcArg c w 0).toNat
    let modId := (s.smcArg c w 1).toNat
    if s.asidOf w ≠ 0 then (s, [smcDenied])
    else
      match s.snapshots.find? (fun x => decide (x.asid = asid) && decide (x.modId = modId) && decide (x.store = s.smcPair c w 2)) with
      | none => (s, [smcError])
      | some x => if s.clearFor x then (s.loadSnapshot x, [0]) else (s, [smcError])

end Sys2Proof.Machine
end

