-- ==== Sys2Proof/Machine/Boot.lean ====
section
/-! DEFINITION. What comes from outside the cores: reset and bring-up (R409, R412), power states (R412), the host's reads and writes (R361), and the end of a pipe's interval (R135). -/

namespace Sys2Proof.Machine

/-- The last stage of bring-up: ready (Table 25-7). -/
def readyStage : Nat := 5

/-- MODULE_RESET (R409): every register as at reset, a barrier group's generation word among them (R236), and bring-up at its first stage; memory and time keep what they hold. Log 7, 44. -/
def execModuleReset (s : State) : Host.Outcome State Fault Refusal :=
  let s := s.resetGroups 0 1024
  .next { State.reset with
    turn := s.turn, free := s.free, ns := s.ns, clk := s.clk, fw := s.fw, snapshots := s.snapshots, images := s.images,
    mem := s.mem.filter (fun e => !isSpad e.1), byteKeys := s.byteKeys, keys := s.keys, keyRing := s.keyRing, poison := s.poison.filter (fun k => !isSpad k), undef := s.undef.filter (fun (r : Nat × Nat) => !isSpad r.1) }

/-- The power limit that a configuration record sets, in W: one below 2600 when it names one (R409, R412). Log 7. -/
def recordLimit (detail : Nat) : Nat :=
  let p := bits detail 24 13
  if 0 < p ∧ p < 2600 then p else 2600

/-- The stage that follows, and what it sets: stage 1 measures the firmware image, whose digest is its detail; the configuration record of stage 2 gives the module id, the power limit, the Xanlink routes and the reserved regions (R227, R409, R410, R412, Table 25-7). Log 7. -/
def Boot.advance (b : Boot) (detail : Nat) : Boot :=
  let n := b.stage + 1
  let b := { b with stage := n, ready := decide (n = readyStage) }
  if n = 1 then { b with firmware := BitVec.ofNat 512 detail }
  else if n = 2 then
    { b with
      record := Config.recordDigest detail, modId := detail % 2 ^ 13, limit := recordLimit detail
      routes := (Config.recordRoutes detail).foldl (fun (t : Table (List Nat)) (e : Nat × List Nat) => t.insert e.1 e.2) []
      reserved := Config.recordReserved detail }
  else b

/-- BRINGUP_STAGE (R412): the next stage in ascending order, or FAILED with its detail. Log 7. -/
def execBringupStage (ok : Bool) (detail : Nat) (s : State) : Host.Outcome State Fault Refusal :=
  .next (
    if s.boot.ready || s.boot.failed then s
    else if ok then { s with boot := s.boot.advance detail }
    else { s with boot := { s.boot with failed := true, err := detail % 256 } })

/-- POWER_STATE_CHANGE (R412): a state, its clock and the draw that SMC 5 reports. -/
def execPowerStateChange (state : PowerState) (mhz watts : Nat) (s : State) : Host.Outcome State Fault Refusal :=
  .next { s with boot := { s.boot with power := state, mhz := mhz % 2 ^ 32, watts := watts % 2 ^ 32 } }

/-- HOST_WRITE (R361, R412): a posted write takes its place at its home, published at .sys; before READY it is discarded. Log 7. -/
def execHostWrite (pa : Nat) (data : List Byte) (s : State) : Host.Outcome State Fault Refusal :=
  .next (
    if s.boot.ready && populated pa && populated (pa + data.length - 1) then s.homeWrite { wid := none, core := none, host := true } .sys none 0 pa data else s)

/-- A word of the identity block (Table 25-7). Log 46. -/
def Boot.identity (b : Boot) (off : Nat) : Nat :=
  match off with
  | 0 => 0x09601E7A
  | 4 => 0xB1
  | 8 => (if b.ready then 2 ^ 31 else 0) + (if b.failed then 2 ^ 30 else 0) + b.err % 256 * 2 ^ 16 + b.stage
  | 12 => if 2 ≤ b.stage then b.modId % 2 ^ 13 else 0
  | _ => 0

/-- The host reads a word of module memory: what is published to it at .sys (R203, R205, R361). Whether the home publishes an earlier write at .sys for the read is free. Log 46. -/
def State.hostMemory (s : State) (k : Nat) : State × Word :=
  let s := s.touch .sys k 4
  let s := if s.pick [48, k] 2 = 0 then s.recall .sys k 4 else s
  (s, BitVec.ofNat 32 (natOfBytes (s.engineBytes .sys { at_ := s.seq, fresh := 0, token := none } [48] 0 k 4)))

/-- What a host read of a word returns (R412): the word BOOTSTAT at offset 8 of BAR 0 at once; before READY all else reads all ones. A BAR 0 address is told from a memory address by bit 63. Log 46. -/
def State.hostWord (s : State) (addr : Nat) : State × Word :=
  if addr / 2 ^ 63 = 0 then
    (s, if addr < 4096 ∧ (s.boot.ready ∨ addr / 4 = 2) then BitVec.ofNat 32 (s.boot.identity (addr / 4 * 4)) else 0xFFFFFFFF)
  else if !s.boot.ready then (s, 0xFFFFFFFF)
  else s.hostMemory (addr % 2 ^ 63)

/-- HOST_READ (R361, R412). Log 46. -/
def execHostRead (addr : Nat) (s : State) : Host.Outcome State Fault Refusal :=
  .next (
    let (s, v) := s.hostWord addr
    { s with boot := { s.boot with hostRead := v } })

/-- PIPE_INTERVAL_END (R135): intervals of a quarter's pipe that have run out are forgotten. Log 31. -/
def execPipeIntervalEnd (core quarter : Nat) (pipe : Pipe) (s : State) : Host.Outcome State Fault Refusal :=
  .next (if core < 384 then s.modCore core (fun c => { c with
    pipes := c.pipes.filter (fun h => !(decide (h.1 = quarter) && decide (h.2.1 = pipe) && decide (h.2.2 ≤ s.clk))) }) else s)

end Sys2Proof.Machine
end

