-- ==== Sys2Proof/Machine/Control.lean ====
section
/-! DEFINITION. KWAIT, calls and returns, EXIT (R147, R153 to R157), over the operations of Calls. Each evaluates the calls of the module anew at its end (R94, R98, R157). -/

namespace Sys2Proof.Machine

/-- KWAIT (R147): lanes in the mask park, the others fall through. -/
def execKwait (k : KArgs) (s : State) : Host.Outcome State Fault Refusal :=
  onWarp (.kwait k) s fun c w =>
    let n := k.kd.toNat
    let park := c.lanes &&& w.mask n
    let s := s.modRun c.wid fun v =>
      let v := if park = 0 then v else v.drainRegs
      (v.place (c.lanes &&& ~~~park) c.prio c.next .ready).place park c.prio c.next (.kwait n)
    (s.concludePlaced c []).settleCalls

/-- EXIT (R138, R157). -/
def execExit (r : RArgs) (s : State) : Host.Outcome State Fault Refusal :=
  onWarp (.exit r) s fun c w => s.orCancelIf c w (fun _ => decide (w.live &&& ~~~c.lanes = 0)) fun s c =>
    let s := { s.modRun c.wid WarpCore.drainRegs with cur := none }
    (s.exitLanes c.wid c.lanes).settleCalls

/-! ### Headers (R52, R82, R83) -/

/-- A function header (Table 3-7). -/
structure Header where
  rule : Nat
  size : Nat
  nargs : Nat
  nres : Nat
  redop : Nat
  scope : Nat
  deriving DecidableEq, Repr

/-- Fields of a header word. -/
def headerOf (h : Nat) : Header :=
  { rule := bits h 27 26, size := bits h 25 16, nargs := bits h 15 12, nres := bits h 11 8, redop := bits h 7 4, scope := bits h 3 2 }

/-- BAD_CALLEE subcodes 1 and 2 of a header word (R52, Table 5-3). -/
def headerFault (h : Nat) : Option Nat :=
  let x := headerOf h
  let ok :=
    if x.rule = 0 then decide (x.size = 0) && decide (x.redop = 0) && decide (x.scope = 0)
    else if x.rule = 1 then decide (1 ≤ x.size) && decide (x.size ≤ 10) && decide (x.redop ≤ 13) && decide (x.scope = 0)
    else if x.rule = 2 then decide (x.size ≤ 255) && decide (x.redop = 0) && decide (x.scope ≤ 1)
    else decide (x.size ≤ 12) && decide (x.redop = 0) && (decide (x.scope = 1) || decide (x.scope = 2))
  if bits h 31 28 ≠ 15 then some 1 else if ok && decide (bits h 1 0 = 0) then none else some 2

/-- A BAD_CALLEE trap (Tables 5-3, 24-9). -/
def badCallee (sub entry : Nat) : Trap := { cause := .badCallee, subcode := sub, faddr := entry }

/-- Check one lane's call (R52, R82, R83, R153, R154): its entry and header, or its trap. -/
def State.checkCall (s : State) (c : Issue) (w : WarpCore) (d : Nat) (keyed : Bool) (e : Nat) (bOk : Bool) : State × Except Trap (Nat × Header) :=
  if e % 4 ≠ 0 then (s, .error (trapAt .align e))
  else
    match s.fetchWord w ((e + 2 ^ 57 - 4) % 2 ^ 57) with
    | (s, .error (t, drop)) =>
      (if drop then (s.modRun c.wid (fun w => { w with drop := true })).count (dieOf w.core) 4 1 else s, .error t)
    | (s, .ok h) =>
      let x := headerOf h
      match headerFault h with
      | some n => (s, .error (badCallee n e))
      | none =>
        if decide (x.rule = 3) != keyed then (s, .error (badCallee 3 e))
        else if x.rule = 0 then (s, .ok (e, x))
        else
          let run := max x.nargs x.nres
          if 96 ≤ d ∨ 96 < d + run ∨ !bOk then (s, .error (badCallee 4 e))
          else if 0 < run ∧ w.alloc < w.wbase + d + run then (s, .error (trapOf .window 0))
          else (s, .ok (e, x))

/-- Faults of an instruction in ascending lane order. -/
def insertFault (f : Nat × Trap) : List (Nat × Trap) → List (Nat × Trap)
  | [] => [f]
  | x :: r => if f.1 ≤ x.1 then f :: x :: r else x :: insertFault f r

/-- Sort faults by lane. -/
def sortFaults (l : List (Nat × Trap)) : List (Nat × Trap) := l.foldl (fun a f => insertFault f a) []

/-! ### Same (R86) -/

/-- One lane calls a same function: its record, its frame, and the entry at priority 0. -/
def State.callSame (s : State) (c : Issue) (l entry : Nat) : State × Option Trap :=
  match s.warp? c.wid with
  | none => (s, none)
  | some w =>
    let ln := w.lane l
    let sp := ln.sp.toNat
    if sp < ln.floor + 16 then (s, some (trapAt .frameOverflow ((sp + 2 ^ 32 - 16) % 2 ^ 32)))
    else
      match s.callWrite w ((s.arenaOf w + sp - 16) % 2 ^ 64) (linkRecord .same c.prio c.next ln.sp ln.fp) with
      | (s, some t) => (s, some t)
      | (s, none) =>
        (s.modRun c.wid (fun v => (v.modLane l (fun x => { x with fp := ln.sp, sp := ln.sp - 16, entered := entry :: x.entered })).place (laneBit l) 0 entry .ready), none)

/-! ### Widen (R87, R88, R92) -/

/-- Every piece of several writes of a warp is written, or none when a page faults. -/
def State.callWrites (s : State) (w : WarpCore) (ws : List (Nat × List Byte)) : State × Option Trap :=
  let (s, bad) := ws.foldl (fun a x =>
    match a with
    | (s, some t) => (s, some t)
    | (s, none) => match s.runsAccess w .store x.1 x.2.length with
      | (s, .error t) => (s, some t)
      | (s, .ok _) => (s, none)) (s, none)
  match bad with
  | some t => (s, some t)
  | none => (ws.foldl (fun s x => (s.callWrite w x.1 x.2).1) s, none)

/-- One caller reserves and zeroes its result buffer, and its sub-lanes' records are written (R88). Log 29. -/
def State.reserveWiden (s : State) (c : Issue) (w : WarpCore) (x : Header) (serial : Bool) (l : Nat) : State × Option Trap :=
  let ln := w.lane l
  let sp := ln.sp.toNat
  let b := widenBuffer x.size x.nres
  if sp < b + ln.floor ∨ widenSlice x.size x.nres sp ln.floor serial < 16 then
    (s, some (trapAt .frameOverflow ((sp + 2 ^ 33 - b - 16) % 2 ^ 32)))
  else
    let arena := s.arenaOf w
    let recs := (List.range (if serial then 1 else 2 ^ x.size)).map fun j =>
      ((arena + (widenFrame x.size x.nres sp ln.floor serial j).1 - 16) % 2 ^ 64, linkRecord .widen c.prio c.next ln.sp ln.fp)
    s.callWrites w (((arena + sp - b) % 2 ^ 64, List.replicate b 0) :: recs)

/-- Lanes call a widen function: those that reserve their buffer park, and their callee warps wait to be placed (R87). Log 29. -/
def State.callWiden (s : State) (c : Issue) (w : WarpCore) (d entry : Nat) (x : Header) (ls : List Nat) (serial : Bool) : State × List (Nat × Trap) :=
  let (s, bad) := s.eachLane ls (fun s l => s.reserveWiden c w x serial l)
  let callers := (ls.filter (fun l => !(bad.any (fun f => decide (f.1 = l))))).map (fun l => (l, (w.lane l).sp.toNat, (w.lane l).floor))
  if callers.isEmpty then (s, bad)
  else
    let call : WidenCall :=
      { token := w.token, launch := w.launch, entry := entry, n := x.size, nargs := x.nargs, nres := x.nres, redop := x.redop, run := w.wbase + d,
        callers := callers
        waiting := (widenWarps callers.length x.size serial).zipIdx.map (fun e => (w.srng + BitVec.ofNat 32 (e.2 + 1), e.1))
        left := callers.length * 2 ^ x.size, alloc := w.alloc, w := w.w, trapvec := w.trapvec, serial := serial }
    let s := s.modRun c.wid (fun v => v.place (maskOf (callers.map (·.1))) c.prio c.next .callpark)
    ({ s with widens := s.widens.insert (s.widens.fresh 0) call }, bad)

/-! ### Gather and keyed (R93, R98) -/

/-- A lane that parks as a caller. -/
def callerOf (c : Issue) (w : WarpCore) (d l key off : Nat) : Caller :=
  { token := w.token, lane := l, run := w.wbase + d, key := key, off := off, at_ := c }

/-- Lanes call a gather function: they park in its open group (R93). -/
def State.callGather (s : State) (c : Issue) (w : WarpCore) (d entry : Nat) (x : Header) (ls : List Nat) : State :=
  let scope := if x.scope = 0 then some w.token else none
  let s := s.modRun c.wid (fun v => v.place (maskOf ls) c.prio c.next .callpark)
  let mine := ls.map (fun l => callerOf c w d l 0 0)
  match (s.gathers.filter (fun e => decide (e.2.entry = entry) && decide (e.2.launch = w.launch) && decide (e.2.core = w.core) &&
      decide (e.2.warp = scope) && !e.2.fired)).head? with
  | some (id, g) => { s with gathers := s.gathers.insert id { g with callers := mine.foldl (fun a y => insertCaller y a) g.callers } }
  | none =>
    let g : GatherGroup :=
        { entry := entry, launch := w.launch, core := w.core, warp := scope, size := x.size + 1, nargs := x.nargs, nres := x.nres,
          callers := mine.foldl (fun a y => insertCaller y a) [], fired := false, begun := false, host := none, frame := 0 }
    { s with gathers := s.gathers.insert (s.gathers.fresh 0) g }

/-- Lanes with their keys and offsets call a keyed function: they park in its open collection (R98). -/
def State.callKeyed (s : State) (c : Issue) (w : WarpCore) (d entry : Nat) (x : Header) (ls : List (Nat × Nat × Nat)) : State :=
  let core := if x.scope = 1 then some w.core else none
  let s := s.modRun c.wid (fun v => v.place (maskOf (ls.map (·.1))) c.prio c.next .callpark)
  let mine := ls.map (fun l => callerOf c w d l.1 l.2.1 l.2.2)
  match (s.keyeds.filter (fun e => decide (e.2.entry = entry) && decide (e.2.launch = w.launch) && decide (e.2.core = core) && !e.2.closed)).head? with
  | some (id, k) => { s with keyeds := s.keyeds.insert id { k with callers := mine.foldl (fun a y => insertCaller y a) k.callers } }
  | none =>
    let k : Keyed :=
        { entry := entry, launch := w.launch, core := core, keys := 2 ^ x.size, nargs := x.nargs, nres := x.nres,
          callers := mine.foldl (fun a y => insertCaller y a) [], closed := false, waiting := [], left := [], arrays := [] }
    { s with keyeds := s.keyeds.insert (s.keyeds.fresh 0) k }

/-- Check every active lane's call: faults, and the lanes that passed with their entry and header. -/
def State.checkCalls (s : State) (c : Issue) (w : WarpCore) (d : Nat) (keyed : Bool) (entry : Nat → Nat) (bOk : Bool) : State × List (Nat × Trap) × List (Nat × Nat × Header) :=
  (lanesOf c.lanes).foldl (fun a l =>
    match a.1.checkCall c w d keyed (entry l) bOk with
    | (s, .error t) => (s, a.2.1 ++ [(l, t)], a.2.2)
    | (s, .ok (e, x)) => (s, a.2.1, a.2.2 ++ [(l, e, x)])) (s, [], [])

/-- The lanes of one callee call it by its header's rule (R153): the state and the faults so far, and after. -/
def callGroup (c : Issue) (w : WarpCore) (d : Nat) (good : List (Nat × Nat × Header)) (a : State × List (Nat × Trap)) (g : Nat × Header) : State × List (Nat × Trap) :=
  let ls := (good.filter (fun e => decide (e.2 = g))).map (·.1)
  let (s, fs) := a
  let (entry, x) := g
  if x.rule = 0 then
    let (s, bad) := s.eachLane ls (fun s l => s.callSame c l entry)
    (s, fs ++ bad)
  else if x.rule = 1 then
    let (s, b1) := s.callWiden c w d entry x (ls.filter (fun l => decide ((w.lane l).depth < 4))) false
    let (s, b2) := s.callWiden c w d entry x (ls.filter (fun l => decide (4 ≤ (w.lane l).depth))) true
    (s, fs ++ b1 ++ b2)
  else (s.callGather c w d entry x ls, fs)

/-- Every callee's lanes, in the order of the callees' lowest lanes. -/
def State.callGroups (s : State) (c : Issue) (w : WarpCore) (d : Nat) (faults : List (Nat × Trap)) (good : List (Nat × Nat × Header)) : State × List (Nat × Trap) :=
  ((good.map (·.2)).eraseDups).foldl (callGroup c w d good) (s, faults)

/-- CALLW (R153): lanes grouped by their callee, each group by its header's rule. -/
def execCallw (r : RArgs) (s : State) : Host.Outcome State Fault Refusal :=
  onWarp (.callw r) s fun c w =>
    let s := s.modRun c.wid WarpCore.drainRegs
    let w := w.drainRegs
    let d := r.d.toNat
    let (s, faults, good) := s.checkCalls c w d false (fun l => (r.pairA s w l).toNat % 2 ^ 57) true
    let (s, faults) := s.callGroups c w d faults good
    (s.concludePlaced c (sortFaults faults)).settleCalls

/-- CALLK (R154): the key and the completion offset are read for each lane. -/
def execCallk (r : RArgs) (s : State) : Host.Outcome State Fault Refusal :=
  onWarp (.callk r) s fun c w =>
    let s := s.modRun c.wid WarpCore.drainRegs
    let w := w.drainRegs
    let d := r.d.toNat
    let (s, faults, good) := s.checkCalls c w d true (fun l => (r.pairA s w l).toNat % 2 ^ 57) (decide (r.b.toNat < 96))
    let key (l : Nat) : Nat := (r.vB s w l).toNat
    let bad := good.filter (fun e => decide (2 ^ e.2.2.size ≤ key e.1))
    let good := good.filter (fun e => decide (key e.1 < 2 ^ e.2.2.size))
    let faults := faults ++ bad.map (fun e => (e.1, badCallee 5 e.2.1))
    let s := ((good.map (·.2)).eraseDups).foldl (fun s g =>
      s.callKeyed c w d g.1 g.2 ((good.filter (fun e => decide (e.2 = g))).map (fun e => (e.1, key e.1, (r.vB1 s w e.1).toNat)))) s
    (s.concludePlaced c (sortFaults faults)).settleCalls

/-! ### Returns (R85, R91, R96, R100) -/

/-- Entry of the callee that a lane runs, the innermost (R417); a lane that returns from no callee has none, and the value is free. Log 29. -/
def State.calleeEntry (s : State) (ln : LaneState) : Nat :=
  match ln.entered with
  | e :: _ => e
  | [] => (s.freeBits [25] 57).toNat

/-- Read a lane's record and check its kind against the instruction, then its return address (R85). -/
def State.readRecord (s : State) (c : Issue) (l : Nat) (kinds : List Nat) : State × Except Trap (WarpCore × Link5) :=
  match s.warp? c.wid with
  | none => (s, .error (badCallee 6 0))
  | some w =>
    let ln := w.lane l
    let fp := ln.fp.toNat
    if fp < ln.floor + 16 then (s, .error (trapAt .frameOverflow ((fp + 2 ^ 32 - 16) % 2 ^ 32)))
    else
      match s.callRead c.wid w ((s.arenaOf w + fp - 16) % 2 ^ 64) 16 with
      | (s, .error t) => (s, .error t)
      | (s, .ok b) =>
        let k := readLink b
        let role := match k.kind, ln.role with
          | 0, _ => true
          | 1, .widen _ _ _ => true
          | 2, _ => !ln.hosts.isEmpty
          | 3, .keyed _ _ _ => true
          | _, _ => false
        if !kinds.contains k.kind || !role then (s, .error (badCallee 6 (s.calleeEntry ln)))
        else if k.rpc % 4 ≠ 0 then (s, .error (trapAt .align k.rpc))
        else (s, .ok (w, k))

/-- Result registers v0 to v(n − 1) of a lane. -/
def WarpCore.results (w : WarpCore) (l n : Nat) : List Word := (List.range n).map (fun r => w.held? l (w.resolve r))

/-- The bytes of words, lowest first. -/
def bytesOfWords (ws : List Word) : List Byte := (ws.map (fun x => bytesOfNat 4 x.toNat)).flatten

/-- A widen sub-lane's row (R91): written at its place in the caller's buffer. -/
def State.storeRow (s : State) (w : WarpCore) (l : Nat) (k : Link5) (call j : Nat) : State × Option Trap :=
  match s.widens.find? call with
  | none => (s, none)
  | some x =>
    if x.nres = 0 then (s, none)
    else s.callWrite w ((s.arenaOf w + 2 ^ 64 + k.csp.toNat - widenBuffer x.n x.nres + 4 * (j * x.nres)) % 2 ^ 64) (bytesOfWords (w.results l x.nres))

/-- A gather host returns (R96): rows of its array, or its own results for every caller, and all callers go on. Both forms read the array (R162). -/
def State.returnGather (s : State) (c : Issue) (w : WarpCore) (l : Nat) (k : Link5) (id : Nat) (broadcast : Bool) : State × Option Trap :=
  match s.gathers.find? id with
  | none => (s, none)
  | some g =>
    let (a, _, _) := g.sizes
    let fp := (w.lane l).fp.toNat
    let n := g.callers.length
    match s.callRead c.wid w ((s.arenaOf w + fp + 16 + a) % 2 ^ 64) (4 * n * g.nres) with
    | (s, .error t) => (s, some t)
    | (s, .ok b) =>
      let s := s.giveRows g (if broadcast then (List.replicate n (bytesOfWords (w.results l g.nres))).flatten else b)
      let s := s.modRun c.wid (fun v =>
        (v.modLane l (fun x => { x with fp := k.cfp, sp := k.csp, hosts := x.hosts.drop 1, entered := x.entered.drop 1 })).place (laneBit l) k.prio k.rpc .ready)
      (s.releaseGather id g (some (w.token, l)), none)

/-- One lane of RETW or RETW.B (R155): the lanes that end as sub-lanes are left to the caller of this. -/
def State.returnLane (s : State) (c : Issue) (broadcast : Bool) (l : Nat) : State × Option Trap × Bool :=
  match s.readRecord c l (if broadcast then [2] else [0, 1, 2]) with
  | (s, .error t) => (s, some t, false)
  | (s, .ok (w, k)) =>
    match k.kind, (w.lane l).role, (w.lane l).hosts with
    | 1, .widen call _ j, _ =>
      match s.storeRow w l k call j with
      | (s, some t) => (s, some t, false)
      | (s, none) => (s, none, true)
    | 2, _, id :: _ =>
      let (s, t) := s.returnGather c w l k id broadcast
      (s, t, false)
    | _, _, _ =>
      (s.modRun c.wid (fun v => (v.modLane l (fun x => { x with fp := k.cfp, sp := k.csp, entered := x.entered.drop 1 })).place (laneBit l) k.prio k.rpc .ready), none, false)

/-- Lanes return in ascending order (R155): the faults, and the lanes that end as sub-lanes. -/
def State.returnLanes (s : State) (c : Issue) (broadcast : Bool) (ls : List Nat) : State × List (Nat × Trap) × List Nat :=
  ls.foldl (fun a l =>
    match a.1.returnLane c broadcast l with
    | (s, some t, _) => (s, a.2.1 ++ [(l, t)], a.2.2)
    | (s, none, true) => (s, a.2.1, a.2.2 ++ [l])
    | (s, none, false) => (s, a.2)) (s, [], [])

/-- A lane's return is a boundary (R91, R96, Table 11-2): it ends a sub-lane or a gather callee. -/
def State.returnsWide (s : State) (c : Issue) (broadcast : Bool) (l : Nat) : Bool :=
  match (s.readRecord c l (if broadcast then [2] else [0, 1, 2])).2 with
  | .ok (_, k) => decide (k.kind ≠ 0)
  | .error _ => false

/-- RETW and RETW.B over the active lanes; sub-lanes that returned end as if by EXIT, after a boundary at core scope (R91, Table 11-2). -/
def returnW (i : Instr) (broadcast : Bool) (s : State) : Host.Outcome State Fault Refusal :=
  onWarp i s fun c w => s.orCancelIf c w (fun l => s.returnsWide c broadcast l) fun s c =>
    let s := s.modRun c.wid WarpCore.drainRegs
    let (s, faults, ended) := s.returnLanes c broadcast (lanesOf c.lanes)
    let s := if ended.isEmpty then s else s.boundary c.wid .core false
    let s := if ended.isEmpty then s else s.exitLanes c.wid (maskOf ended)
    (s.concludePlaced c faults).settleCalls

/-- RETW (R155). -/
def execRetw (r : RArgs) (s : State) : Host.Outcome State Fault Refusal := returnW (.retw r) false s

/-- RETW.B (R96, R155). -/
def execRetwB (r : RArgs) (s : State) : Host.Outcome State Fault Refusal := returnW (.retwB r) true s

/-- One lane of RETK (R100): its results go to its origin. -/
def State.returnKeyed (s : State) (c : Issue) (l : Nat) : State × Option Trap :=
  match s.readRecord c l [3] with
  | (s, .error t) => (s, some t)
  | (s, .ok (w, _)) =>
    match (w.lane l).role with
    | .keyed coll origin ol =>
      match s.keyeds.find? coll with
      | none => (s, none)
      | some k =>
        match k.callers.find? (fun x => decide (x.token = origin) && decide (x.lane = ol)) with
        | none => (s, none)
        | some o =>
          (s.modTok origin (fun v => (w.results l k.nres).zipIdx.foldl (fun v e => v.putLoc ol (.thread (o.run + e.2)) e.1) v), none)
    | _ => (s, none)

/-- Scope of the boundary that RETK makes in some lanes: the widest of their collections' (Table 11-2). -/
def State.retkScope (s : State) (w : WarpCore) (ls : List Nat) : Scope :=
  if ls.any (fun l => match (w.lane l).role with
    | .keyed coll _ _ => (match s.keyeds.find? coll with | some k => decide (k.scope = .dev) | none => false)
    | _ => false) then .dev else .core

/-- RETK (R100, R156): results move, the lanes end, their origins are released. -/
def execRetk (r : RArgs) (s : State) : Host.Outcome State Fault Refusal :=
  onWarp (.retk r) s fun c w => s.orCancel c w fun s c =>
    let s := s.modRun c.wid WarpCore.drainRegs
    let (s, faults) := s.eachLane (lanesOf c.lanes) (fun s l => s.returnKeyed c l)
    let ended := (lanesOf c.lanes).filter (fun l => !(faults.any (fun f => decide (f.1 = l))))
    let s := if ended.isEmpty then s else s.boundary c.wid (s.retkScope w ended) false
    let s := if ended.isEmpty then s else s.exitLanes c.wid (maskOf ended)
    (s.concludePlaced c faults).settleCalls

end Sys2Proof.Machine
end

