-- ==== Sys2Proof/Machine/Float.lean ====
section
/-! DEFINITION. FP32 and FP64 arithmetic and the single-operand functions (R119 to R127): MAJ 0x08 to 0x0A. -/

namespace Sys2Proof.Machine

/-- A result and flags as a word. -/
def wordRes (x : Nat × Flags) : Word × Flags := (BitVec.ofNat 32 x.1, x.2)

/-- A result and flags as a double word. -/
def dwordRes (x : Nat × Flags) : DWord × Flags := (BitVec.ofNat 64 x.1, x.2)

/-- An FP32 instruction: old destination and two sources (R103, R119). -/
def floatR (i : Instr) (r : RArgs) (s : State) (f : Word → Word → Word → Word × Flags) : Host.Outcome State Fault Refusal :=
  onWarp i s fun c w => s.perLane c r.d fun l => f (r.vD s w l) (r.vA s w l) (r.vB s w l)

/-- An FP64 instruction on pairs (R127). -/
def doubleR (i : Instr) (r : RArgs) (s : State) (f : DWord → DWord → DWord → DWord × Flags) : Host.Outcome State Fault Refusal :=
  onWarp i s fun c w => s.perLanePair c r.d fun l => f (r.pairD s w l) (r.pairA s w l) (r.pairB s w l)

/-- FADD (R119). -/
def execFadd (r : RArgs) (s : State) : Host.Outcome State Fault Refusal :=
  floatR (.fadd r) r s fun _ a b => wordRes (f32.addOp r.mode a.toNat b.toNat)
/-- FSUB (R119). -/
def execFsub (r : RArgs) (s : State) : Host.Outcome State Fault Refusal :=
  floatR (.fsub r) r s fun _ a b => wordRes (f32.subOp r.mode a.toNat b.toNat)
/-- FMUL (R119). -/
def execFmul (r : RArgs) (s : State) : Host.Outcome State Fault Refusal :=
  floatR (.fmul r) r s fun _ a b => wordRes (f32.mulOp r.mode a.toNat b.toNat)
/-- FFMA (R119). -/
def execFfma (r : RArgs) (s : State) : Host.Outcome State Fault Refusal :=
  floatR (.ffma r) r s fun d a b => wordRes (f32.fmaOp r.mode a.toNat b.toNat d.toNat)
/-- FMIN (R121). -/
def execFmin (r : RArgs) (s : State) : Host.Outcome State Fault Refusal := floatR (.fmin r) r s fun _ a b => (fminmax false a b, 0)
/-- FMAX (R121). -/
def execFmax (r : RArgs) (s : State) : Host.Outcome State Fault Refusal := floatR (.fmax r) r s fun _ a b => (fminmax true a b, 0)

/-- A condition of FCMP on two values, and INVALID for an ordered one that meets a NaN (Table 6-3). -/
def fcmpHolds (cond : Nat) (a b : FVal) : Bool × Flags :=
  match a.compare? b with
  | some o =>
    (match cond with
     | 0 => decide (o = .eq)
     | 1 => decide (o ≠ .eq)
     | 2 => decide (o = .lt)
     | 3 => decide (o ≠ .gt)
     | 4 => decide (o = .gt)
     | 5 => decide (o ≠ .lt)
     | 6 => false
     | _ => true, 0)
  | none => (decide (cond = 1) || decide (cond = 6), flagIf (decide (2 ≤ cond) && decide (cond ≤ 5)) Flags.invalid)

/-- FCMP (R122): FP32 registers, or FP64 pairs when fmtA is 0x04. -/
def execFcmp (r : RArgs) (s : State) : Host.Outcome State Fault Refusal :=
  onWarp (.fcmp r) s fun c w => s.perLane c r.d fun l =>
    let (b, f) :=
      if fmtA r.px = 4 then fcmpHolds (sub r.px) (f64.decode (r.pairA s w l).toNat) (f64.decode (r.pairB s w l).toNat)
      else fcmpHolds (sub r.px) (f32Val (r.vA s w l)) (f32Val (r.vB s w l))
    (if b then 1 else 0, f)

/-- FSEL (R123). -/
def execFsel (r : RArgs) (s : State) : Host.Outcome State Fault Refusal := floatR (.fsel r) r s fun d a b => (if d = 0 then b else a, 0)

/-- The integral value that a mode gives (R124); SAT acts as RNE. -/
def roundIntegral (mode : Nat) (x : Word) : Word :=
  match f32Val x with
  | .nan => nan32
  | .inf _ => x
  | .fin neg m e =>
    if m = 0 ∨ 0 ≤ e then x
    else
      let (k, half) := splitAt m e 0
      let k := if roundUp mode neg (decide (k % 2 = 1)) half then k + 1 else k
      BitVec.ofNat 32 (f32.roundTo 0 (.fin neg k 0) 0).code

/-- FRND (R124). -/
def execFrnd (r : RArgs) (s : State) : Host.Outcome State Fault Refusal := floatR (.frnd r) r s fun _ a _ => (roundIntegral r.mode a, 0)

/-- The one-hot class of an IEEE element (Table 6-4). -/
def classOf (f : FloatFmt) (raw : Nat) : Word :=
  let h := 2 ^ (f.sig - 1)
  let sgn := bit raw (f.width - 1)
  let e := raw / h % 2 ^ f.expBits
  let fr := raw % h
  if e = 2 ^ f.expBits - 1 then
    if fr = 0 then (if sgn then 0x001 else 0x080) else if h / 2 ≤ fr then 0x200 else 0x100
  else if e = 0 then
    if fr = 0 then (if sgn then 0x008 else 0x010) else (if sgn then 0x004 else 0x020)
  else if sgn then 0x002 else 0x040

/-- FCLASS (R125): fmtA names the format. -/
def execFclass (r : RArgs) (s : State) : Host.Outcome State Fault Refusal :=
  onWarp (.fclass r) s fun c w => s.perLane c r.d fun l =>
    let x :=
      if fmtA r.px = 2 then classOf f16 ((r.vA s w l).toNat % 65536)
      else if fmtA r.px = 3 then classOf bf16 ((r.vA s w l).toNat % 65536)
      else if fmtA r.px = 4 then classOf f64 (r.pairA s w l).toNat
      else classOf f32 (r.vA s w l).toNat
    (x, 0)

/-- FRCP (R126). -/
def execFrcp (r : RArgs) (s : State) : Host.Outcome State Fault Refusal := floatR (.frcp r) r s fun _ a _ => func32 0 r.mode a
/-- FRSQ (R126). -/
def execFrsq (r : RArgs) (s : State) : Host.Outcome State Fault Refusal := floatR (.frsq r) r s fun _ a _ => func32 1 0 a
/-- FSQRT (R126). -/
def execFsqrt (r : RArgs) (s : State) : Host.Outcome State Fault Refusal := floatR (.fsqrt r) r s fun _ a _ => func32 2 r.mode a
/-- FEX2 (R126). -/
def execFex2 (r : RArgs) (s : State) : Host.Outcome State Fault Refusal := floatR (.fex2 r) r s fun _ a _ => func32 3 0 a
/-- FLG2 (R126). -/
def execFlg2 (r : RArgs) (s : State) : Host.Outcome State Fault Refusal := floatR (.flg2 r) r s fun _ a _ => func32 4 0 a
/-- FSIN (R126). -/
def execFsin (r : RArgs) (s : State) : Host.Outcome State Fault Refusal := floatR (.fsin r) r s fun _ a _ => func32 5 0 a
/-- FCOS (R126). -/
def execFcos (r : RArgs) (s : State) : Host.Outcome State Fault Refusal := floatR (.fcos r) r s fun _ a _ => func32 6 0 a

/-- DADD (R127). -/
def execDadd (r : RArgs) (s : State) : Host.Outcome State Fault Refusal :=
  doubleR (.dadd r) r s fun _ a b => dwordRes (f64.addOp r.mode a.toNat b.toNat)
/-- DMUL (R127). -/
def execDmul (r : RArgs) (s : State) : Host.Outcome State Fault Refusal :=
  doubleR (.dmul r) r s fun _ a b => dwordRes (f64.mulOp r.mode a.toNat b.toNat)
/-- DFMA (R127). -/
def execDfma (r : RArgs) (s : State) : Host.Outcome State Fault Refusal :=
  doubleR (.dfma r) r s fun d a b => dwordRes (f64.fmaOp r.mode a.toNat b.toNat d.toNat)

end Sys2Proof.Machine
end

