-- ==== Sys2Proof/Machine/Convert.lean ====
section
/-! DEFINITION. Conversion, block scales, narrow elements (R128 to R133): MAJ 0x10 but CMPSET. -/

namespace Sys2Proof.Machine

/-- Place a scalar element of a format in a register (Table 6-6). -/
def placeElem (f : ElemFmt) (code : Nat) : DWord :=
  match f with
  | .int true w => BitVec.ofInt 64 (signedOf w code) &&& 0xFFFFFFFF
  | _ => BitVec.ofNat 64 (code % 2 ^ f.width)

/-- The source bits of a scalar element (Table 6-6). -/
def RArgs.elemA (r : RArgs) (s : State) (w : WarpCore) (l code : Nat) : Nat :=
  if code = 4 then (s.rdPair w l r.a.toNat posA).toNat else (s.rd w l r.a.toNat posA).toNat

/-- Convert one element for each lane, each with its stream (R27, R129, R130): value of the lane, destination code, mode. -/
def State.convertLanes (s : State) (c : Issue) (w : WarpCore) (d : Reg) (dst mode : Nat) (x : Nat → FVal) : State :=
  match elemFmt dst with
  | none => s.conclude c []
  | some f =>
    let res := (lanesOf c.lanes).map (fun l => (l, f.encode mode (x l) (w.lane l).stream))
    let vals := res.map (fun e => (e.1, placeElem f e.2.code))
    let s := s.modRun c.wid (fun w =>
      let w := if dst = 4 then WarpCore.writeRun s w d.toNat (vals.map (fun e => (e.1, [loWord e.2, hiWord e.2])))
        else WarpCore.writeLanes s w (w.resolve d.toNat) (vals.map (fun e => (e.1, loWord e.2)))
      let w := res.foldl (fun w e => w.modLane e.1 (fun x => { x with stream := e.2.stream })) w
      w.raise (gatherFlags (res.map (fun e => e.2.flags))))
    s.conclude c []

/-- CVT (R129): fmtA to fmtB under the mode in sub. Log 18. -/
def execCvt (r : RArgs) (s : State) : Host.Outcome State Fault Refusal :=
  onWarp (.cvt r) s fun c w =>
    s.convertLanes c w r.d (fmtB r.px) (sub r.px) (fun l => decodeCode (fmtA r.px) (RArgs.elemA r s w l (fmtA r.px)))

/-- CVTN (R130): the source over its block scale. -/
def execCvtn (r : RArgs) (s : State) : Host.Outcome State Fault Refusal :=
  onWarp (.cvtn r) s fun c w =>
    let src := if fmtA r.px = 0 then 1 else fmtA r.px
    s.convertLanes c w r.d (fmtB r.px) (sub r.px) (fun l =>
      unscaledVal (decodeCode src (RArgs.elemA r s w l src)) ((r.vB s w l).toNat % 256))

/-- The largest magnitude of FP32 values (R31, R131). -/
def amaxOf (l : List Word) : Word :=
  if l.any isNan32 then nan32 else l.foldl (fun m x => fminmax true m (x &&& 0x7FFFFFFF)) 0

/-- AMAX (R131): within groups of 32, 16, 8 or 4 lanes. -/
def execAmax (r : RArgs) (s : State) : Host.Outcome State Fault Refusal :=
  onWarp (.amax r) s fun c w =>
    let n := 32 / 2 ^ sub r.px
    s.perLane c r.d fun l => (amaxOf (((lanesOf c.lanes).filter (fun k => decide (k / n = l / n))).map (fun k => r.vA s w k)), 0)

/-- SCALEQ (R132). -/
def execScaleq (r : RArgs) (s : State) : Host.Outcome State Fault Refusal :=
  onWarp (.scaleq r) s fun c w => s.perLane c r.d fun l =>
    match elemFmt (fmtB r.px) with
    | some f => wordRes (scaleCode f (f32Val (r.vA s w l &&& 0x7FFFFFFF)))
    | none => (0, 0)

/-- Element width of PACK and UNPACK (Table 6-7). -/
def packWidth (k : Nat) : Nat := if k % 4 = 0 then 8 else if k % 4 = 1 then 16 else 4

/-- PACK (R133). -/
def packW (k : Nat) (d a b : Word) : Word :=
  let n := packWidth k
  let e := b.toNat % (32 / n)
  let m : Word := BitVec.ofNat 32 ((2 ^ n - 1) * 2 ^ (n * e))
  (d &&& ~~~m) ||| ((a <<< (n * e)) &&& m)

/-- UNPACK (R133): sub[2] sign-extends. -/
def unpackW (k : Nat) (a b : Word) : Word :=
  let n := packWidth k
  let x := a.toNat / 2 ^ (n * (b.toNat % (32 / n))) % 2 ^ n
  if 4 ≤ k then BitVec.ofInt 32 (signedOf n x) else BitVec.ofNat 32 x

/-- PACK (R133). -/
def execPack (r : RArgs) (s : State) : Host.Outcome State Fault Refusal := floatR (.pack r) r s fun d a b => (packW (sub r.px) d a b, 0)
/-- UNPACK (R133). -/
def execUnpack (r : RArgs) (s : State) : Host.Outcome State Fault Refusal := floatR (.unpack r) r s fun _ a b => (unpackW (sub r.px) a b, 0)

end Sys2Proof.Machine
end

