-- ==== Sys2Proof/Machine/Futures.lean ====
section
/-! DEFINITION. Futures, helping, locks and queues (R257 to R266). FWAIT, LOCKW and QTAKE look at their word, and complete, help the task that will change it, or sleep on it; a wait that wakes looks again. -/

namespace Sys2Proof.Machine

/-! ### Accesses at issue (R251, R406) -/

/-- A wave's task instruction writes bytes at the home, as an atomic or with ST.sig semantics; one that the region table denies on arrival writes nothing and sets `ctl.drop`. A write into a Darner's area is as a store there (R246). -/
def State.waveWrite (s : State) (wid : Nat) (w : WarpCore) (atomic : Option Scope) (leaf : Leaf) (va pa : Nat) (data : List Byte) : State :=
  if s.regionAllows (s.warpWorld w) pa then
    ((s.fillSpan leaf pa data.length).homeWrite w.writer .dev atomic leaf.okey pa data).spoilDarner (s.asidOf w) va data.length
  else (s.modWarp wid (fun w => w.markDrop true)).count (homeDie pa) 3 1

/-- A look's access is allowed: at issue it faults as the wave's own and the home checks the region table when it arrives (R251, R406); a look of a wait that wakes is the Darner's access, which fails as a whole (R415). Log 30. -/
def State.lookAccess (s : State) (w : WarpCore) (issue : Bool) (acc : Acc) (va : Nat) : State × Except Trap (Leaf × Nat) :=
  match s.translate w.party (s.asidOf w) (s.warpWorld w) acc va with
  | (s, .error e) => (s, .error (e.trap acc va))
  | (s, .ok (leaf, pa)) => if issue || s.regionAllows (s.warpWorld w) pa then (s, .ok (leaf, pa)) else (s, .error (trapAt .world va))

/-- A look reads bytes at their home, as one value. -/
def State.lookRead (s : State) (w : WarpCore) (issue : Bool) (va n : Nat) : State × Except Trap Nat :=
  match s.lookAccess w issue .load va with
  | (s, .error t) => (s, .error t)
  | (s, .ok (leaf, pa)) =>
    let (s, b) := (s.fillSpan leaf pa n).readGlobal w.wid w true leaf va n
    (s, .ok (natOfBytes b))

/-- A look writes bytes at their home: an atomic at .dev, or a store. -/
def State.lookWrite (s : State) (w : WarpCore) (issue atomic : Bool) (va : Nat) (data : List Byte) : State × Option Trap :=
  match s.lookAccess w issue (if atomic then .atomic else .store) va with
  | (s, .error t) => (s, some t)
  | (s, .ok (leaf, pa)) => (s.waveWrite w.wid w (if atomic then some .dev else none) leaf va pa data, none)

/-- Record address in bits [56:5] of a double word. -/
def recordIn (v : Nat) : Nat := bits v 56 5 * 32

/-! ### Futures (R257, R258) -/

/-- STATE of a future's owner record is FAULTED, or the fault of reading it (R251, R257). -/
def State.ownerFaulted (s : State) (w : WarpCore) (owner : Nat) : State × Except Trap Bool :=
  if owner = 0 then (s, .ok false)
  else
    match s.lookRead w true (owner + 24) 8 with
    | (s, .error t) => (s, .error t)
    | (s, .ok v) => (s, .ok (decide (ctlState v = 5)))

/-- One lane of FSET (R258): its code. -/
def State.setFuture (s : State) (c : Issue) (w : WarpCore) (ea : Nat) (v : DWord) : State × Except Trap Nat :=
  match s.waveAccess w .atomic ea 16 with
  | (s, .error t) => (s, .error t)
  | (s, .ok (leaf, pa)) =>
    let s := s.publish c.wid .dev
    let (s, b) := (s.fillSpan leaf pa 16).readGlobal c.wid w true leaf ea 16
    let f := natOfBytes b
    let st := f % 4
    match (if st = 0 then s.ownerFaulted w (recordIn f) else (s, .ok false)) with
    | (s, .error t) => (s, .error t)
    | (s, .ok true) => (s.waveWrite c.wid w (some .dev) leaf ea pa (bytesOfNat 4 (f % 2 ^ 32 + 2)), .ok 3)
    | (s, .ok false) =>
      if st = 0 then (s.waveWrite c.wid w (some .dev) leaf ea pa (bytesOfNat 16 (f % 2 ^ 64 + 1 + v.toNat * 2 ^ 64)), .ok 0)
      else (s, .ok (if st = 1 then 1 else 3))

/-- FSET (R258). -/
def execFset (r : RArgs) (s : State) : Host.Outcome State Fault Refusal :=
  onWarp (.fset r) s fun c w =>
    let (s, faults, codes) := s.loadLanes (lanesOf c.lanes) (fun s l => s.setFuture c w (r.pairA s w l).toNat (r.pairB s w l))
    let s := s.modRun c.wid (fun v => WarpCore.writeLanes s v (w.resolve r.d.toNat) (codes.map (fun e => (e.1, BitVec.ofNat 32 e.2))))
    s.conclude c faults

/-! ### Looking (R259, R263, R266) -/

/-- What a look decides: the wait is done, a record was claimed and is to be helped, the lanes sleep on a word until a comparison holds, or an access of the look faults. `control`: the owner record watched as well. -/
inductive Look where
  | done (code : Nat) (val : DWord)
  | adopt (record control : Nat)
  | sleep (va cmp operand : Nat) (control : Option Nat)
  | fault (t : Trap)
  deriving DecidableEq, Repr

/-- Code of a look that succeeds: 1 when the wait slept or helped before. Log 30. -/
def lookCode (slept : Bool) : Nat := if slept then 1 else 0

/-- A look goes on from what it read, unless the read faults. -/
def lookFrom (x : State × Except Trap Nat) (f : State → Nat → State × Look) : State × Look :=
  match x with
  | (s, .error t) => (s, .fault t)
  | (s, .ok v) => f s v

/-- A look writes, and then goes on, unless the write faults. -/
def lookAfter (x : State × Option Trap) (f : State → State × Look) : State × Look :=
  match x with
  | (s, some t) => (s, .fault t)
  | (s, none) => f s

/-- A warp may help: below depth 8, in a launch with a Darner area (R259). DESIGN CHOICE (log 30): so it is for LOCKW and QTAKE too, of which R263 and R266 name the depth and the claim only. -/
def State.mayHelp (s : State) (w : WarpCore) : Bool := decide (w.depth < 8) && s.hasDarner w.launch

/-- FWAIT's loop, once (R259). Log 30. -/
def State.lookFuture (s : State) (w : WarpCore) (issue : Bool) (va : Nat) (slept : Bool) : State × Look :=
  lookFrom (s.lookRead w issue va 16) fun s f =>
    let o := recordIn f
    if f % 4 = 1 then (s, .done (lookCode slept) (BitVec.ofNat 64 (f / 2 ^ 64)))
    else if f % 4 ≠ 0 then (s, .done 3 0)
    else if o = 0 then (s, .sleep va 6 3 none)
    else
      lookFrom (s.lookRead w issue (o + 24) 8) fun s v =>
        let st := ctlState v
        if st = 5 then lookAfter (s.lookWrite w issue false va (bytesOfNat 4 (f % 2 ^ 32 + 2))) fun s => (s, .done 3 0)
        else if st = 4 then (s, .done 3 0)
        else if st = 6 then (s, .done 4 0)
        else if st = 7 then ((s.claim w.core w.launch o w.token).1, .done 3 0)
        else if (st = 0 ∨ st = 3) ∧ s.mayHelp w then
          match s.claim w.core w.launch o w.token with
          | (s, .won c) => (s, .adopt o c)
          | (s, _) => (s, .done 4 0)
        else
          match s.lookAccess w issue .load (o + 24) with
          | (s, .ok (_, pa)) => (s, .sleep va 6 3 (some pa))
          | (s, .error t) => (s, .fault t)

/-- A LOCKW of the core is in the remote path for a lock (R263): asleep on it, or helping. -/
def State.inRemotePath (s : State) (w : WarpCore) (va : Nat) : Bool :=
  let has (x : WarpCore) : Bool := decide (s.asidOf x = s.asidOf w) && decide (x.core = w.core) &&
    x.frontier.any (fun e => match e.state with
      | .wait _ t => (match t.kind with | .lock _ a => decide (a = va) | _ => false)
      | _ => false)
  s.warps.any (fun e => (e.2.run :: e.2.help).any has) || s.saved.any (fun e => (e.warp.run :: e.warp.help).any has)

/-- A contended lock (R263): help its parked holder, or sleep on the word at `va`, whose value is `word`. -/
def State.contended (s : State) (w : WarpCore) (issue : Bool) (va word : Nat) : State × Look :=
  let h := recordIn word
  if h = 0 ∨ !s.mayHelp w then (s, .sleep va 7 1 none)
  else
    lookFrom (s.lookRead w issue (h + 24) 8) fun s v =>
      if ctlState v = 3 ∨ ctlState v = 7 then
        match s.claim w.core w.launch h w.token with
        | (s, .won c) => (s, .adopt h c)
        | (s, .reserved) => (s, .done 3 0)
        | (s, .lost) => (s, .sleep va 7 1 none)
      else (s, .sleep va 7 1 none)

/-- The warps of a bias core are served a FENCER (R212, R263); a coordinate outside the mesh names none. -/
def State.fenceCore (s : State) (bx by_ : Nat) : State :=
  let ts := if bx < 16 ∧ by_ < 24 then (s.warps.filter (fun e => decide (e.1 / 64 = coreAt bx by_))).map (·.1) else []
  ts.foldl (fun s t => s.serveFence t) s

/-- LOCKW's remote path (R263). -/
def State.lockRemote (s : State) (w : WarpCore) (issue : Bool) (va x : Nat) (slept : Bool) : State × Look :=
  let hold := bits x 63 0
  if hold ≠ 0 then s.contended w issue va hold
  else
    lookAfter (s.lookWrite w issue true va (bytesOfNat 8 (w.task + 1))) fun s =>
      if !bit x 159 then (s, .done (lookCode slept) 0)
      else
        lookFrom ((s.fenceCore (bits x 143 136) (bits x 135 128)).lookRead w issue (va + 8) 8) fun s y =>
          if bit y 0 then lookAfter (s.lookWrite w issue true va (bytesOfNat 8 0)) fun s => s.contended w issue (va + 8) y
          else (s, .done (lookCode slept) 0)

/-- LOCKW's paths, once (R263): a later try takes the remote path. A lock whose OWNER is already held by its core is contended there. Log 30. -/
def State.lookLock (s : State) (w : WarpCore) (issue : Bool) (va : Nat) (slept again : Bool) : State × Look :=
  lookFrom (s.lookRead w issue va 32) fun s x =>
    if bit x 159 && decide (bits x 143 128 = coreId w.core) && !again && !s.inRemotePath w va then
      if bit x 64 then s.contended w issue (va + 8) (bits x 127 64)
      else if bit x 0 then s.lockRemote w issue va x slept
      else lookAfter (s.lookWrite w issue false (va + 8) (bytesOfNat 8 (w.task + 1))) fun s => (s, .done 0 0)
    else s.lockRemote w issue va x slept

/-- QTAKE's look at its entry (R266). Log 30. -/
def State.lookQueue (s : State) (w : WarpCore) (issue : Bool) (va : Nat) (slept : Bool) : State × Look :=
  lookFrom (s.lookRead w issue va 16) fun s e =>
    if e % 4 = 1 then
      lookAfter (s.lookWrite w issue false va (bytesOfNat 4 (e % 2 ^ 32 - 1))) fun s => (s, .done (lookCode slept) (BitVec.ofNat 64 (e / 2 ^ 64)))
    else if e % 4 = 2 ∧ recordIn e ≠ 0 ∧ s.mayHelp w then
      lookFrom (s.lookRead w issue (recordIn e + 24) 8) fun s v =>
        if ctlState v = 0 ∨ ctlState v = 7 then
          match s.claim w.core w.launch (recordIn e) w.token with
          | (s, .won c) => (s, .adopt (recordIn e) c)
          | (s, .reserved) => (s, .done 3 0)
          | (s, .lost) => (s, .sleep va 6 1 none)
        else (s, .sleep va 6 1 none)
    else (s, .sleep va 6 1 none)

/-! ### Helping (R260) -/

/-- A warp for an adopted task: its frame below each waiting lane's sp (R260). Log 30. -/
def WarpCore.adopted (w : WarpCore) (l : Launch) (gen record control code frame : Nat) : WarpCore :=
  let n := WarpCore.fresh w.core w.slot w.launch w.rank gen l.alloc 0xFFFFFFFF (code / 4 * 4) 1
  { n with
    lanes := n.lanes.zipIdx.map fun e =>
      let h := w.lane e.2
      let sp := BitVec.ofNat 32 (h.sp.toNat / 16 * 16)
      { e.1 with fp := sp, sp := sp, floor := h.floor }
    x := l.tiles
    w := (taskWords record frame (ctlJob control)).zipIdx.foldl (fun t e => Map.set 0 t e.2 e.1) []
    task := record, job := ctlJob control, depth := w.depth + 1 }

/-- Help frame `h` of a warp goes into its save slot (R260, R390). Log 12. -/
def State.saveHelp (s : State) (w : WarpCore) (h : Nat) : State :=
  let at_ := s.saveSlot w + 0x11000 * h
  (s.saveBytes (s.asidOf w) at_ 0x1000).saveBytes (s.asidOf w) (at_ + 0x1000) (128 * w.alloc)

/-- The waiting warp is saved as at an eviction, its frame pushed, and the claimed task starts in its slot (R260); a record that cannot be read starts nothing (R415). Log 30. -/
def State.help (s : State) (wid record control : Nat) : State :=
  match s.warps.find? wid with
  | none => s
  | some x =>
    let w := x.run
    match s.dRead w.launch record record 16 w.token with
    | (s, none) => s
    | (s, some v) =>
      let code := bits v 56 0
      let frame := bits v 127 64
      let (s, read) := if ctlRange control then s.loadRange w.core w.launch record code frame w.token else (s, true)
      if !read then s
      else
      let s := ((s.modRun wid WarpCore.drainRegs).boundary wid .dev false).saveHelp w (x.help.length + 1)
      let (s, gen) := s.takeGen w.launch wid
      match s.warps.find? wid with
      | none => s
      | some x =>
        let n := { x.run.adopted (s.launch w.launch) gen record control code frame with refresh := s.seq }
        { s with warps := s.warps.insert wid { run := n, help := x.run :: x.help } }

/-! ### Waits that look -/

/-- The wait without a registration, as it stands while its warp helps. -/
def WaitKind.unregistered : WaitKind → WaitKind
  | .future _ va => .future none va
  | .lock _ va => .lock none va
  | .qtake _ va i => .qtake none va i
  | k => k

/-- The wait with a registration. -/
def WaitKind.registered (id : Nat) : WaitKind → WaitKind
  | .future _ va => .future (some id) va
  | .lock _ va => .lock (some id) va
  | .qtake _ va i => .qtake (some id) va i
  | k => k

/-- Change the wait of some lanes. -/
def WarpCore.setWait (w : WarpCore) (m : Mask) (t : Wait) : WarpCore :=
  match w.entryOf (lowest m) with
  | some e => w.place m e.prio e.pc (.wait false t)
  | none => w

/-- A sleeping wait registers on its word (R221, R259). -/
def State.sleepOn (s : State) (wid : Nat) (w : WarpCore) (m : Mask) (t : Wait) (va cmp operand : Nat) (control : Option Nat) (zero : Bool) : State :=
  match s.translate w.party (s.asidOf w) (s.warpWorld w) .load va with
  | (s, .error _) => (s.darnerFail w.launch w.task va w.token).finishWait wid m t 4
  | (s, .ok (leaf, pa)) =>
    let id := s.regs.fresh 0
    let reg : Registration :=
      { owner := .darner wid w.token control, place := .inFlight, asid := s.asidOf w, va := va, key := pa, okey := leaf.okey, w64 := false, cmp := cmp, operand := operand,
        deadline := t.deadline, zero := zero, lanes := m }
    { s with regs := s.regs.insert id reg }.modRun wid (fun w => w.setWait m { t with kind := t.kind.registered id, code := none, again := true })

/-- One look of a wait: what it decides. -/
def State.lookOnce (s : State) (w : WarpCore) (issue : Bool) (t : Wait) : State × Look :=
  match t.kind with
  | .future _ va => s.lookFuture w issue va t.slept
  | .lock _ va => s.lookLock w issue va t.slept t.again
  | .qtake _ va _ => s.lookQueue w issue va t.slept
  | _ => (s, .done 4 0)

/-- The wait is QTAKE's: after it has helped it reads its entry again, and a full one then gives code 0 (R266). -/
def WaitKind.isTake : WaitKind → Bool
  | .qtake _ _ _ => true
  | _ => false

/-- What follows from a look of a wait that its lanes are in: it ends, helps or sleeps; when the look faulted, the launch stops and the wait ends as cancelled (R415). -/
def State.follow (s : State) (wid : Nat) (w : WarpCore) (m : Mask) (t : Wait) (zero : Bool) : Look → State
  | .done code v => s.finishWait wid m { t with val := v } code
  | .adopt record control =>
    (s.modRun wid (fun w => w.setWait m { t with kind := t.kind.unregistered, code := none, slept := t.slept || !t.kind.isTake, again := true })).help wid record control
  | .sleep va cmp operand control => s.sleepOn wid w m t va cmp operand control zero
  | .fault x => (s.darnerFail w.launch w.task x.faddr w.token).finishWait wid m t 4

/-- A wait of a running warp that wakes looks again. -/
def State.look (s : State) (wid : Nat) (m : Mask) (t : Wait) (zero : Bool) : State :=
  match s.warp? wid with
  | none => s
  | some w =>
    let (s, r) := s.lookOnce w false t
    s.follow wid w m t zero r

/-- Does a recorded code make the wait look again? -/
def Wait.looksAgain (t : Wait) (code : Nat) : Bool :=
  codeOk code && !t.final && (match t.kind with
    | .future _ _ => true
    | .lock _ _ => true
    | .qtake _ _ _ => true
    | _ => false)

/-- A uniform wait looks for the first time: FWAIT, LOCKW and QTAKE past their checks. An access of this look that faults is a precise fault of the instruction (R251, R415); else its lanes wait, and what the look decided follows. -/
def State.startLook (s : State) (c : Issue) (kind : WaitKind) (dst : Loc) (timeout : Word) : State :=
  match s.warp? c.wid with
  | none => s
  | some w =>
    let t := { Wait.mk' kind (s.deadline timeout) dst false with sw := bit c.insn 31 }
    match s.lookOnce w true t with
    | (s, .fault x) => s.trapAll c x
    | (s, r) => { s.startWait c c.lanes false t with cur := none }.follow c.wid w c.lanes t (decide (timeout = 0)) r

/-- FWAIT (R259). -/
def execFwait (r : RArgs) (s : State) : Host.Outcome State Fault Refusal :=
  onWarp (.fwait r) s fun c w => s.orCancel c w fun s c =>
    let ea := (r.pairA s w c.lead).toNat
    match s.waveAccess w .load ea 16 with
    | (s, .error t) => s.trapAll c t
    | (s, .ok (_, pa)) => (s.ownFirst c.wid pa 16).startLook c (.future none ea) (w.resolve r.d.toNat) (r.vB s w c.lead)

/-- LOCKW (R263). -/
def execLockw (r : RArgs) (s : State) : Host.Outcome State Fault Refusal :=
  onWarp (.lockw r) s fun c w => s.orCancel c w fun s c =>
    let ea := (r.pairA s w c.lead).toNat
    match s.waveAccess w .atomic ea 32 with
    | (s, .error t) => s.trapAll c t
    | (s, .ok (_, pa)) => (s.ownFirst c.wid pa 32).startLook c (.lock none ea) (w.resolve r.d.toNat) (r.vB s w c.lead)

/-- UNLOCK (R263). -/
def execUnlock (r : RArgs) (s : State) : Host.Outcome State Fault Refusal :=
  onWarp (.unlock r) s fun c w =>
    let ea := (r.pairA s w c.lead).toNat
    match s.waveAccess w .atomic ea 32 with
    | (s, .error t) => s.trapAll c t
    | (s, .ok (leaf, pa)) =>
      let s := s.publish c.wid .dev
      let (s, b) := (s.fillSpan leaf pa 16).readGlobal c.wid w true leaf ea 16
      let x := natOfBytes b
      if x / 2 ^ 64 = w.task + 1 then (s.waveWrite c.wid w none leaf (ea + 8) (pa + 8) (bytesOfNat 8 0)).conclude c []
      else if x % 2 ^ 64 = w.task + 1 then (s.waveWrite c.wid w none leaf ea pa (bytesOfNat 8 0)).conclude c []
      else s.trapAll c (trapOf .protection 3)

/-! ### Queues (R264 to R266) -/

/-- Address of the entry of index `i` (R264); CAP 0 is outside its range, and the entry is then any (log 2). -/
def State.queueEntry (s : State) (header cap i : Nat) : Nat :=
  (header + 64 + 16 * (if cap = 0 then Config.free s.free [19, header] % 2 ^ 24 else i % cap)) % 2 ^ 64

/-- What one lane of a QPUT did. -/
structure Put where
  lane : Nat
  index : Nat
  /-- the code, or none for a lane that waits -/
  code : Option Nat
  deriving DecidableEq, Repr

/-- The entry of one lane of a QPUT to the queue whose header is at a physical address: it writes, or waits for it to be EMPTY, in an entry of its own. -/
def State.putOne (s : State) (c : Issue) (w : WarpCore) (dst : Loc) (queue l va i value state : Nat) : State × Except Trap (Option Nat) :=
  match s.waveAccess w .atomic va 16 with
  | (s, .error t) => (s, .error t)
  | (s, .ok (leaf, pa)) =>
    let (s, b) := (s.fillSpan leaf pa 8).readGlobal c.wid ((s.warp? c.wid).getD w) true leaf va 8
    let low := natOfBytes b
    if low % 4 = 0 then (s.putEntry c (some queue) l va leaf.okey pa low value state, .ok (some 0))
    else
      let s := s.ownFirst c.wid pa 8
      let id := s.regs.fresh 0
      let reg : Registration :=
        { owner := .warp c.wid w.token, place := .inFlight, asid := s.asidOf w, va := va, key := pa, okey := leaf.okey, w64 := false, cmp := 7, operand := 3,
          deadline := none, zero := false, lanes := laneBit l }
      let s := { s with regs := s.regs.insert id reg }
      (s.startWait c (laneBit l) false (Wait.mk' (.qput id va i value state c) none dst false), .ok none)

/-- One lane of QPUT or QPUT.prom (R265). -/
def State.putLane (s : State) (c : Issue) (w : WarpCore) (dst : Loc) (l header value state : Nat) : State × Except Trap Put :=
  match s.waveAccess w .atomic header 64 with
  | (s, .error t) => (s, .error t)
  | (s, .ok (leaf, pa)) =>
    let (s, b) := ((s.ownFirst c.wid pa 64).fillSpan leaf pa 12).readGlobal c.wid ((s.warp? c.wid).getD w) true leaf header 12
    let h := natOfBytes b
    let i := bits h 63 32
    let va := s.queueEntry header (bits h 95 64) i
    match s.waveAccess w .atomic va 16 with
    | (s, .error t) => (s, .error t)
    | (s, .ok _) =>
      let s := s.waveWrite c.wid w (some .dev) leaf (header + 4) (pa + 4) (bytesOfNat 4 (i + 1))
      match s.putOne c w dst pa l va i value state with
      | (s, .error t) => (s, .error t)
      | (s, .ok code) => (s, .ok { lane := l, index := i, code := code })

/-- One lane of QPUT.fill (R265). -/
def State.fillLane (s : State) (c : Issue) (w : WarpCore) (l header i value : Nat) : State × Except Trap Put :=
  match s.waveAccess w .load header 64 with
  | (s, .error t) => (s, .error t)
  | (s, .ok (leaf, queue)) =>
    let (s, b) := (s.fillSpan leaf queue 12).readGlobal c.wid ((s.warp? c.wid).getD w) true leaf header 12
    let va := s.queueEntry header (bits (natOfBytes b) 95 64) i
    match s.waveAccess w .atomic va 16 with
    | (s, .error t) => (s, .error t)
    | (s, .ok (leaf, pa)) =>
      let (s, b) := (s.fillSpan leaf pa 8).readGlobal c.wid ((s.warp? c.wid).getD w) true leaf va 8
      let low := natOfBytes b
      if low % 4 = 2 then (s.putEntry c (some queue) l va leaf.okey pa low value 1, .ok { lane := l, index := i, code := some 0 })
      else (s, .ok { lane := l, index := i, code := some 3 })

/-- The lanes of a QPUT in ascending order: faults and outcomes. -/
def State.putLanes (s : State) (ls : List Nat) (f : State → Nat → State × Except Trap Put) : State × List (Nat × Trap) × List Put :=
  ls.foldl (fun a l =>
    match f a.1 l with
    | (s, .error t) => (s, a.2.1 ++ [(l, t)], a.2.2)
    | (s, .ok p) => (s, a.2.1, a.2.2 ++ [p])) (s, [], [])

/-- The end of a QPUT: index and code in the lanes that did not wait, which go on. -/
def State.putDone (c : Issue) (d : Nat) (x : State × List (Nat × Trap) × List Put) : State :=
  let (s, faults, puts) := x
  let now := puts.filterMap (fun p => p.code.map (fun k => (p.lane, [BitVec.ofNat 32 p.index, BitVec.ofNat 32 k])))
  let s := s.modRun c.wid (fun w => WarpCore.writeRun s w d now)
  (s.advance c (maskOf (now.map (·.1)))).concludePlaced c faults

/-- QPUT (R265). DEDUCED (log 55): every QPUT and QPUT.prom is a wait issue of R267, at which a cancelled lane takes its CANCEL trap, also one whose entry turns out to be EMPTY. -/
def execQput (r : RArgs) (s : State) : Host.Outcome State Fault Refusal :=
  onWarp (.qput r) s fun c w => s.orCancel c w fun s c =>
    State.putDone c r.d.toNat (s.putLanes (lanesOf c.lanes) fun s l =>
      s.putLane c w (w.resolve r.d.toNat) l (r.pairA s w l).toNat (r.pairB s w l).toNat 1)

/-- QPUT.prom (R265). -/
def execQputProm (r : RArgs) (s : State) : Host.Outcome State Fault Refusal :=
  onWarp (.qputProm r) s fun c w => s.orCancel c w fun s c =>
    State.putDone c r.d.toNat (s.putLanes (lanesOf c.lanes) fun s l =>
      s.putLane c w (w.resolve r.d.toNat) l (r.pairA s w l).toNat (r.pairB s w l).toNat 2)

/-- QPUT.fill (R265). -/
def execQputFill (r : RArgs) (s : State) : Host.Outcome State Fault Refusal :=
  onWarp (.qputFill r) s fun c w =>
    State.putDone c r.d.toNat (s.putLanes (lanesOf c.lanes) fun s l =>
      s.fillLane c w l (r.pairA s w l).toNat (s.rd w l (r.b.toNat + 2) (posB + 2)).toNat (r.pairB s w l).toNat)

/-- QTAKE (R266): the index is taken when it issues. -/
def execQtake (r : RArgs) (s : State) : Host.Outcome State Fault Refusal :=
  onWarp (.qtake r) s fun c w => s.orCancel c w fun s c =>
    let header := (r.pairA s w c.lead).toNat
    match s.waveAccess w .atomic header 64 with
    | (s, .error t) => s.trapAll c t
    | (s, .ok (leaf, pa)) =>
      let (s, b) := ((s.ownFirst c.wid pa 64).fillSpan leaf pa 12).readGlobal c.wid w true leaf header 12
      let h := natOfBytes b
      let i := bits h 31 0
      let va := s.queueEntry header (bits h 95 64) i
      match s.waveAccess w .atomic va 16 with
      | (s, .error t) => s.trapAll c t
      | (s, .ok (_, epa)) =>
        let s := s.waveWrite c.wid w (some .dev) leaf header pa (bytesOfNat 4 (i + 1))
        (s.ownFirst c.wid epa 16).startLook c (.qtake none va i) (w.resolve r.d.toNat) (r.vB s w c.lead)

end Sys2Proof.Machine
end

