-- ==== Sys2Proof/Machine/Lanes.lean ====
section
/-! DEFINITION. Lane exchange and reduction (MAJ 0x14, R136, R139 to R142). Every source of every active lane is read before any destination is written. -/

namespace Sys2Proof.Machine

/-- The lane whose vA a lane of SHFL receives, when it lies in the segment (R139): `sub` is the mode and the width code. -/
def shuffleSource (sub i : Nat) (n : Nat) : Option Nat :=
  let w := 32 / 2 ^ (sub / 4 % 4)
  let base := i / w * w
  let inside (x : Nat) : Option Nat := if base ≤ x ∧ x < base + w then some x else none
  if sub % 4 = 0 then inside (base + n % w)
  else if sub % 4 = 1 then (if n ≤ i then inside (i - n) else none)
  else if sub % 4 = 2 then inside (i + n)
  else inside (i ^^^ n % w)

/-- SHFL (R139). -/
def execShfl (r : RArgs) (s : State) : Host.Outcome State Fault Refusal :=
  onWarp (.shfl r) s fun c w => s.perLane c r.d fun l =>
    match shuffleSource (sub r.px) l (r.vB s w l).toNat with
    | some j => (if hasLane c.lanes j then r.vA s w j else r.vA s w l, 0)
    | none => (r.vA s w l, 0)

/-- Result of VOTE (R140, Table 7-2) over the lanes' values. -/
def voteWord (mode : Nat) (vals : List (Nat × Word)) : Word :=
  let b (x : Bool) : Word := if x then 1 else 0
  if mode = 0 then b (vals.any (fun e => decide (e.2 ≠ 0)))
  else if mode = 1 then b (vals.all (fun e => decide (e.2 ≠ 0)))
  else if mode = 2 then maskOf ((vals.filter (fun e => decide (e.2 ≠ 0))).map (·.1))
  else b (vals.all (fun e => decide (some e.2 = (vals.head?).map (·.2))))

/-- VOTE (R140). -/
def execVote (r : RArgs) (s : State) : Host.Outcome State Fault Refusal :=
  onWarp (.vote r) s fun c w =>
    let v := voteWord (sub r.px) ((lanesOf c.lanes).map (fun l => (l, r.vA s w l)))
    s.perLane c r.d fun _ => (v, 0)

/-- The operand of each lane position: vA of an active lane, the operator's identity elsewhere (R141). -/
def reduceInputs (s : State) (w : WarpCore) (m : Mask) (r : RArgs) : List Word :=
  (List.range 32).map (fun l => if hasLane m l then r.vA s w l else (redOp (sub r.px)).2)

/-- REDW (R141). -/
def execRedw (r : RArgs) (s : State) : Host.Outcome State Fault Refusal :=
  onWarp (.redw r) s fun c w =>
    let v := pairwiseTree (redOp (sub r.px)).1 5 (reduceInputs s w c.lanes r)
    s.perLane c r.d fun _ => v

/-- Inclusive scan up to position `i`, with the flags of its steps (R141). -/
def scanTo (op : Word → Word → Word × Flags) (xs : List Word) (i : Nat) : Word × Flags :=
  match xs.take (i + 1) with
  | [] => (0, 0)
  | x :: rest => rest.foldl (fun a y => let r := op a.1 y; (r.1, a.2 ||| r.2)) (x, 0)

/-- SCANW (R141). -/
def execScanw (r : RArgs) (s : State) : Host.Outcome State Fault Refusal :=
  onWarp (.scanw r) s fun c w =>
    let xs := reduceInputs s w c.lanes r
    s.perLane c r.d fun l => scanTo (redOp (sub r.px)).1 xs l

/-- MATCH (R142): the active lanes that hold the same value, 32 bits or a pair. -/
def execMatchLanes (r : RArgs) (s : State) : Host.Outcome State Fault Refusal :=
  onWarp (.matchLanes r) s fun c w =>
    let val (l : Nat) : DWord := if sub r.px = 1 then r.pairA s w l else (r.vA s w l).setWidth 64
    let vals := (lanesOf c.lanes).map (fun l => (l, val l))
    s.perLane c r.d fun l => (maskOf ((vals.filter (fun e => decide (e.2 = val l))).map (·.1)), 0)

end Sys2Proof.Machine
end

