-- ==== Sys2Proof/Machine/Masks.lean ====
section
/-! DEFINITION. Mask registers (MAJ 0x15, R143 to R147), priority and branches (R149 to R152), and the plain warp control of MAJ 0x1A (R158 to R160). A mask write is performed at once, and the KWAITs of the warp are evaluated with it (R64, R137). -/

namespace Sys2Proof.Machine

/-- An instruction that writes kD (R137). -/
def maskWrite (i : Instr) (k : KArgs) (s : State) (f : Issue → WarpCore → Mask) : Host.Outcome State Fault Refusal :=
  onWarp i s fun c w => (s.modRun c.wid (fun x => x.setMask k.kd.toNat (f c w))).conclude c []

/-- KSET (R143). -/
def execKset (k : KArgs) (s : State) : Host.Outcome State Fault Refusal :=
  maskWrite (.kset k) k s fun c w => s.rd w c.lead k.r.toNat posA

/-- KMOV (R144). -/
def execKmov (k : KArgs) (s : State) : Host.Outcome State Fault Refusal :=
  onWarp (.kmov k) s fun c w => s.perLane c k.r fun _ => (w.mask k.ka.toNat, 0)

/-- KPOP (R144). -/
def execKpop (k : KArgs) (s : State) : Host.Outcome State Fault Refusal :=
  onWarp (.kpop k) s fun c w => s.perLane c k.r fun _ => (BitVec.ofNat 32 (laneCount (w.mask k.ka.toNat)), 0)

/-- JOIN (R146). -/
def execJoin (k : KArgs) (s : State) : Host.Outcome State Fault Refusal :=
  maskWrite (.join k) k s fun c w => w.mask k.kd.toNat ||| c.lanes

/-- LEAVE (R146). -/
def execLeave (k : KArgs) (s : State) : Host.Outcome State Fault Refusal :=
  maskWrite (.leave k) k s fun c w => w.mask k.kd.toNat &&& ~~~c.lanes

/-- KLOG.AND (R145). -/
def execKlogAnd (k : KArgs) (s : State) : Host.Outcome State Fault Refusal :=
  maskWrite (.klogAnd k) k s fun _ w => w.mask k.ka.toNat &&& w.mask k.kb.toNat

/-- KLOG.OR (R145). -/
def execKlogOr (k : KArgs) (s : State) : Host.Outcome State Fault Refusal :=
  maskWrite (.klogOr k) k s fun _ w => w.mask k.ka.toNat ||| w.mask k.kb.toNat

/-- KLOG.XOR (R145). -/
def execKlogXor (k : KArgs) (s : State) : Host.Outcome State Fault Refusal :=
  maskWrite (.klogXor k) k s fun _ w => w.mask k.ka.toNat ^^^ w.mask k.kb.toNat

/-- KLOG.ANDN (R145). -/
def execKlogAndn (k : KArgs) (s : State) : Host.Outcome State Fault Refusal :=
  maskWrite (.klogAndn k) k s fun _ w => w.mask k.ka.toNat &&& ~~~w.mask k.kb.toNat

/-- PRIO (R149). -/
def execPrio (i : IArgs) (s : State) : Host.Outcome State Fault Refusal :=
  onWarp (.prio i) s fun c _ => (s.modRun c.wid (fun x => x.place c.lanes (i.imm.toNat % 16) c.next .ready)).concludePlaced c []

/-- BRA (R150). -/
def execBra (j : JArgs) (s : State) : Host.Outcome State Fault Refusal :=
  onWarp (.bra j) s fun c _ =>
    (s.modRun c.wid (fun x => x.place c.lanes j.prio.toNat (branchTarget c.pc j.offset) .ready)).concludePlaced c []

/-- The lane whose condition register decides for a lane of a BRC (R151): its own for a lane register. A warp-uniform or special register is read once, and moves all active lanes or none; whose laneid, fp, sp or idx that is, among the active lanes, the spec leaves open, and is free (log 56). -/
def State.condLane (s : State) (x : CArgs) (c : Issue) (l : Nat) : Nat :=
  if x.cond.toNat < 96 then l
  else if x.cond.toNat ∈ [121, 125, 126, 127] then s.choose [62, c.wid] c.lead (lanesOf c.lanes)
  else c.lead

/-- BRC (R151): lanes whose condition is not zero move, the others fall through. -/
def execBrc (x : CArgs) (s : State) : Host.Outcome State Fault Refusal :=
  onWarp (.brc x) s fun c w =>
    let taken := maskOf ((lanesOf c.lanes).filter (fun l => decide (s.rd w (s.condLane x c l) x.cond.toNat posA ≠ 0)))
    (s.modRun c.wid (fun v =>
      (v.place taken x.prio.toNat (branchTarget c.pc x.offset) .ready).place (c.lanes &&& ~~~taken) c.prio c.next .ready)).concludePlaced c []

/-- JMPI (R138, R152): each lane to its own target; a misaligned one traps with ALIGN. -/
def execJmpi (r : RArgs) (s : State) : Host.Outcome State Fault Refusal :=
  onWarp (.jmpi r) s fun c w =>
    let w := w.drainRegs
    let targets := (lanesOf c.lanes).map (fun l => (l, (r.pairA s w l).toNat % 2 ^ 57))
    let good := targets.filter (fun e => decide (e.2 % 4 = 0))
    let bad := targets.filter (fun e => decide (e.2 % 4 ≠ 0))
    (s.modRun c.wid (fun v => good.foldl (fun v e => v.place (laneBit e.1) (r.b.toNat % 16) e.2 .ready) v.drainRegs)).concludePlaced c
      (bad.map (fun e => (e.1, trapAt .align e.2)))

/-- NOP (R158). -/
def execNop (r : RArgs) (s : State) : Host.Outcome State Fault Refusal :=
  onWarp (.nop r) s fun c _ => s.conclude c []

/-- YIELD (R159). -/
def execYield (r : RArgs) (s : State) : Host.Outcome State Fault Refusal :=
  onWarp (.yield r) s fun c _ => (s.modRun c.wid (fun x => { x with yieldTo := some (s.clk + 16) })).conclude c []

/-- The 16 clocks of a YIELD have passed (R159). -/
def execYieldExpiry (wid : Nat) (s : State) : Host.Outcome State Fault Refusal :=
  .next (s.modRun wid (fun x => match x.yieldTo with
    | some t => if t ≤ s.clk then { x with yieldTo := none } else x
    | none => x))

/-- WBASE (R160): a base at or above the allocation traps with WINDOW. -/
def execWbase (r : RArgs) (s : State) : Host.Outcome State Fault Refusal :=
  onWarp (.wbase r) s fun c w =>
    let base := 32 * (r.b.toNat % 16)
    if w.alloc ≤ base then s.trapAll c (trapOf .window 0)
    else (s.modRun c.wid (fun x => { x with wbase := base })).conclude c []

end Sys2Proof.Machine
end

