-- ==== Sys2Proof/Machine/PressInstr.lean ====
section
/-! DEFINITION. Tile and matrix instructions (R312 to R327): what runs in the warp, how a command is checked and accepted, progress and waiting. -/

namespace Sys2Proof.Machine

/-! ### Uniform operands and predicates (R50, R312) -/

/-- Bit `b` of tile predicate register qN; bit 0 of q0 reads 1 (R49). -/
def WarpCore.tpred (w : WarpCore) (q b : Nat) : Bool := (decide (q = 0) && decide (b = 0)) || bit (Map.get 0 w.q q).toNat b

/-- The bit that governs an X-format instruction (R50). -/
def governed (x : XArgs) (w : WarpCore) : Bool := w.tpred x.q.toNat (bits x.payload.toNat 31 26)

/-- wN, as the lowest active lane reads it. -/
def State.wReg (s : State) (c : Issue) (w : WarpCore) (n pos : Nat) : Nat := (s.rd w c.lead (96 + n) pos).toNat

/-- wN:wN+1. -/
def State.wPair (s : State) (c : Issue) (w : WarpCore) (n pos : Nat) : Nat := (s.rdPair w c.lead (96 + n) pos).toNat

/-- Tile register xN. -/
def WarpCore.tileReg (w : WarpCore) (n : Nat) : BitVec 128 := Map.get 0 w.x n

/-! ### Binding and predicates -/

/-- Bits of a descriptor that TBIND writes (Table 16-2). -/
def tileMask : BitVec 128 :=
  BitVec.ofNat 128 ((2 ^ 20 - 1) * 2 ^ 96 + (2 ^ 20 - 1) * 2 ^ 64 + (2 ^ 39 - 1) * 2 ^ 23 + (2 ^ 20 - 1))

/-- TBIND (R315). -/
def execTbind (x : XArgs) (s : State) : Host.Outcome State Fault Refusal :=
  onWarp (.tbind x) s fun c w =>
    if !governed x w then s.conclude c []
    else
      let v := s.wPair c w x.xa.toNat posA + s.wPair c w (x.xa.toNat + 2) (posA + 2) * 2 ^ 64
      (s.modRun c.wid (fun w => { w with x := Map.set 0 w.x x.xd.toNat (BitVec.ofNat 128 v &&& tileMask) })).conclude c []

/-- Write qN; bit 0 of q0 stays as it reads (R49, R317). -/
def WarpCore.setPred (w : WarpCore) (n : Nat) (v : DWord) : WarpCore := { w with q := Map.set 0 w.q n (if n = 0 then v &&& ~~~1 else v) }

/-- qN as it reads (R49). -/
def WarpCore.pred (w : WarpCore) (n : Nat) : DWord := if n = 0 then Map.get 0 w.q n ||| 1 else Map.get 0 w.q n

/-- TPSET (R317). -/
def execTpset (k : KArgs) (s : State) : Host.Outcome State Fault Refusal :=
  onWarp (.tpset k) s fun c w =>
    let v := s.rdPair w c.lead k.r.toNat posA
    (s.modRun c.wid (fun w => w.setPred k.kd.toNat v)).conclude c []

/-- A TPLOG (R317). -/
def predLogic (i : Instr) (k : KArgs) (s : State) (f : DWord → DWord → DWord) : Host.Outcome State Fault Refusal :=
  onWarp i s fun c w =>
    (s.modRun c.wid (fun x => x.setPred k.kd.toNat (f (w.pred k.ka.toNat) (w.pred k.kb.toNat)))).conclude c []

/-- TPLOG.AND (R317). -/
def execTplogAnd (k : KArgs) (s : State) : Host.Outcome State Fault Refusal := predLogic (.tplogAnd k) k s (· &&& ·)
/-- TPLOG.OR (R317). -/
def execTplogOr (k : KArgs) (s : State) : Host.Outcome State Fault Refusal := predLogic (.tplogOr k) k s (· ||| ·)
/-- TPLOG.XOR (R317). -/
def execTplogXor (k : KArgs) (s : State) : Host.Outcome State Fault Refusal := predLogic (.tplogXor k) k s (· ^^^ ·)
/-- TPLOG.ANDN (R317). -/
def execTplogAndn (k : KArgs) (s : State) : Host.Outcome State Fault Refusal := predLogic (.tplogAndn k) k s (fun a b => a &&& ~~~b)

/-! ### TSLICE (R316) -/

/-- What one lane of a TSLICE moves: scratchpad offsets, the bit of its element in the first byte, and the element's width; a row slice moves bytes. -/
structure SliceLane where
  offs : List Nat
  shift : Nat
  width : Nat
  deriving DecidableEq, Repr

/-- The lane's part of a slice, or none beyond the tile (R316). -/
def sliceLane (t : Tile) (col : Bool) (v l : Nat) : Option SliceLane :=
  if col then
    let c := bits v 7 0
    let r := 32 * bits v 10 8 + l
    if (t.ring = 0 ∧ t.rows ≤ r) ∨ t.cols ≤ c then none
    else some { offs := keysFrom (t.rowOff r + c * t.width / 8) ((t.width + 7) / 8), shift := c * t.width % 8, width := t.width }
  else
    let r := bits v 7 0
    let b := 128 * bits v 9 8 + 4 * l
    if t.ring = 0 ∧ t.rows ≤ r then none
    else some { offs := keysFrom (t.rowOff r + b) (min 4 (t.rowBytes - b)), shift := 0, width := 32 }

/-- Raw bits of an element in a lane register (Table 6-6). -/
def placeRaw (code raw : Nat) : Word :=
  match elemFmt code with
  | some (.int true n) => BitVec.ofInt 32 (signedOf n raw)
  | _ => BitVec.ofNat 32 raw

/-- Read scratchpad bytes of a wave by runs of keys. -/
def State.readRuns (s : State) (wid : Nat) (ks : List Nat) : State × List Byte :=
  (keyRuns ks).foldl (fun a r => let (s, b) := a.1.readBank wid r.1 r.1 r.2; (s, a.2 ++ b)) (s, [])

/-- Store scratchpad bytes of a lane by runs of keys. -/
def State.storeRuns (s : State) (c : Issue) (l va : Nat) (ks : List Nat) (data : List Byte) : State :=
  ((keyRuns ks).foldl (fun a r =>
    (a.1.bufferStore c.wid (storeOf c l va r.1 r.2 (natOfBytes (a.2.take r.2)) 0 true), a.2.drop r.2)) (s, data)).1

/-- The lane's part of a slice, by its index and the immediate. -/
def State.slicePart (s : State) (w : WarpCore) (t : TArgs) (l : Nat) : Option SliceLane :=
  sliceLane (tileOf (w.tileReg t.tile.toNat)) t.col ((s.rd w l t.idx.toNat posA).toNat + t.imm.toNat) l

/-- The lane's part and the keys of its bytes, or its fault (R316). -/
def State.sliceKeys (s : State) (w : WarpCore) (t : TArgs) (l : Nat) : Except Trap (SliceLane × List Nat) :=
  match s.slicePart w t l with
  | none => .error (trapOf .tileBounds 0)
  | some p =>
    match s.spadKeys w.core w.launch p.offs with
    | .error o => .error (trapAt .tileBounds o)
    | .ok ks => .ok (p, ks)

/-- A writing TSLICE of one lane (R316): an element below a byte is put into its byte. Log 35. -/
def State.sliceStore (s : State) (c : Issue) (w : WarpCore) (t : TArgs) (l : Nat) : State × Option Trap :=
  match s.sliceKeys w t l with
  | .error f => (s, some f)
  | .ok (p, ks) =>
    let v := (s.rd w l t.reg.toNat posB).toNat
    if p.width < 8 then
      let (s, b) := s.readRuns c.wid ks
      let old := natOfBytes b
      let new := old - old / 2 ^ p.shift % 2 ^ p.width * 2 ^ p.shift + v % 2 ^ p.width * 2 ^ p.shift
      (s.storeRuns c l (p.offs.headD 0) ks (bytesOfNat 1 new), none)
    else (s.storeRuns c l (p.offs.headD 0) ks (bytesOfNat ks.length v), none)

/-- A reading TSLICE of one lane (R316). -/
def State.sliceLoad (s : State) (c : Issue) (w : WarpCore) (t : TArgs) (l : Nat) : State × Except Trap Nat :=
  match s.sliceKeys w t l with
  | .error f => (s, .error f)
  | .ok (p, ks) =>
    let (s, b) := s.readRuns c.wid ks
    let raw := natOfBytes b / 2 ^ p.shift % 2 ^ p.width
    (s, .ok (if t.col then (placeRaw (tileOf (w.tileReg t.tile.toNat)).fmt raw).toNat else raw))

/-- TSLICE (R316): scratchpad accesses as LDS and STS make them. -/
def execTslice (t : TArgs) (s : State) : Host.Outcome State Fault Refusal :=
  onWarp (.tslice t) s fun c w =>
    let q := pxVal t.px
    if !w.tpred (bits q 2 0) (bits q 8 3) then s.conclude c []
    else if !(tileOf (w.tileReg t.tile.toNat)).ok then s.trapAll c (trapOf .tileBounds 0)
    else if s.anyBusy w ((lanesOf c.lanes).map (fun l => match s.slicePart w t l with | some p => p.offs | none => [])).flatten then
      s.holdAccess c (s.busyBank w ((lanesOf c.lanes).map (fun l => match s.slicePart w t l with | some p => p.offs | none => [])).flatten)
    else if t.wr then
      let (s, faults) := s.eachLane (lanesOf c.lanes) fun s l => s.sliceStore c w t l
      s.conclude c faults
    else finishLoad c 4 t.reg.toNat (s.loadLanes (lanesOf c.lanes) fun s l => s.sliceLoad c w t l)

/-! ### Checks of commands (R313) -/

/-- A command fault at acceptance (R308). -/
def pressTrap (detail : Nat) : Trap := { cause := .engineFault, subcode := 2, faddr := detail }

/-- A command of a warp, before its operands. DESIGN CHOICE (log 34): the seed of an MXEP's streams is the warp's at the command's issue, since R28 says `current` and R322 at the start of the MXEP; a WRCTL between the two does not reach it here. -/
def newPressCmd (i : Instr) (x : XArgs) (c : Issue) (w : WarpCore) : PressCmd :=
  { instr := i, slot := w.slot, wid := c.wid, token := w.token, launch := w.launch, num := none, held := if x.hold then some x.h.toNat else none,
    tile := 0, opD := 0, opA := 0, opB := 0, opB1 := 0, pages := [], seed := w.srng, since := 0, fresh := w.refresh, follow := 0, rowsDone := 0 }

/-- A tile is not valid, or rows `first` to `first + n − 1` are not in it, or a byte is outside R167 (R293). Log 34. -/
def State.tileTrap (s : State) (w : WarpCore) (t : Tile) (first n : Nat) (touched : List Nat) : Option Trap :=
  if !t.ok || (decide (t.ring = 0) && decide (t.rows < first + n)) then some (trapOf .tileBounds 0)
  else
    match s.spadKeys w.core w.launch touched with
    | .error o => some (trapAt .tileBounds o)
    | .ok _ => none

/-- Cells of a region of accumulator rows (R299), or of a plain range, are not all there. -/
def accTrap (base n align : Nat) : Option Trap :=
  if base % align ≠ 0 ∨ Config.accCells < base + n then some (trapAt .accBounds base) else none

/-- A scratchpad operand that is no tile (R313). -/
def State.vecTrap (s : State) (w : WarpCore) (off align n : Nat) : Option Trap :=
  if off % align ≠ 0 then some (trapAt .align off)
  else
    match s.spadKeys w.core w.launch (keysFrom off n) with
    | .error o => some (trapAt .spadBounds o)
    | .ok _ => none

/-- Translate every page of a global operand (R313): page addresses and leaves. -/
def State.pressPages (s : State) (w : WarpCore) (acc : Acc) (va n : Nat) : State × Except Trap (List (Nat × Leaf)) :=
  (pageRuns va n).foldl (fun a r =>
    match a with
    | (s, .error t) => (s, .error t)
    | (s, .ok l) =>
      match s.translate w.party (s.asidOf w) (s.warpWorld w) acc r.1 with
      | (s, .error e) => (s, .error (e.trap acc r.1))
      | (s, .ok (leaf, _)) => (s, .ok (l ++ [(r.1 / 2 ^ 18, leaf)]))) (s, .ok [])

/-- The held slot of a command is occupied (R301). -/
def State.heldFault (s : State) (c : PressCmd) (core : Nat) : Option Trap :=
  match c.held with
  | none => none
  | some h => if (s.pressOf core c.launch).queue.any (fun x => decide (x.held = some h)) then some (pressTrap 5) else none

/-- A command that cannot be held is held (R300). -/
def PressCmd.unholdable (c : PressCmd) : Option Trap := if c.held.isSome then some (pressTrap 5) else none

/-- A command fault when something holds. -/
def pressIf (p : Bool) (detail : Nat) : Option Trap := if p then some (pressTrap detail) else none

/-- The outcome of a command's checks. -/
def checked (t : Option Trap) (c : PressCmd) : Except Trap PressCmd := match t with | some t => .error t | none => .ok c

/-- A Press command (R295, R300, R313): without its governing bit nothing happens; its checks; then it stalls, or enters the queue. A hand-over that brings back a closed queue stands, and one whose saved context cannot be read ends the context (R411). -/
def pressCommand (i : Instr) (x : XArgs) (s : State) (ask : State → Issue → WarpCore → PressCmd → State × Except Trap PressCmd)
    (done : State → Issue → PressCmd → State) (waits : Bool := false) : Host.Outcome State Fault Refusal :=
  onWarp i s fun c w =>
    if !governed x w then s.conclude c []
    else s.orCancelIf c w (fun _ => waits) fun s c =>
      match ask s c w (newPressCmd i x c w) with
      | (s', .error t) => s'.trapAll c t
      | (s', .ok cmd) =>
        match s'.takePress w.core w.launch with
        | none => s
        | some s2 =>
          if (s2.core w.core).press.closed || decide ((s2.core w.core).press.owner ≠ some w.launch) then
            s2
          else
            let s := s2.drainBank c.wid
            let s := s.modPress w.core (fun p => p.accept { cmd with since := s.seq })
            done s c cmd

/-- The lanes of an accepted command go on. -/
def pressOn (s : State) (c : Issue) (_ : PressCmd) : State := s.conclude c []

/-! ### Commands -/

/-- What TZERO checks (R318). -/
def State.tzeroAsk (x : XArgs) (s : State) (_ : Issue) (w : WarpCore) (p : PressCmd) : State × Except Trap PressCmd :=
  let p := { p with tile := w.tileReg x.xd.toNat }
  (s, checked (s.tileTrap w p.t 0 p.t.rows (p.touches none) <|> p.unholdable <|> pressIf (bit p.pay 1 && decide (p.t.geo = 0)) 6) p)

/-- TZERO (R318). -/
def execTzero (x : XArgs) (s : State) : Host.Outcome State Fault Refusal :=
  pressCommand (.tzero x) x s (State.tzeroAsk x) pressOn

/-- What MXLW checks (R319). -/
def State.mxlwAsk (x : XArgs) (s : State) (c : Issue) (w : WarpCore) (p : PressCmd) : State × Except Trap PressCmd :=
  if bit p.pay 0 then
    let va := s.wPair c w x.xa.toNat posA
    let p := { p with opA := va }
    match s.translate w.party (s.asidOf w) (s.warpWorld w) .load va with
    | (s, .error e) => (s, .error (e.trap .load va))
    | (s, .ok (leaf, _)) =>
      if !planeFormat leaf.fmt then (s, .error (pressTrap 1))
      else if va % planeBytes leaf.fmt ≠ 0 then (s, .error (trapAt .align va))
      else
        match s.pressPages w .load va (planeBytes leaf.fmt) with
        | (s, .error t) => (s, .error t)
        | (s, .ok pages) =>
          (s, checked (pressIf (decide (leaf.geo = 3) || !geoFits leaf.fmt leaf.geo || bit p.pay 1) 4 <|> s.heldFault p w.core) { p with pages := pages })
  else
    let p := { p with tile := w.tileReg x.xa.toNat }
    (s, checked (s.tileTrap w p.t 0 p.t.rows (p.touches none) <|> pressIf (!planeFormat p.t.fmt) 1 <|>
      pressIf (!geoFits p.t.fmt p.t.geo || decide (64 < p.t.rows) || decide (kmaxOf p.t.fmt < p.t.cols)) 4 <|> s.heldFault p w.core) p)

/-- MXLW (R319): from a tile, or from a typed page. -/
def execMxlw (x : XArgs) (s : State) : Host.Outcome State Fault Refusal :=
  pressCommand (.mxlw x) x s (State.mxlwAsk x) pressOn

/-- What MXSWAP checks (R320). -/
def State.mxswapAsk (s : State) (_ : Issue) (w : WarpCore) (p : PressCmd) : State × Except Trap PressCmd :=
  (s, checked (s.heldFault p w.core) p)

/-- MXSWAP (R320). -/
def execMxswap (x : XArgs) (s : State) : Host.Outcome State Fault Refusal :=
  pressCommand (.mxswap x) x s State.mxswapAsk pressOn

/-- What MXMM and MXMMS check (R321). DEDUCED (log 34): of several command faults the one checked first is reported, since R308 names no order. -/
def State.streamAsk (x : XArgs) (s : State) (c : Issue) (w : WarpCore) (p : PressCmd) : State × Except Trap PressCmd :=
  let p := { p with tile := w.tileReg x.xa.toNat, opD := s.wReg c w x.xd.toNat posD, opB := s.wReg c w x.xb.toNat posB }
  let t := p.t
  (s, checked (s.tileTrap w t p.opB p.count [] <|> s.tileTrap w t p.opB p.count (p.touches none) <|> accTrap p.opD (64 * p.count) 64 <|>
    pressIf (!planeFormat t.fmt) 1 <|> pressIf (!p.float && !(exactFormat t.fmt && decide (t.geo = 0))) 3 <|>
    pressIf (!geoFits t.fmt t.geo) 4 <|> s.heldFault p w.core) p)

/-- MXMM (R321). -/
def execMxmm (x : XArgs) (s : State) : Host.Outcome State Fault Refusal := pressCommand (.mxmm x) x s (State.streamAsk x) pressOn
/-- MXMMS (R321). -/
def execMxmms (x : XArgs) (s : State) : Host.Outcome State Fault Refusal := pressCommand (.mxmms x) x s (State.streamAsk x) pressOn

/-- The destination's format and geometry take no epilogue output (R322). -/
def badDest (fmt geo : Nat) : Bool := decide (fmt = 4) || decide (fmt = 0x30) || decide (geo ≠ 0)

/-- What MXEP checks (R322): no page of its destination may have a geometry, or a format that takes no output. DEDUCED (log 34): of several command faults the one checked first is reported, 2 before 5 before 6, since R308 names no order. -/
def State.mxepAsk (x : XArgs) (s : State) (c : Issue) (w : WarpCore) (p : PressCmd) : State × Except Trap PressCmd :=
  let p := { p with opA := s.wReg c w x.xa.toNat posA, opB := s.wReg c w x.xb.toNat posB, opB1 := s.wReg c w (x.xb.toNat + 1) (posB + 1) }
  let p := if p.dest = 1 then { p with tile := w.tileReg x.xd.toNat } else if p.dest = 2 then { p with opD := s.wPair c w x.xd.toNat posD } else p
  let rows := ((rowsFrom 0 p.count).map (fun r => keysFrom (p.t.rowOff r) p.outBytes)).flatten
  let early := (if p.dest = 1 then s.tileTrap w p.t 0 p.count [] <|> s.tileTrap w p.t 0 p.count rows else none) <|>
    accTrap p.opA (64 * p.count) 64 <|> (if bit p.pay 16 then s.vecTrap w p.opB 4 256 else none) <|>
    (if bit p.pay 15 then s.vecTrap w p.opB1 4 256 else none) <|>
    (if p.dest = 2 ∧ p.opD % 32 ≠ 0 then some (trapAt .align p.opD) else none)
  let round := pressIf (decide (5 ≤ bits p.pay 22 20)) 2
  match early with
  | some t => (s, .error t)
  | none =>
    if p.dest = 2 then
      match s.translate w.party (s.asidOf w) (s.warpWorld w) .store p.opD with
      | (s, .error e) => (s, .error (e.trap .store p.opD))
      | (s, .ok (leaf, _)) =>
        let p := { p with pages := [(p.opD / 2 ^ 18, leaf)] }
        match s.pressPages w .store p.opD (p.count * p.outBytes) with
        | (s, .error t) => (s, .error t)
        | (s, .ok pages) => (s, checked (round <|> s.heldFault p w.core <|> pressIf ((leaf :: pages.map (·.2)).any (fun l => badDest l.fmt l.geo)) 6) { p with pages := pages })
    else (s, checked (round <|> s.heldFault p w.core <|> pressIf (decide (p.dest = 1) && badDest p.t.fmt p.t.geo) 6) p)

/-- MXEP (R322). -/
def execMxep (x : XArgs) (s : State) : Host.Outcome State Fault Refusal :=
  pressCommand (.mxep x) x s (State.mxepAsk x) pressOn

/-- The select unit as the commands accepted so far leave it. Log 34. -/
def Press.selectAhead (p : Press) : Option Select :=
  match (p.queue.filterMap (fun c => match c.instr with | .mxsel _ => some c.settings | _ => none)).getLast? with
  | some u => some u
  | none => p.select

/-- What a configuring MXSEL checks (R323). -/
def State.mxselAsk (x : XArgs) (s : State) (c : Issue) (w : WarpCore) (p : PressCmd) : State × Except Trap PressCmd :=
  let p := { p with opA := s.wReg c w x.xa.toNat posA, opB := s.wReg c w x.xb.toNat posB }
  let u := p.settings
  (s, checked (s.heldFault p w.core <|> pressIf (u.perRow && decide (512 < u.first + u.lines)) 6) p)

/-- MXSEL, configuring (R323). -/
def execMxsel (x : XArgs) (s : State) : Host.Outcome State Fault Refusal :=
  pressCommand (.mxsel x) x s (State.mxselAsk x) pressOn

/-- What a readout checks (R323). Log 34. -/
def State.mxselReadAsk (x : XArgs) (s : State) (c : Issue) (w : WarpCore) (p : PressCmd) : State × Except Trap PressCmd :=
  let p := { p with opD := s.wReg c w x.xd.toNat posD }
  let n := match (s.pressOf w.core w.launch).selectAhead with | some u => u.bytes | none => 0
  (s, checked (s.vecTrap w p.opD 8 n <|> s.heldFault p w.core) p)

/-- MXSEL, reading out (R323). -/
def execMxselRead (x : XArgs) (s : State) : Host.Outcome State Fault Refusal :=
  pressCommand (.mxselRead x) x s (State.mxselReadAsk x) pressOn

/-- What the accumulator transfers check (R324). -/
def State.cellsAsk (x : XArgs) (spad : Bool) (s : State) (c : Issue) (w : WarpCore) (p : PressCmd) : State × Except Trap PressCmd :=
  let p := { p with opD := s.wReg c w x.xd.toNat posD, opA := s.wReg c w x.xa.toNat posA }
  (s, checked (accTrap p.opD p.cells 1 <|> (if spad then s.vecTrap w p.opA 16 (16 * p.cells) else none) <|> s.heldFault p w.core) p)

/-- ACCLD (R324). -/
def execAccld (x : XArgs) (s : State) : Host.Outcome State Fault Refusal := pressCommand (.accld x) x s (State.cellsAsk x true) pressOn
/-- ACCST (R324). -/
def execAccst (x : XArgs) (s : State) : Host.Outcome State Fault Refusal := pressCommand (.accst x) x s (State.cellsAsk x true) pressOn
/-- ACCZ (R324). -/
def execAccz (x : XArgs) (s : State) : Host.Outcome State Fault Refusal := pressCommand (.accz x) x s (State.cellsAsk x false) pressOn

/-- The image operand of MXSAVE and MXLOAD (R325). -/
def State.imageAsk (x : XArgs) (acc : Acc) (busy : Option Trap) (s : State) (c : Issue) (w : WarpCore) (p : PressCmd) : State × Except Trap PressCmd :=
  let va := s.wPair c w x.xa.toNat posA
  if va % 4096 ≠ 0 then (s, .error (trapAt .align va))
  else
    match s.pressPages w acc va imageBytes with
    | (s, .error t) => (s, .error t)
    | (s, .ok pages) => (s, checked (p.unholdable <|> busy) { p with opA := va, pages := pages })

/-- MXSAVE (R325). -/
def execMxsave (x : XArgs) (s : State) : Host.Outcome State Fault Refusal := pressCommand (.mxsave x) x s (State.imageAsk x .store none) pressOn

/-- MXLOAD's lanes wait for its completion (R325). -/
def State.awaitLoad (s : State) (c : Issue) (p : PressCmd) : State :=
  let n := (s.core (c.wid / 64)).press.last
  { s.startWait c c.lanes false (Wait.mk' (.mxload (Map.get 0 n p.slot).toNat) none .none false) with cur := none }

/-- What MXLOAD checks (R325). -/
def State.mxloadAsk (x : XArgs) (s : State) (c : Issue) (w : WarpCore) (p : PressCmd) : State × Except Trap PressCmd :=
  let held := (s.pressOf w.core w.launch).queue.any (fun e => e.held.isSome)
  State.imageAsk x .load (pressIf held 5) s c w p

/-- MXLOAD (R325). -/
def execMxload (x : XArgs) (s : State) : Host.Outcome State Fault Refusal :=
  pressCommand (.mxload x) x s (State.mxloadAsk x) State.awaitLoad true

/-! ### Progress (R326, R327) -/

/-- MXSEQ (R326). -/
def execMxseq (r : RArgs) (s : State) : Host.Outcome State Fault Refusal :=
  onWarp (.mxseq r) s fun c w =>
    let p := s.pressOf w.core w.launch
    let v : Word := if sub r.px = 0 then p.seq else if sub r.px = 1 then Map.get 0 p.last w.slot else BitVec.ofNat 32 (Map.get 0 p.out w.slot)
    (s.giveAll c r.d.toNat [v]).conclude c []

/-- SEQ has reached a number (R327). Log 34. -/
def Press.reached (p : Press) (n : Nat) : Bool := decide ((p.seq.toNat + 2 ^ 32 - n % 2 ^ 32) % 2 ^ 32 < 2 ^ 31)

/-- A wait on Press, or its end at once. -/
def State.pressWait (s : State) (c : Issue) (w : WarpCore) (r : RArgs) (kind : WaitKind) (holds : Bool) : State :=
  let t := Wait.mk' kind (s.deadline (r.vB s w c.lead)) (w.resolve r.d.toNat) false
  let s := { s.startWait c c.lanes false t with cur := none }
  if holds then s.finishWait c.wid c.lanes t 0 else s

/-- MXWAIT (R327). -/
def execMxwait (r : RArgs) (s : State) : Host.Outcome State Fault Refusal :=
  onWarp (.mxwait r) s fun c w => s.orCancel c w fun s c =>
    let n := (r.vA s w c.lead).toNat
    s.pressWait c w r (.press n) ((s.pressOf w.core w.launch).reached n)

/-- MXWAIT.out (R327). -/
def execMxwaitOut (r : RArgs) (s : State) : Host.Outcome State Fault Refusal :=
  onWarp (.mxwaitOut r) s fun c w => s.orCancel c w fun s c =>
    s.pressWait c w r .pressOut (decide (Map.get 0 (s.pressOf w.core w.launch).out w.slot = 0))

end Sys2Proof.Machine
end

