-- ==== Sys2Proof/Machine/Dispatch.lean ====
section
/-! DEFINITION. The meaning of every instruction: one arm for each row of the opcode table. -/

namespace Sys2Proof.Machine

/-- One step of the device. -/
def exec (i : Instr) (s : State) : Host.Outcome State Fault Refusal :=
  match i with
  | .add r => Sys2Proof.Machine.execAdd r s
  | .sub r => Sys2Proof.Machine.execSub r s
  | .mul r => Sys2Proof.Machine.execMul r s
  | .mulh r => Sys2Proof.Machine.execMulh r s
  | .mulhU r => Sys2Proof.Machine.execMulhU r s
  | .mad r => Sys2Proof.Machine.execMad r s
  | .div r => Sys2Proof.Machine.execDiv r s
  | .divU r => Sys2Proof.Machine.execDivU r s
  | .mod r => Sys2Proof.Machine.execMod r s
  | .modU r => Sys2Proof.Machine.execModU r s
  | .min r => Sys2Proof.Machine.execMin r s
  | .minU r => Sys2Proof.Machine.execMinU r s
  | .max r => Sys2Proof.Machine.execMax r s
  | .maxU r => Sys2Proof.Machine.execMaxU r s
  | .abs r => Sys2Proof.Machine.execAbs r s
  | .neg r => Sys2Proof.Machine.execNeg r s
  | .and r => Sys2Proof.Machine.execAnd r s
  | .or r => Sys2Proof.Machine.execOr r s
  | .xor r => Sys2Proof.Machine.execXor r s
  | .not r => Sys2Proof.Machine.execNot r s
  | .shl r => Sys2Proof.Machine.execShl r s
  | .shr r => Sys2Proof.Machine.execShr r s
  | .sra r => Sys2Proof.Machine.execSra r s
  | .bfx r => Sys2Proof.Machine.execBfx r s
  | .bfi r => Sys2Proof.Machine.execBfi r s
  | .popc r => Sys2Proof.Machine.execPopc r s
  | .clz r => Sys2Proof.Machine.execClz r s
  | .brev r => Sys2Proof.Machine.execBrev r s
  | .lea r => Sys2Proof.Machine.execLea r s
  | .addi x => Sys2Proof.Machine.execAddi x s
  | .andi x => Sys2Proof.Machine.execAndi x s
  | .ori x => Sys2Proof.Machine.execOri x s
  | .xori x => Sys2Proof.Machine.execXori x s
  | .shli x => Sys2Proof.Machine.execShli x s
  | .lui x => Sys2Proof.Machine.execLui x s
  | .fadd r => Sys2Proof.Machine.execFadd r s
  | .fsub r => Sys2Proof.Machine.execFsub r s
  | .fmul r => Sys2Proof.Machine.execFmul r s
  | .ffma r => Sys2Proof.Machine.execFfma r s
  | .fmin r => Sys2Proof.Machine.execFmin r s
  | .fmax r => Sys2Proof.Machine.execFmax r s
  | .fcmp r => Sys2Proof.Machine.execFcmp r s
  | .fsel r => Sys2Proof.Machine.execFsel r s
  | .frnd r => Sys2Proof.Machine.execFrnd r s
  | .fclass r => Sys2Proof.Machine.execFclass r s
  | .frcp r => Sys2Proof.Machine.execFrcp r s
  | .frsq r => Sys2Proof.Machine.execFrsq r s
  | .fsqrt r => Sys2Proof.Machine.execFsqrt r s
  | .fex2 r => Sys2Proof.Machine.execFex2 r s
  | .flg2 r => Sys2Proof.Machine.execFlg2 r s
  | .fsin r => Sys2Proof.Machine.execFsin r s
  | .fcos r => Sys2Proof.Machine.execFcos r s
  | .dadd r => Sys2Proof.Machine.execDadd r s
  | .dmul r => Sys2Proof.Machine.execDmul r s
  | .dfma r => Sys2Proof.Machine.execDfma r s
  | .cvt r => Sys2Proof.Machine.execCvt r s
  | .cvtn r => Sys2Proof.Machine.execCvtn r s
  | .amax r => Sys2Proof.Machine.execAmax r s
  | .scaleq r => Sys2Proof.Machine.execScaleq r s
  | .pack r => Sys2Proof.Machine.execPack r s
  | .unpack r => Sys2Proof.Machine.execUnpack r s
  | .cmpset r => Sys2Proof.Machine.execCmpset r s
  | .shfl r => Sys2Proof.Machine.execShfl r s
  | .vote r => Sys2Proof.Machine.execVote r s
  | .redw r => Sys2Proof.Machine.execRedw r s
  | .scanw r => Sys2Proof.Machine.execScanw r s
  | .matchLanes r => Sys2Proof.Machine.execMatchLanes r s
  | .kset k => Sys2Proof.Machine.execKset k s
  | .kmov k => Sys2Proof.Machine.execKmov k s
  | .kpop k => Sys2Proof.Machine.execKpop k s
  | .join k => Sys2Proof.Machine.execJoin k s
  | .leave k => Sys2Proof.Machine.execLeave k s
  | .kwait k => Sys2Proof.Machine.execKwait k s
  | .klogAnd k => Sys2Proof.Machine.execKlogAnd k s
  | .klogOr k => Sys2Proof.Machine.execKlogOr k s
  | .klogXor k => Sys2Proof.Machine.execKlogXor k s
  | .klogAndn k => Sys2Proof.Machine.execKlogAndn k s
  | .prio x => Sys2Proof.Machine.execPrio x s
  | .bra j => Sys2Proof.Machine.execBra j s
  | .brc c => Sys2Proof.Machine.execBrc c s
  | .jmpi r => Sys2Proof.Machine.execJmpi r s
  | .callw r => Sys2Proof.Machine.execCallw r s
  | .callk r => Sys2Proof.Machine.execCallk r s
  | .retw r => Sys2Proof.Machine.execRetw r s
  | .retwB r => Sys2Proof.Machine.execRetwB r s
  | .retk r => Sys2Proof.Machine.execRetk r s
  | .exit r => Sys2Proof.Machine.execExit r s
  | .nop r => Sys2Proof.Machine.execNop r s
  | .yield r => Sys2Proof.Machine.execYield r s
  | .yieldExpiry wid => Sys2Proof.Machine.execYieldExpiry wid s
  | .wbase r => Sys2Proof.Machine.execWbase r s
  | .ld m => Sys2Proof.Machine.execLd m s
  | .st m => Sys2Proof.Machine.execSt m s
  | .bteBulkCopy wid => Sys2Proof.Machine.execBteBulkCopy wid s
  | .ldt m => Sys2Proof.Machine.execLdt m s
  | .lds m => Sys2Proof.Machine.execLds m s
  | .sts m => Sys2Proof.Machine.execSts m s
  | .atomAdd r => Sys2Proof.Machine.execAtomAdd r s
  | .atomMinS r => Sys2Proof.Machine.execAtomMinS r s
  | .atomMaxS r => Sys2Proof.Machine.execAtomMaxS r s
  | .atomMinU r => Sys2Proof.Machine.execAtomMinU r s
  | .atomMaxU r => Sys2Proof.Machine.execAtomMaxU r s
  | .atomAnd r => Sys2Proof.Machine.execAtomAnd r s
  | .atomOr r => Sys2Proof.Machine.execAtomOr r s
  | .atomXor r => Sys2Proof.Machine.execAtomXor r s
  | .atomExch r => Sys2Proof.Machine.execAtomExch r s
  | .atomCas r => Sys2Proof.Machine.execAtomCas r s
  | .atomAddF32 r => Sys2Proof.Machine.execAtomAddF32 r s
  | .red op r => Sys2Proof.Machine.execRed op r s
  | .atomsAdd r => Sys2Proof.Machine.execAtomsAdd r s
  | .atomsMinS r => Sys2Proof.Machine.execAtomsMinS r s
  | .atomsMaxS r => Sys2Proof.Machine.execAtomsMaxS r s
  | .atomsMinU r => Sys2Proof.Machine.execAtomsMinU r s
  | .atomsMaxU r => Sys2Proof.Machine.execAtomsMaxU r s
  | .atomsAnd r => Sys2Proof.Machine.execAtomsAnd r s
  | .atomsOr r => Sys2Proof.Machine.execAtomsOr r s
  | .atomsXor r => Sys2Proof.Machine.execAtomsXor r s
  | .atomsExch r => Sys2Proof.Machine.execAtomsExch r s
  | .atomsCas r => Sys2Proof.Machine.execAtomsCas r s
  | .atomsAddF32 r => Sys2Proof.Machine.execAtomsAddF32 r s
  | .reds op r => Sys2Proof.Machine.execReds op r s
  | .fpush r => Sys2Proof.Machine.execFpush r s
  | .fpop r => Sys2Proof.Machine.execFpop r s
  | .pref r => Sys2Proof.Machine.execPref r s
  | .chint r => Sys2Proof.Machine.execChint r s
  | .bankcfg r => Sys2Proof.Machine.execBankcfg r s
  | .bankcfgComplete core bank => Sys2Proof.Machine.execBankcfgComplete core bank s
  | .phase r => Sys2Proof.Machine.execPhase r s
  | .fenceo r => Sys2Proof.Machine.execFenceo r s
  | .fencer r => Sys2Proof.Machine.execFencer r s
  | .publish r => Sys2Proof.Machine.execPublish r s
  | .shadowset r => Sys2Proof.Machine.execShadowset r s
  | .shadowsetDel r => Sys2Proof.Machine.execShadowsetDel r s
  | .ldc r => Sys2Proof.Machine.execLdc r s
  | .waitu cmp r => Sys2Proof.Machine.execWaitu cmp r s
  | .waitl cmp r => Sys2Proof.Machine.execWaitl cmp r s
  | .pegRegistration id => Sys2Proof.Machine.execPegRegistration id s
  | .pegRetry id => Sys2Proof.Machine.execPegRetry id s
  | .homeWrite wid => Sys2Proof.Machine.execHomeWrite wid s
  | .pegTimeout id => Sys2Proof.Machine.execPegTimeout id s
  | .barr r => Sys2Proof.Machine.execBarr r s
  | .bwait r => Sys2Proof.Machine.execBwait r s
  | .bsetm r => Sys2Proof.Machine.execBsetm r s
  | .tspawn r => Sys2Proof.Machine.execTspawn r s
  | .trange r => Sys2Proof.Machine.execTrange r s
  | .tnext r => Sys2Proof.Machine.execTnext r s
  | .tjoin r => Sys2Proof.Machine.execTjoin r s
  | .tend r => Sys2Proof.Machine.execTend r s
  | .tcancel r => Sys2Proof.Machine.execTcancel r s
  | .tself r => Sys2Proof.Machine.execTself r s
  | .fset r => Sys2Proof.Machine.execFset r s
  | .fwait r => Sys2Proof.Machine.execFwait r s
  | .lockw r => Sys2Proof.Machine.execLockw r s
  | .unlock r => Sys2Proof.Machine.execUnlock r s
  | .qput r => Sys2Proof.Machine.execQput r s
  | .qputProm r => Sys2Proof.Machine.execQputProm r s
  | .qputFill r => Sys2Proof.Machine.execQputFill r s
  | .qtake r => Sys2Proof.Machine.execQtake r s
  | .darnerPop core launch => Sys2Proof.Machine.execDarnerPop core launch s
  | .stealRequest core launch => Sys2Proof.Machine.execStealRequest core launch s
  | .stealWithdraw core launch => Sys2Proof.Machine.execStealWithdraw core launch s
  | .darnerAccessFault => Sys2Proof.Machine.execDarnerAccessFault s
  | .acp r => Sys2Proof.Machine.execAcp r s
  | .acpLand core idx => Sys2Proof.Machine.execAcpLand core idx s
  | .acpwait r => Sys2Proof.Machine.execAcpwait r s
  | .tplset r => Sys2Proof.Machine.execTplset r s
  | .swinit r => Sys2Proof.Machine.execSwinit r s
  | .syncw r => Sys2Proof.Machine.execSyncw r s
  | .btestat r => Sys2Proof.Machine.execBtestat r s
  | .btestatClr r => Sys2Proof.Machine.execBtestatClr r s
  | .bteRowLand core chan row => Sys2Proof.Machine.execBteRowLand core chan row s
  | .gather r => Sys2Proof.Machine.execGather r s
  | .scatter r => Sys2Proof.Machine.execScatter r s
  | .scatadd r => Sys2Proof.Machine.execScatadd r s
  | .gswait r => Sys2Proof.Machine.execGswait r s
  | .gswaitDup r => Sys2Proof.Machine.execGswaitDup r s
  | .gswaitOut r => Sys2Proof.Machine.execGswaitOut r s
  | .seamRowRequest die cmd entry => Sys2Proof.Machine.execSeamRowRequest die cmd entry s
  | .seamEntryLand die cmd entry => Sys2Proof.Machine.execSeamEntryLand die cmd entry s
  | .tslice t => Sys2Proof.Machine.execTslice t s
  | .tbind x => Sys2Proof.Machine.execTbind x s
  | .tzero x => Sys2Proof.Machine.execTzero x s
  | .mxlw x => Sys2Proof.Machine.execMxlw x s
  | .mxswap x => Sys2Proof.Machine.execMxswap x s
  | .mxmm x => Sys2Proof.Machine.execMxmm x s
  | .mxmms x => Sys2Proof.Machine.execMxmms x s
  | .mxep x => Sys2Proof.Machine.execMxep x s
  | .mxsel x => Sys2Proof.Machine.execMxsel x s
  | .mxselRead x => Sys2Proof.Machine.execMxselRead x s
  | .accld x => Sys2Proof.Machine.execAccld x s
  | .accst x => Sys2Proof.Machine.execAccst x s
  | .accz x => Sys2Proof.Machine.execAccz x s
  | .mxsave x => Sys2Proof.Machine.execMxsave x s
  | .mxload x => Sys2Proof.Machine.execMxload x s
  | .pressCommandComplete core => Sys2Proof.Machine.execPressCommandComplete core s
  | .tpset k => Sys2Proof.Machine.execTpset k s
  | .tplogAnd k => Sys2Proof.Machine.execTplogAnd k s
  | .tplogOr k => Sys2Proof.Machine.execTplogOr k s
  | .tplogXor k => Sys2Proof.Machine.execTplogXor k s
  | .tplogAndn k => Sys2Proof.Machine.execTplogAndn k s
  | .mxseq r => Sys2Proof.Machine.execMxseq r s
  | .mxwait r => Sys2Proof.Machine.execMxwait r s
  | .mxwaitOut r => Sys2Proof.Machine.execMxwaitOut r s
  | .bmv r => Sys2Proof.Machine.execBmv r s
  | .bfenceW r => Sys2Proof.Machine.execBfenceW r s
  | .bfenceR r => Sys2Proof.Machine.execBfenceR r s
  | .bmwait r => Sys2Proof.Machine.execBmwait r s
  | .bmwaitAll r => Sys2Proof.Machine.execBmwaitAll r s
  | .bmwaitSeq r => Sys2Proof.Machine.execBmwaitSeq r s
  | .bmwaitLast r => Sys2Proof.Machine.execBmwaitLast r s
  | .bcuCommandComplete wid => Sys2Proof.Machine.execBcuCommandComplete wid s
  | .xres r => Sys2Proof.Machine.execXres r s
  | .xresRel r => Sys2Proof.Machine.execXresRel r s
  | .xhit r => Sys2Proof.Machine.execXhit r s
  | .xage r => Sys2Proof.Machine.execXage r s
  | .xageNow r => Sys2Proof.Machine.execXageNow r s
  | .xquery r => Sys2Proof.Machine.execXquery r s
  | .hamperStagingComplete idx => Sys2Proof.Machine.execHamperStagingComplete idx s
  | .hamperAgeingStep asid => Sys2Proof.Machine.execHamperAgeingStep asid s
  | .trap r => Sys2Proof.Machine.execTrap r s
  | .tret r => Sys2Proof.Machine.execTret r s
  | .tretSkip r => Sys2Proof.Machine.execTretSkip r s
  | .rdctl r => Sys2Proof.Machine.execRdctl r s
  | .wrctl r => Sys2Proof.Machine.execWrctl r s
  | .ctxsave r => Sys2Proof.Machine.execCtxsave r s
  | .ctxload r => Sys2Proof.Machine.execCtxload r s
  | .ctxloadRearm r => Sys2Proof.Machine.execCtxloadRearm r s
  | .tlbinv r => Sys2Proof.Machine.execTlbinv r s
  | .smcVersion r => Sys2Proof.Machine.execSmcVersion r s
  | .smcAttest r => Sys2Proof.Machine.execSmcAttest r s
  | .smcLoadKeySlot r => Sys2Proof.Machine.execSmcLoadKeySlot r s
  | .smcSetRegionEntry r => Sys2Proof.Machine.execSmcSetRegionEntry r s
  | .smcReadErrorCounters r => Sys2Proof.Machine.execSmcReadErrorCounters r s
  | .smcPowerState r => Sys2Proof.Machine.execSmcPowerState r s
  | .smcSnapshot r => Sys2Proof.Machine.execSmcSnapshot r s
  | .smcBindFabricJob r => Sys2Proof.Machine.execSmcBindFabricJob r s
  | .smcLoadSnapshot r => Sys2Proof.Machine.execSmcLoadSnapshot r s
  | .registerWritePerformed wid lane reg => Sys2Proof.Machine.execRegisterWritePerformed wid lane reg s
  | .impreciseStoreFault => Sys2Proof.Machine.execImpreciseStoreFault s
  | .chunkClaim core launch => Sys2Proof.Machine.execChunkClaim core launch s
  | .warpEvictionSave wid => Sys2Proof.Machine.execWarpEvictionSave wid s
  | .warpRestore wid => Sys2Proof.Machine.execWarpRestore wid s
  | .contextCreate asid => Sys2Proof.Machine.execContextCreate asid s
  | .cpServeEntry asid queue => Sys2Proof.Machine.execCpServeEntry asid queue s
  | .nodeKernel graph => Sys2Proof.Machine.execNodeKernel graph s
  | .nodeTaskroot graph => Sys2Proof.Machine.execNodeTaskroot graph s
  | .nodeCopy graph => Sys2Proof.Machine.execNodeCopy graph s
  | .copyNodeComplete graph => Sys2Proof.Machine.execCopyNodeComplete graph s
  | .nodeCond graph => Sys2Proof.Machine.execNodeCond graph s
  | .nodeLoop graph => Sys2Proof.Machine.execNodeLoop graph s
  | .nodeWaitmem graph => Sys2Proof.Machine.execNodeWaitmem graph s
  | .nodeSignal graph => Sys2Proof.Machine.execNodeSignal graph s
  | .nodeEnd graph => Sys2Proof.Machine.execNodeEnd graph s
  | .hostWrite pa data => Sys2Proof.Machine.execHostWrite pa data s
  | .hostRead addr => Sys2Proof.Machine.execHostRead addr s
  | .flitReceive link flit => Sys2Proof.Machine.execFlitReceive link flit s
  | .linkHeartbeat link => Sys2Proof.Machine.execLinkHeartbeat link s
  | .moduleFailureDetect modId => Sys2Proof.Machine.execModuleFailureDetect modId s
  | .moduleReset => Sys2Proof.Machine.execModuleReset s
  | .bringupStage ok detail => Sys2Proof.Machine.execBringupStage ok detail s
  | .powerStateChange state mhz watts => Sys2Proof.Machine.execPowerStateChange state mhz watts s
  | .warpWaitDeadline wid => Sys2Proof.Machine.execWarpWaitDeadline wid s
  | .pipeIntervalEnd core quarter pipe => Sys2Proof.Machine.execPipeIntervalEnd core quarter pipe s

end Sys2Proof.Machine
end

