-- ==== Sys2Proof/Machine/Settle.lean ====
section
/-! DEFINITION. What follows from a step: the delivery of a recorded wait code at its warp (R220, R229), and the sweep that completes every wait on a counter (R12), every call, snapshot, launch and node whose condition has come about, and frees what a launch leaves on a core (R70, R292). -/

namespace Sys2Proof.Machine

/-! ### Delivery -/

/-- Waits of a warp with a recorded code. -/
def WarpCore.recorded (w : WarpCore) : List (Mask × Wait × Nat) :=
  w.frontier.filterMap (fun e => match e.state with
    | .wait _ t => t.code.map (fun c => (e.lanes, t, c))
    | _ => none)

/-- Waits with a recorded code in the resident warps of a quarter. -/
def State.recorded (s : State) (core q : Nat) : List (Nat × Mask × Wait × Nat) :=
  ((s.warps.filter (fun e => decide (e.1 / 64 = core) && decide (e.1 % 4 = q))).map (fun e => e.2.run.recorded.map (fun x => (e.1, x)))).flatten

/-- The lanes of a frontier entry get the code of their wait: FWAIT, LOCKW and QTAKE look again, any other wait completes (R220, R229, R259); a wait has slept when a write woke it (R221, R222). Log 48. -/
def State.deliverEntry (s : State) (x : Nat × Mask × Wait × Nat) : State :=
  let (wid, m, t, code) := x
  if t.looksAgain code then s.look wid m { t with slept := t.slept || decide (code = 1) } false else s.finishWait wid m t code

/-- The other frontier entries of a warp whose lanes have the registration of a wait (R225). -/
def State.sharers (s : State) (x : Nat × Mask × Wait × Nat) : List (Nat × Mask × Wait × Nat) :=
  match s.warp? x.1 with
  | none => []
  | some w => (w.recorded.map (fun e => (x.1, e))).filter (fun y => y.2.2.1.kind.reg?.isSome && decide (y.2.2.1.kind.reg? = x.2.2.1.kind.reg?) && decide (y ≠ x))

/-- A recorded code is delivered, to all lanes of its registration together (R225). Log 48. -/
def State.deliver (s : State) (x : Nat × Mask × Wait × Nat) : State := (s.sharers x).foldl State.deliverEntry (s.deliverEntry x)

/-! ### Waits on counters (R12) -/

/-- What a wait on a counter waits for has come about. -/
def State.counterHolds (s : State) (w : WarpCore) (t : Wait) : Bool :=
  match t.kind with
  | .acp mask => w.tagsClear mask
  | .press n => (s.pressOf w.core w.launch).reached n
  | .pressOut => decide (Map.get 0 (s.pressOf w.core w.launch).out w.slot = 0)
  | .bcu n => w.bcuReached n
  | .bcuAll => decide (w.bcuSeq = w.bcuLast)
  | .bcuFence => decide (w.bcuSeq = w.bcuLast)
  | .seamOut => decide (w.seamOut = 0)
  | .ctxsave asid => s.hasLeft asid
  | _ => false

/-- It came about by the wait's deadline (R224). -/
def State.counterDone (s : State) (w : WarpCore) (t : Wait) : Bool :=
  s.counterHolds w t && (match t.deadline with | some d => decide (s.ns ≤ d) | none => true)

/-- Code 1 for every wait of a warp on a counter that holds. -/
def Warp.settleWaits (s : State) (x : Warp) : Warp :=
  let f (w : WarpCore) : WarpCore := w.recordIf (fun t _ => s.counterDone w t) 1
  { run := f x.run, help := x.help.map f }

/-- Every wait on a counter, in resident and in saved warps; a saved one is marked runnable (R229). -/
def State.settleWaits (s : State) : State :=
  { s with
    marks := s.marks + 1
    warps := s.warps.map (fun e => (e.1, e.2.settleWaits s))
    saved := s.saved.map (fun (v : SavedWarp) =>
      let x := v.warp.settleWaits s
      if x = v.warp then v else { v with warp := x, marked := some (v.marked.getD s.marks) }) }

/-- Snapshots that are being taken: the warp, the ASID and the generation. -/
def State.snapshotsDue (s : State) : List (Nat × Nat × Nat) :=
  ((s.warps.map (fun e => (e.1, e.2)) ++ s.saved.map (fun v => (v.wid, v.warp))).map (fun e =>
    (e.2.run :: e.2.help).map (fun w => w.frontier.filterMap (fun x => match x.state with
      | .wait _ t => (match t.kind, t.code with | .snapshot a g, none => some (e.1, a, g) | _, _ => none)
      | _ => none)))).flatten.flatten

/-- Every snapshot goes on (R392). -/
def State.settleSnapshots (s : State) : State :=
  s.snapshotsDue.foldl (fun s e =>
    match s.trySnapshot e.2.1 e.2.2 with
    | (s, some code) => s.recordIf e.1 (fun t _ => decide (t.kind = .snapshot e.2.1 e.2.2)) code.toNat
    | (s, none) => s) s

/-! ### Accesses that a BANKCFG held back (R168) -/

/-- No BANKCFG of a launch's bank number `n` on a core is outstanding, wherever the bank is. -/
def State.bankFree (s : State) (core launch n : Nat) : Bool :=
  match (s.banksOf core launch)[n]? with
  | some b => (s.bank core b).cfg.isEmpty
  | none =>
    match (s.bankSave core launch).bind (fun x => x.banks[n]?) with
    | some b => b.cfg.isEmpty
    | none => true

/-- Lanes of a warp whose access may go on are READY where they stand. Log 52. -/
def WarpCore.freeAccess (s : State) (w : WarpCore) : WarpCore :=
  w.frontier.foldl (fun x e => match e.state with
    | .wait _ t => (match t.kind with | .access n => if s.bankFree w.core w.launch n then x.place e.lanes e.prio e.pc .ready else x | _ => x)
    | _ => x) w

/-- Every access that waited for a bank and may go on, in resident and in saved warps. -/
def State.settleAccesses (s : State) : State :=
  let f (x : Warp) : Warp := { run := x.run.freeAccess s, help := x.help.map (WarpCore.freeAccess s) }
  { s with
    warps := s.warps.map (fun e => (e.1, f e.2))
    saved := s.saved.map (fun (v : SavedWarp) => if f v.warp = v.warp then v else { v with warp := f v.warp, marked := some (v.marked.getD s.marks) }) }

/-! ### What a launch leaves on a core (R70, R292) -/

/-- A launch may start warps on a core again: a flat launch while a counter has chunks (R70, R74), a task launch while it has tasks (R75). Log 42. -/
def State.startsAgain (s : State) (core launch : Nat) : Bool :=
  match s.launches.find? launch with
  | none => false
  | some l => !l.stopped && l.holds core && (if l.task then !l.records.isEmpty else (l.ticket (dieOf core)).isSome)

/-- A launch has not left a core: it has a warp there, resident or not, or may start one there again. Log 42. -/
def State.staysOn (s : State) (core launch : Nat) : Bool := !(s.warpsOn core launch).isEmpty || s.startsAgain core launch

/-- A launch's accepted commands on a core that may reach its banks have not all completed: a warp that exits does not stop them (R157, R274). -/
def State.banksUsed (s : State) (core launch : Nat) : Bool :=
  (s.core core).busyFor launch || s.bcus.any (fun c => decide (c.launch = launch) && decide (c.wid / 64 = core) && !c.complete) ||
    (s.seam (dieOf core)).cmds.any (fun c => decide (c.launch = launch) && decide (c.wid / 64 = core))

/-- A core without what launches that have left it held: their banks, and their Press contexts with nothing queued. -/
def State.tidyCore (s : State) (core : Nat) (c : Core) : Core :=
  let stays (l : Nat) : Bool := s.staysOn core l
  { c with
    banks := c.banks.map (fun (b : Bank) => match b.owner with | some l => if stays l || s.banksUsed core l then b else Bank.atReset | none => b)
    press := (match c.press.owner with
      | some l => if stays l || !c.press.queue.isEmpty then c.press else Press.fresh
      | none => c.press)
    pressSaved := c.pressSaved.filter (fun e => stays e.1 || !e.2.queue.isEmpty)
    placed := c.placed.filter (fun a => (s.contextsOn core).contains a) ++ (s.contextsOn core).filter (fun a => !c.placed.contains a) }

/-- A launch whose Press context is saved may have it back: it has a warp on the core; or its warps there have all ended with commands queued, its context runs, and its banks have room (R157, R292). -/
def State.takesPress (s : State) (core launch : Nat) (p : Press) : Bool :=
  (s.widsOn core).any (fun x => decide (s.launchOf x = launch)) ||
    (!p.queue.isEmpty && !s.saved.any (fun v => decide (v.wid / 64 = core) && decide (v.warp.run.launch = launch)) && s.ctxRuns (s.launch launch).asid &&
      ((s.bankSave core launch).isNone || s.banksFit core launch))

/-- Press, unowned, goes back to a launch whose context it saved (R292), and that launch's banks with it when they were saved. Log 34. -/
def State.handBack (s : State) (core : Nat) : State :=
  let c := s.core core
  if c.press.owner.isSome then s
  else
    match (c.pressSaved.filter (fun e => s.takesPress core e.1 e.2)).head? with
    | some e => (if (s.bankSave core e.1).isSome then s.takeBanks core e.1 else s).ownPress core e.1
    | none => s

/-- Saved banks of a launch that has left their core are forgotten. -/
def State.dropSaves (s : State) : State :=
  (s.bankSaves.filter (fun x => !s.staysOn x.core x.launch && !s.banksUsed x.core x.launch)).foldl (fun s x =>
    let lo := savedKey x.launch x.core 0
    { s with bankSaves := s.bankSaves.filter (fun y => decide (y ≠ x)), mem := s.mem.eraseRange lo (lo + 2 ^ 20) }) s

/-- Every core. -/
def State.tidyCores (s : State) : State :=
  let s : State := { s with cores := s.cores.map (fun (e : Nat × Core) => (e.1, s.tidyCore e.1 e.2)) }
  (s.cores.foldl (fun (s : State) (e : Nat × Core) => s.handBack e.1) s).dropSaves

/-- A Peg Table entry that an uncorrectable error struck is dropped as it is read: its context ends, as by a save fault (R390, R411). Log 13. -/
def State.settleStruck (s : State) : State :=
  let hit := s.regs.filter (fun e => decide (e.2.place = .table ∨ e.2.place = .spilled) && s.poison.contains (pegBase + e.1))
  hit.foldl (fun s e => (s.count (dieOfKey e.2.key) 3 1).endContext e.2.asid 0) s

/-- Everything that a step may have brought about. -/
def State.sweep (s : State) : State :=
  (((s.settleLayouts.settleStruck.spoilTables.settleCancels.settleCalls.settleWaits.settleAccesses).leaveAll).settleSnapshots).tidyCores.settleNodes

end Sys2Proof.Machine
end

