-- ==== Sys2Proof/Machine/Turn.lean ====
section
/-! DEFINITION. One turn: a quarter issues (R59), or an event step of the device happens; then what follows from it, and the passing of time. -/

namespace Sys2Proof.Machine

/-- The warps of a quarter in rotation order: the first that can issue does (R59). One whose instruction stalled (R77) tries again at a later turn: what it did stands. Log 3, 51. -/
def State.issueFrom (core q : Nat) : List Nat → State → Host.Outcome State Fault Refusal
  | [], s => .next s
  | slot :: r, s =>
    let wid := widOf core slot
    if s.apertureStalled wid then State.issueFrom core q r s
    else
      let token := match s.warp? wid with | some w => w.token | none => 0
      match s.attempt core q wid with
      | none => State.issueFrom core q r s
      | some (s1, .trap c t d) => .next ((s1.issueTrap c t d).issued c token none)
      | some (s1, .ins i c) =>
        match exec i { s1 with cur := some c } with
        | .next s2 => if s2.cur.isSome then State.issueFrom core q r { s2 with cur := none } else .next (s2.issued c token (pipeOf c.insn))
        | .fault f => .fault f
        | .refused f => .refused f

/-- A quarter issues, when its next clock has come: at most one instruction a clock, in rotation (R59). -/
def State.issueSlot (s : State) (core q : Nat) : Host.Outcome State Fault Refusal :=
  if s.clk < ((s.core core).nextAt[q]?).getD 0 then .next s
  else State.issueFrom core q (rotation q (((s.core core).lastSlot[q]?).getD 0)) s

/-- A turn of a quarter of a core, of which there are four on each of 384 (R6, R59): a recorded wait code is delivered, or the quarter issues. Which of the two comes first is free. Log 3. -/
def State.issueTurn (s : State) (core q : Nat) : Host.Outcome State Fault Refusal :=
  if 384 ≤ core ∨ 4 ≤ q then .next s
  else
    match s.recorded core q with
    | x :: r =>
      if s.pick [49, core, q] 2 = 0 then .next (s.deliver (s.choose [50, core, q] x (x :: r))) else s.issueSlot core q
    | [] => s.issueSlot core q

/-- An event's turn: only a row of the opcode table that is no encoded instruction is an event. -/
def State.eventTurn (s : State) (i : Instr) : Host.Outcome State Fault Refusal :=
  if (encode i).isEmpty then exec i s else .next s

/-- The turn that the state names. -/
def State.runTurn (s : State) : Host.Outcome State Fault Refusal :=
  match s.turn with
  | .issue core q => s.issueTurn core q
  | .event i => s.eventTurn i

/-- The error counters after some corrections, saturating (R411, Table 25-6). Log 13. -/
def countCorrected (t : Table Nat) (l : List (Nat × Nat)) : Table Nat :=
  l.foldl (fun t e => if e.1 < 4 ∧ e.2 < 3 then Map.set 0 t (8 * e.1 + e.2) (min (2 ^ 64 - 1) (Map.get 0 t (8 * e.1 + e.2) + 1)) else t) t

/-- After a turn: what it brought about, the next turn, time, soft errors and corrections (log 3, log 13). -/
def State.endTurn (s : State) : State :=
  let s := { s with free := s.free + 1 }.sweep
  let n := s.free
  { s with
    free := n + 1
    turn := Config.turnAt n
    ns := s.ns + Config.nsAt n
    clk := s.clk + Config.clocksAt n
    poison := Config.struckAt n ++ s.poison
    counters := countCorrected s.counters (Config.correctedAt n) }

/-- One step: a turn and its end. Log 3. -/
def State.oneStep (s : State) : Host.Outcome State Fault Refusal :=
  match s.runTurn with
  | .next s => .next s.endTurn
  | .fault f => .fault f
  | .refused f => .refused f

end Sys2Proof.Machine
end

