-- ==== Sys2Proof/Machine/Step.lean ====
section
/-! DEFINITION. The step of the machine, and a state whose next step runs a given instruction. -/

namespace Sys2Proof.Machine

/-- One step of the module: the turn that the state names, and what follows from it. -/
def step (s : State) : Host.Outcome State Fault Refusal := s.oneStep

/-- Physical addresses of the tables that `withFetchWord` maps its context with. -/
def fetchTable1 : Nat := 0x3FE0020000
/-- The level-2 table. -/
def fetchTable2 : Nat := 0x3FE0040000
/-- Where the instruction stands: the page maps every address of the first 2 GiB to itself. -/
def fetchPc : Nat := 0x1000

/-- Memory with root entry, tables and code of a secure context with ASID 1: the first 2 GiB map to themselves with every right. Log 7. -/
def fetchMemory (m : Memory) (root : Nat) (code : List Byte) : Memory :=
  let m := m.write (root + 8) (bytesOfNat 8 (fetchTable1 + 1))
  let m := m.write fetchTable1 (bytesOfNat 8 (fetchTable2 + 1))
  let m := m.write fetchTable2 (bytesOfNat 8 0x1F)
  m.write fetchPc code

/-- The launch whose only warp runs the instruction. Log 7. -/
def fetchLaunch : Launch := { Launch.none with asid := 1, warps := 1, alloc := 512, entry := fetchPc, iters := 1, chunk := 1 }

/-- The context of that launch. Log 7. -/
def fetchContext : Context :=
  { rcd := { save := 0x10000000, faultq := 0x20000000, fqcap := 16, hamper := 0, qtable := 0, bgbase := 0, bgcount := 0, nq := 0, world := true },
    born := 1, bad := false, suspended := false, ended := false, queues := [], shadows := [], swaps := [], tableSeen := 0, ageFrom := 0, rearm := false }

/-- `s` with the instruction of bits `w` (`nbits` of them, zeros above) where the next step fetches: in a warp of 32 lanes on core 0, slot 0, of a launch of a secure context, whose turn it is (log 7). -/
def State.withFetchWord (s : State) (nbits w : Nat) : State :=
  let code := bytesOfNat 8 (w % 2 ^ nbits)
  let warp := WarpCore.fresh 0 0 1 0 0 512 0xFFFFFFFF fetchPc 1
  { s with
    turn := .issue 0 0
    cur := none
    mem := fetchMemory s.mem s.fw.rootArray code
    hist := []
    byteKeys := []
    poison := []
    undef := []
    tlb := []
    tlbinvs := []
    mixed := []
    warps := Table.insert (s.warps.filter (fun e => decide (64 ≤ e.1))) 0 { run := warp, help := [] }
    evicting := []
    launches := s.launches.insert 1 fetchLaunch
    ctxs := s.ctxs.insert 1 fetchContext
    cores := s.cores.erase 0 }

end Sys2Proof.Machine
end

