-- ==== Sys2Proof/Safety.lean ====
section
/-! DEFINITION. What a safe run is: every step answers a next state, and the state keeps the invariants of the model: the canonical form of memory and of the model's tables, and legal program counters. -/

namespace Sys2Proof.Safety

open Sys2Proof.Machine

/-- The step answers a next state. -/
def goesOn (s : State) : Bool :=
  match step s with
  | .next _ => true
  | .fault _ => false
  | .refused _ => false

/-- Memory is in its canonical form: keys rising, no entry equal to what an unlisted address reads as. -/
def memoryOk (s : State) : Bool := s.mem.wf

/-- `k` steps go on. -/
def safeFor : Nat → State → Bool
  | 0, _ => true
  | k + 1, s =>
    match step s with
    | .next s' => safeFor k s'
    | .fault _ => false
    | .refused _ => false

end Sys2Proof.Safety

namespace Sys2Proof.Machine

/-- A finite value as a rational number; 0 for a special one. -/
def FVal.num : FVal → ℚ
  | .fin n m e => (if n then -1 else 1) * (m : ℚ) * 2 ^ e
  | _ => 0

/-! ### What claims say of a warp -/

/-- The two lanes' registers are one cell: the same lane, or a warp-uniform register. -/
def Loc.shared : Loc → Bool
  | .uni _ => true
  | .none => false
  | .thread _ => false
  | .fp => false
  | .sp => false

/-- Only the registers, the uniform registers, the lanes' fp and sp and the list of outstanding writes differ. -/
def WarpCore.SameButRegs (w w' : WarpCore) : Prop :=
  { w' with regs := w.regs, w := w.w, lanes := w.lanes, out := w.out } = w ∧
    ∀ l < 32, { w'.lane l with fp := (w.lane l).fp, sp := (w.lane l).sp } = w.lane l

/-- What a write leaves in its place: the value, or, when an earlier write of it was outstanding, perhaps what it held (R41). -/
def Landed (w w' : WarpCore) (l : Nat) (c : Loc) (v : Word) : Prop :=
  w'.held? l c = v ∨ (w.stale l c ≠ [] ∧ w'.held? l c = w.held? l c)

/-- A register is one of a run of `n` that starts where field `r` names (R47); the field `zero` names none. -/
def inRun (w : WarpCore) (r n : Nat) (p : Loc) : Prop := r ≠ 120 ∧ ∃ j < n, p = (w.resolve r).plus j ∧ p ≠ .none

/-- Every register but a run of `n` in the lanes of `m` holds what it held; a warp-uniform register of the run may change for every lane. -/
def OtherRegs (w w' : WarpCore) (m : Mask) (r n : Nat) : Prop :=
  ∀ l < 32, ∀ p, ¬ (inRun w r n p ∧ (hasLane m l = true ∨ p.shared = true)) → w'.held? l p = w.held? l p

/-- The results of the lanes of `m` are in the run that field `r` names: in a lane register each lane's own, in a warp-uniform register the lowest lane's (R47); the field `zero` takes nothing. -/
def RunHolds (w w' : WarpCore) (m : Mask) (r n : Nat) (f : Nat → Nat → Word) : Prop :=
  r ≠ 120 → ∀ j < n, (w.resolve r).plus j ≠ .none →
    ∀ l < 32, hasLane m l = true → Landed w w' l ((w.resolve r).plus j) (f (if ((w.resolve r).plus j).shared then lowest m else l) j)

/-- The lanes of `m` stand in an entry of this priority, PC and state. -/
def Stand (w : WarpCore) (m : Mask) (prio pc : Nat) (st : EState) : Prop :=
  ∀ l < 32, hasLane m l = true → ∃ e, w.entryOf l = some e ∧ e.prio = prio ∧ e.pc = pc ∧ e.state = st

/-- Apart from registers, flags and where lanes stand, a warp is as it was. -/
def SameWarpRest (w w' : WarpCore) : Prop :=
  { w' with regs := w.regs, w := w.w, lanes := w.lanes, out := w.out, flags := w.flags, frontier := w.frontier } = w ∧
    ∀ l < 32, { w'.lane l with fp := (w.lane l).fp, sp := (w.lane l).sp } = w.lane l

/-! ### What claims say of the machine -/

/-- Instruction `i` issues, as `c`, from warp `w`, and its registers lie in the warp's allocation (R47). -/
structure Issuing (s : State) (c : Issue) (w : WarpCore) (i : Instr) : Prop where
  cur : s.cur = some c
  warp : s.warp? c.wid = some w
  window : w.windowFails i = false

/-- The instruction answers a next state, of which `P` holds. -/
def Completes (i : Instr) (s : State) (P : State → Prop) : Prop := ∃ t, exec i s = .next t ∧ P t

/-- Every byte of memory reads as before. -/
def SameMemory (s t : State) : Prop := ∀ a, t.mem.byte a = s.mem.byte a

/-- From `s` to `t` only the running state of warp `wid` changes, to `w'`: every other warp, what its help frames saved, all of memory, every special, exception and engine register stay. -/
def OnlyWarp (s t : State) (wid : Nat) (w' : WarpCore) : Prop :=
  t.cur = none ∧ t.warp? wid = some w' ∧ { t with warps := s.warps, cur := s.cur } = s ∧
    (∀ k, k ≠ wid → t.warps.find? k = s.warps.find? k) ∧ (t.warps.find? wid).map (·.help) = (s.warps.find? wid).map (·.help) ∧
    SameMemory s t

/-- The instruction wrote its results into a run of `n` registers that field `r` names, raised the flags `fl`, and went on: nothing else changed. -/
def RegResult (s t : State) (c : Issue) (w : WarpCore) (r n : Nat) (f : Nat → Nat → Word) (fl : Flags) : Prop :=
  ∃ w', OnlyWarp s t c.wid w' ∧ RunHolds w w' c.lanes r n f ∧ OtherRegs w w' c.lanes r n ∧ w'.flags = w.flags ||| fl ∧
    SameWarpRest w w' ∧ Stand w' c.lanes c.prio c.next .ready

end Sys2Proof.Machine

namespace Sys2Proof.Machine

/-- The instruction wrote mask register kN alone, at once, with the bits of lanes that live, and went on (R137). -/
def MaskResult (s t : State) (c : Issue) (w : WarpCore) (n : Nat) (v : Mask) : Prop :=
  ∃ w', OnlyWarp s t c.wid w' ∧ w'.mask n = v &&& w.live ∧ (∀ m, m ≠ n → w'.mask m = w.mask m) ∧
    { w' with k := w.k, frontier := w.frontier } = w ∧ Stand w' c.lanes c.prio c.next .ready

/-- The flags that the lanes of a set raise, gathered (R30). -/
def laneFlags (m : Mask) (f : Nat → Flags) : Flags := gatherFlags ((lanesOf m).map f)

/-- From `s`, only warp `wid` differs in `t`: it is `w` with the lanes of the instruction at the next one. -/
def WentOn (s t : State) (c : Issue) (w : WarpCore) : Prop :=
  ∃ w', OnlyWarp s t c.wid w' ∧ { w' with frontier := w.frontier } = w ∧ Stand w' c.lanes c.prio c.next .ready

/-- From `s`, only warp `wid` differs in `t`: it is `w` with its register writes performed (R41), and the lanes of the instruction wait at the next one; the wait knows whether the instruction bore a switch marker (R40). -/
def Waits (s t : State) (c : Issue) (w : WarpCore) (barrier : Bool) (k : Wait) : Prop :=
  ∃ w', OnlyWarp s t c.wid w' ∧ { w' with frontier := w.frontier, out := w.out, drained := w.drained } = w ∧ w'.out = [] ∧
    Stand w' c.lanes c.prio c.next (.wait barrier { k with sw := bit c.insn 31 })

/-- No lane of the set has a CANCEL trap due (R267). -/
def Undoomed (w : WarpCore) (m : Mask) : Prop := ∀ l < 32, hasLane m l = true → (w.lane l).doomed = false

/-- What a lane loaded, in the list of a wave's results. -/
def valueOf (xs : List (Nat × Nat)) (l : Nat) : Nat := ((xs.find? (fun e => decide (e.1 = l))).map (·.2)).getD 0

/-- A run of bytes was last written under the key that a slot has now (R408): nothing is decrypted anew. -/
def KeyInForce (s : State) (okey k n : Nat) : Prop := isSpad k = true ∨ ∀ x, k ≤ x → x < k + n → s.tagAt x = s.keyTag okey

/-- Bytes that read as memory holds them: no error struck them, their contents are defined (R175, R183, R209), their key is in force. -/
def CleanBytes (s : State) (okey k n : Nat) : Prop :=
  KeyInForce s okey k n ∧ ∀ x, k ≤ x → x < k + n → x ∉ s.poison ∧ s.isUndef x = false

/-- A word whose newest write a warp has had published to it since its last refresh, and which it has not read since: a plain read can only return that write (R206, R207). -/
def SettledWord (s : State) (w : WarpCore) (k : Nat) : Prop :=
  (∀ r ∈ w.reads, r.key ≠ k) ∧ offends w.party (s.histOf k) = false ∧
    match s.histOf k with
    | [] => True
    | h :: r => h.val = s.mem.word k ∧ 0 < h.seq ∧ h.seq ≤ w.refresh ∧ (∃ q, h.seenBy w.party = some q ∧ q ≤ w.refresh) ∧ ∀ x ∈ r, x.seq < h.seq

/-- Every word that a run of bytes touches is settled for a warp. -/
def SettledBytes (s : State) (w : WarpCore) (k n : Nat) : Prop := ∀ x ∈ wordKeys k n, SettledWord s w x

/-- Memory is as before but for the bytes from `k` on. -/
def Stored (s t : State) (k : Nat) (data : List Byte) : Prop :=
  ∀ a, t.mem.byte a = if k ≤ a ∧ a < k + data.length then (data[a - k]?).getD 0 else s.mem.byte a

/-- Memory is as before but for the bytes from `k` on, and for bytes of undefined contents in a word of which these fill a part (R4). -/
def StoredAmong (s t : State) (k : Nat) (data : List Byte) : Prop :=
  ∀ a, if k ≤ a ∧ a < k + data.length then t.mem.byte a = (data[a - k]?).getD 0
    else (s.isUndef a = false ∨ a / 4 * 4 ∉ wordKeys k data.length) → t.mem.byte a = s.mem.byte a

/-- The buffered stores of a warp that have no RED among them. -/
def NoReds (w : WarpCore) : Prop := ∀ p ∈ w.stores, p.red = none

/-- The instruction completes as `s'` and goes on: from `s'` only its warp differs, whose lanes stand at the next instruction; no register of it changes. -/
def Went (s' t : State) (c : Issue) : Prop := ∃ w, s'.warp? c.wid = some w ∧ WentOn s' t c w

/-- The instruction completes as `s'`, gives every active lane the same values in the run that field `r` names, and goes on. -/
def Gave (s' t : State) (c : Issue) (r : Nat) (vals : List Word) : Prop :=
  ∃ w, s'.warp? c.wid = some w ∧ RegResult s' t c w r vals.length (fun _ j => (vals[j]?).getD 0) 0

/-- The registers of two states of a warp hold the same values. -/
def SameRegs (w w' : WarpCore) : Prop := ∀ l p, w'.held? l p = w.held? l p

/-- A registration ended with a code (R220, R229): its entry is gone, every wait of warp `wid` on it without a code has this one, and memory is as it was. -/
def Recorded (s t : State) (wid id code : Nat) : Prop :=
  t.regs.find? id = none ∧ SameMemory s t ∧
    ∀ x, s.warps.find? wid = some x → t.warps.find? wid = some (x.recordIf (fun k _ => decide (k.kind.reg? = some id)) code)

/-- The read of a registration finds memory's bytes (R221): clean ones, through no shadow mapping, that the region table lets it reach and no atomic of a narrower scope wrote. -/
def SureReg (s : State) (r : Registration) : Prop :=
  r.shadow = false ∧ CleanBytes s r.okey r.key r.size ∧ s.deniedReg r = false ∧ ∀ y ∈ wordKeys r.key r.size, offends r.party (s.histOf y) = false

/-- A word at which an engine command can only read what memory holds (R213). -/
def EngineSettled (s : State) (p : Party) (c : Since) (k : Nat) : Prop :=
  offends p (s.histOf k) = false ∧ ∀ x ∈ s.engineChoices p c k, x.2 = s.mem.word k

/-- A run of bytes that an engine command reads as memory holds it. -/
def EngineClean (s : State) (p : Party) (c : Since) (okey k n : Nat) : Prop := CleanBytes s okey k n ∧ ∀ x ∈ wordKeys k n, EngineSettled s p c x

/-- The byte at a scratchpad offset of a launch on a core, as memory holds it; zero when there is none (R167). -/
def State.spadAt (s : State) (core launch off : Nat) : Byte :=
  match s.spadByte core launch off with
  | some k => s.mem.byte k
  | none => 0

/-- Scratchpad offsets whose bytes a Press command can only read as memory holds them. -/
def PressClean (s : State) (core : Nat) (p : PressCmd) (offs : List Nat) : Prop :=
  ∀ o ∈ offs, ∃ k, s.spadByte core p.launch o = some k ∧ isSpad k = true ∧ EngineClean s (.core core) p.sinceOf 0 k 1

/-- A launch's banks are on a core, or come there: nothing of them is saved, or what is can be read back (R81, R411). -/
def State.BanksCome (s : State) (core launch : Nat) : Prop :=
  let asid := (s.launch launch).asid
  s.banksOf core launch ≠ [] ∨ ∀ x ∈ s.bankSaves, x.core = core → x.launch = launch → s.bankSave core launch = some x ∧
    (s.readSaves asid (x.nos.map (fun b => (s.coreArea asid core + 0x10000 * b, 0x10000)))).2 = none

/-- A wait that ended at its instruction: the lanes stand at the next one, and the run from the place `dst` on holds these values, by offset. -/
def Answered (t : State) (c : Issue) (dst : Loc) (vals : List (Nat × Word)) : Prop := t.cur = none ∧ ∃ w', t.warp? c.wid = some w' ∧
  Stand w' c.lanes c.prio c.next .ready ∧ ∀ l < 32, hasLane c.lanes l = true → ∀ x ∈ vals, dst.plus x.1 ≠ .none → w'.held? l (dst.plus x.1) = x.2

end Sys2Proof.Machine
end

