-- ==== Sys2Proof/Certificates/Slice0/Obligations.lean ====
section
/-! DEFINITION. The statements for the provers. A statement about an instruction says that it completes for every form that issues with its registers in the allocation (`Issuing`), what it writes, and that nothing else changes (`RegResult` and its like, in Safety). -/

open Sys2Proof Sys2Proof.Machine

/-! ### Integer and bitwise instructions (chapter 6) -/

/-- R107: ADD, SUB and ADDI give the sum or difference modulo 2^32, set no flag, and change nothing but vD. R108: MUL and MAD keep the low half of the product, MULH and MULH.U the high half of the exact signed or unsigned one; MAD reads vD before it writes it. -/
def Obligations.SumsAndProducts : Prop := (∀ (s : State) (c : Issue) (w : WarpCore),
  (∀ r, Issuing s c w (.add r) → Completes (.add r) s fun t =>
    RegResult s t c w r.d.toNat 1 (fun l _ => BitVec.ofNat 32 (((r.vA s w l).toNat + (r.vB s w l).toNat) % 2 ^ 32)) 0) ∧
  (∀ r, Issuing s c w (.sub r) → Completes (.sub r) s fun t =>
    RegResult s t c w r.d.toNat 1 (fun l _ => BitVec.ofInt 32 (((r.vA s w l).toNat : Int) - (r.vB s w l).toNat)) 0) ∧
  (∀ i, Issuing s c w (.addi i) → Completes (.addi i) s fun t =>
    RegResult s t c w i.d.toNat 1 (fun l _ => BitVec.ofNat 32 (((s.rd w l i.a.toNat posA).toNat + i.imm32.toNat) % 2 ^ 32)) 0)) ∧
  (∀ (s : State) (c : Issue) (w : WarpCore),
  (∀ r, Issuing s c w (.mul r) → Completes (.mul r) s fun t =>
    RegResult s t c w r.d.toNat 1 (fun l _ => BitVec.ofNat 32 ((r.vA s w l).toNat * (r.vB s w l).toNat % 2 ^ 32)) 0) ∧
  (∀ r, Issuing s c w (.mulh r) → Completes (.mulh r) s fun t =>
    RegResult s t c w r.d.toNat 1 (fun l _ => (BitVec.ofInt 64 ((r.vA s w l).toInt * (r.vB s w l).toInt)).extractLsb' 32 32) 0) ∧
  (∀ r, Issuing s c w (.mulhU r) → Completes (.mulhU r) s fun t =>
    RegResult s t c w r.d.toNat 1 (fun l _ => (BitVec.ofNat 64 ((r.vA s w l).toNat * (r.vB s w l).toNat)).extractLsb' 32 32) 0) ∧
  (∀ r, Issuing s c w (.mad r) → Completes (.mad r) s fun t =>
    RegResult s t c w r.d.toNat 1 (fun l _ => BitVec.ofNat 32 (((r.vA s w l).toNat * (r.vB s w l).toNat + (r.vD s w l).toNat) % 2 ^ 32)) 0))

/-- R109: quotients truncate toward zero, a remainder is vA − quotient · vB, and Table 6-2 fixes the cases of a zero divisor and of the quotient that does not fit. -/
def Obligations.Divide : Prop := ∀ (s : State) (c : Issue) (w : WarpCore),
  (∀ r, Issuing s c w (.div r) → Completes (.div r) s fun t =>
    RegResult s t c w r.d.toNat 1 (fun l _ =>
      let a := r.vA s w l
      let b := r.vB s w l
      if b = 0 then 0xFFFFFFFF else BitVec.ofInt 32 (a.toInt.tdiv b.toInt)) 0) ∧
  (∀ r, Issuing s c w (.mod r) → Completes (.mod r) s fun t =>
    RegResult s t c w r.d.toNat 1 (fun l _ =>
      let a := r.vA s w l
      let b := r.vB s w l
      if b = 0 then 0xFFFFFFFF else BitVec.ofInt 32 (a.toInt - a.toInt.tdiv b.toInt * b.toInt)) 0) ∧
  (∀ r, Issuing s c w (.divU r) → Completes (.divU r) s fun t =>
    RegResult s t c w r.d.toNat 1 (fun l _ =>
      let a := r.vA s w l
      let b := r.vB s w l
      if b = 0 then 0xFFFFFFFF else BitVec.ofNat 32 (a.toNat / b.toNat)) 0) ∧
  (∀ r, Issuing s c w (.modU r) → Completes (.modU r) s fun t =>
    RegResult s t c w r.d.toNat 1 (fun l _ =>
      let a := r.vA s w l
      let b := r.vB s w l
      if b = 0 then 0xFFFFFFFF else BitVec.ofNat 32 (a.toNat - a.toNat / b.toNat * b.toNat)) 0)

/-- R110: signed and unsigned minimum and maximum, magnitude (0x8000_0000 gives itself) and negation modulo 2^32. R111, R112: the operation on each bit, with a register or with an immediate. -/
def Obligations.MinMaxAndLogic : Prop := (∀ (s : State) (c : Issue) (w : WarpCore),
  (∀ r, Issuing s c w (.min r) → Completes (.min r) s fun t =>
    RegResult s t c w r.d.toNat 1 (fun l _ => BitVec.ofInt 32 (min (r.vA s w l).toInt (r.vB s w l).toInt)) 0) ∧
  (∀ r, Issuing s c w (.minU r) → Completes (.minU r) s fun t =>
    RegResult s t c w r.d.toNat 1 (fun l _ => BitVec.ofNat 32 (min (r.vA s w l).toNat (r.vB s w l).toNat)) 0) ∧
  (∀ r, Issuing s c w (.max r) → Completes (.max r) s fun t =>
    RegResult s t c w r.d.toNat 1 (fun l _ => BitVec.ofInt 32 (max (r.vA s w l).toInt (r.vB s w l).toInt)) 0) ∧
  (∀ r, Issuing s c w (.maxU r) → Completes (.maxU r) s fun t =>
    RegResult s t c w r.d.toNat 1 (fun l _ => BitVec.ofNat 32 (max (r.vA s w l).toNat (r.vB s w l).toNat)) 0) ∧
  (∀ r, Issuing s c w (.abs r) → Completes (.abs r) s fun t =>
    RegResult s t c w r.d.toNat 1 (fun l _ => BitVec.ofNat 32 (r.vA s w l).toInt.natAbs) 0) ∧
  (∀ r, Issuing s c w (.neg r) → Completes (.neg r) s fun t =>
    RegResult s t c w r.d.toNat 1 (fun l _ => BitVec.ofInt 32 (-(r.vA s w l).toInt)) 0)) ∧
  (∀ (s : State) (c : Issue) (w : WarpCore),
  (∀ r, Issuing s c w (.and r) → Completes (.and r) s fun t =>
    RegResult s t c w r.d.toNat 1 (fun l _ => r.vA s w l &&& r.vB s w l) 0) ∧
  (∀ r, Issuing s c w (.or r) → Completes (.or r) s fun t =>
    RegResult s t c w r.d.toNat 1 (fun l _ => r.vA s w l ||| r.vB s w l) 0) ∧
  (∀ r, Issuing s c w (.xor r) → Completes (.xor r) s fun t =>
    RegResult s t c w r.d.toNat 1 (fun l _ => r.vA s w l ^^^ r.vB s w l) 0) ∧
  (∀ r, Issuing s c w (.not r) → Completes (.not r) s fun t =>
    RegResult s t c w r.d.toNat 1 (fun l _ => ~~~ r.vA s w l) 0) ∧
  (∀ i, Issuing s c w (.andi i) → Completes (.andi i) s fun t =>
    RegResult s t c w i.d.toNat 1 (fun l _ => s.rd w l i.a.toNat posA &&& i.imm32) 0) ∧
  (∀ i, Issuing s c w (.ori i) → Completes (.ori i) s fun t =>
    RegResult s t c w i.d.toNat 1 (fun l _ => s.rd w l i.a.toNat posA ||| i.imm32) 0) ∧
  (∀ i, Issuing s c w (.xori i) → Completes (.xori i) s fun t =>
    RegResult s t c w i.d.toNat 1 (fun l _ => s.rd w l i.a.toNat posA ^^^ i.imm32) 0))

/-- R113, R114, R115: the whole of vB is the shift amount; amounts of 32 and more empty SHL and SHR and fill SRA with the sign; SHLI shifts by 0 to 31; LUI places its field in bits [31:21]. R116, R117, bit by bit: BFX takes a field (bits past vA[31] read 0; a signed one repeats its top bit), BFI puts one in, POPC counts the set bits, CLZ the zeros above the highest one, BREV reverses. -/
def Obligations.ShiftsAndFields : Prop := (∀ (s : State) (c : Issue) (w : WarpCore),
  (∀ r, Issuing s c w (.shl r) → Completes (.shl r) s fun t =>
    RegResult s t c w r.d.toNat 1 (fun l _ => BitVec.ofNat 32 ((r.vA s w l).toNat * 2 ^ (r.vB s w l).toNat)) 0) ∧
  (∀ r, Issuing s c w (.shr r) → Completes (.shr r) s fun t =>
    RegResult s t c w r.d.toNat 1 (fun l _ => BitVec.ofNat 32 ((r.vA s w l).toNat / 2 ^ (r.vB s w l).toNat)) 0) ∧
  (∀ r, Issuing s c w (.sra r) → Completes (.sra r) s fun t =>
    RegResult s t c w r.d.toNat 1 (fun l _ => BitVec.ofInt 32 ((r.vA s w l).toInt / 2 ^ (r.vB s w l).toNat)) 0) ∧
  (∀ i, Issuing s c w (.shli i) → Completes (.shli i) s fun t =>
    RegResult s t c w i.d.toNat 1 (fun l _ => BitVec.ofNat 32 ((s.rd w l i.a.toNat posA).toNat * 2 ^ (i.imm.toNat % 32))) 0) ∧
  (∀ i, Issuing s c w (.lui i) → Completes (.lui i) s fun t =>
    RegResult s t c w i.d.toNat 1 (fun _ _ => BitVec.ofNat 32 (i.imm.toNat * 2 ^ 21)) 0)) ∧
  (∀ (s : State) (c : Issue) (w : WarpCore),
  (∀ r, Issuing s c w (.bfx r) → Completes (.bfx r) s fun t => ∃ f : Nat → Word, RegResult s t c w r.d.toNat 1 (fun l _ => f l) 0 ∧
    ∀ l, let a := r.vA s w l
      let b := (r.vB s w l).toNat
      let wid := min (bits b 13 8) 32
      ∀ j < 32, (f l).getLsbD j =
        if j < wid then a.getLsbD (bits b 4 0 + j) else bit b 15 && decide (0 < wid) && a.getLsbD (bits b 4 0 + (wid - 1))) ∧
  (∀ r, Issuing s c w (.bfi r) → Completes (.bfi r) s fun t => ∃ f : Nat → Word, RegResult s t c w r.d.toNat 1 (fun l _ => f l) 0 ∧
    ∀ l, let b := (r.vB s w l).toNat
      ∀ j < 32, (f l).getLsbD j =
        if bits b 4 0 ≤ j ∧ j < bits b 4 0 + min (bits b 13 8) 32 then (r.vA s w l).getLsbD (j - bits b 4 0) else (r.vD s w l).getLsbD j) ∧
  (∀ r, Issuing s c w (.popc r) → Completes (.popc r) s fun t =>
    RegResult s t c w r.d.toNat 1 (fun l _ => BitVec.ofNat 32 ((List.range 32).countP (fun j => (r.vA s w l).getLsbD j))) 0) ∧
  (∀ r, Issuing s c w (.clz r) → Completes (.clz r) s fun t => ∃ f : Nat → Word, RegResult s t c w r.d.toNat 1 (fun l _ => f l) 0 ∧
    ∀ l, (f l).toNat ≤ 32 ∧ (∀ j, 32 - (f l).toNat ≤ j → (r.vA s w l).getLsbD j = false) ∧
      ((f l).toNat < 32 → (r.vA s w l).getLsbD (31 - (f l).toNat) = true)) ∧
  (∀ r, Issuing s c w (.brev r) → Completes (.brev r) s fun t => ∃ f : Nat → Word, RegResult s t c w r.d.toNat 1 (fun l _ => f l) 0 ∧
    ∀ l, ∀ j < 32, (f l).getLsbD j = (r.vA s w l).getLsbD (31 - j)))

/-- R118, R134: LEA adds a scaled index to a 64-bit base, modulo 2^64; CMPSET gives 1 or 0 by the condition in sub. -/
def Obligations.AddressAndCompare : Prop := ∀ (s : State) (c : Issue) (w : WarpCore),
  (∀ r, Issuing s c w (.lea r) → Completes (.lea r) s fun t => ∃ v : Nat → DWord,
    RegResult s t c w r.d.toNat 2 (fun l j => if j = 0 then loWord (v l) else hiWord (v l)) 0 ∧
    ∀ l, let b := r.vB s w l
      let x : Int := if 8 ≤ sub r.px then (b.toNat : Int) else b.toInt
      v l = BitVec.ofInt 64 ((r.pairA s w l).toNat + x * 2 ^ (sub r.px % 8))) ∧
  (∀ r, Issuing s c w (.cmpset r) → sub r.px < 10 → Completes (.cmpset r) s fun t =>
    RegResult s t c w r.d.toNat 1 (fun l _ =>
      let a := r.vA s w l
      let b := r.vB s w l
      if [decide (a = b), decide (a ≠ b), decide (a.toInt < b.toInt), decide (a.toInt ≤ b.toInt), decide (b.toInt < a.toInt), decide (b.toInt ≤ a.toInt),
          decide (a.toNat < b.toNat), decide (a.toNat ≤ b.toNat), decide (b.toNat < a.toNat), decide (b.toNat ≤ a.toNat)][sub r.px]? = some true
      then 1 else 0) 0)

/-! ### Floating point, conversion, narrow elements (chapter 6) -/

/-- R119, R120, R127: each result is the exact sum, product or product and sum, rounded once by the mode in sub; the flags of the active lanes gather in the warp's status and no flag is cleared. FFMA and DFMA read the old destination. -/
def Obligations.FloatArithmetic : Prop := ∀ (s : State) (c : Issue) (w : WarpCore),
  let one (i : Instr) (r : RArgs) (f : Word → Word → Word → Nat × Flags) : Prop := Issuing s c w i → Completes i s fun t =>
    RegResult s t c w r.d.toNat 1 (fun l _ => BitVec.ofNat 32 (f (r.vD s w l) (r.vA s w l) (r.vB s w l)).1)
      (laneFlags c.lanes fun l => (f (r.vD s w l) (r.vA s w l) (r.vB s w l)).2)
  let two (i : Instr) (r : RArgs) (f : DWord → DWord → DWord → Nat × Flags) : Prop := Issuing s c w i → Completes i s fun t =>
    RegResult s t c w r.d.toNat 2 (fun l j => let x := BitVec.ofNat 64 (f (r.pairD s w l) (r.pairA s w l) (r.pairB s w l)).1; if j = 0 then loWord x else hiWord x)
      (laneFlags c.lanes fun l => (f (r.pairD s w l) (r.pairA s w l) (r.pairB s w l)).2)
  let v32 (x : Word) : FVal := f32.decode x.toNat
  let v64 (x : DWord) : FVal := f64.decode x.toNat
  (∀ r, one (.fadd r) r fun _ a b => f32.finish r.mode ((v32 a).add r.mode (v32 b))) ∧
  (∀ r, one (.fsub r) r fun _ a b => f32.finish r.mode ((v32 a).add r.mode (v32 b).neg)) ∧
  (∀ r, one (.fmul r) r fun _ a b => f32.finish r.mode ((v32 a).mul (v32 b))) ∧
  (∀ r, one (.ffma r) r fun d a b => f32.finish r.mode (FVal.fma r.mode (v32 a) (v32 b) (v32 d))) ∧
  (∀ r, two (.dadd r) r fun _ a b => f64.finish r.mode ((v64 a).add r.mode (v64 b))) ∧
  (∀ r, two (.dmul r) r fun _ a b => f64.finish r.mode ((v64 a).mul (v64 b))) ∧
  (∀ r, two (.dfma r) r fun d a b => f64.finish r.mode (FVal.fma r.mode (v64 a) (v64 b) (v64 d)))

/-- R121 to R125: FMIN and FMAX pick an operand, never a NaN beside a number, with -0 below +0; FSEL copies bits; FCMP gives 1 or 0, and INVALID for an ordered condition that meets a NaN; FRND passes infinities and zeros, makes NaN canonical and gives a finite operand's integral value under the mode, of its sign; FCLASS sets the one bit that Table 6-4 gives the operand's class. None but FCMP raises a flag. R126 with Table 6-5: each function of an FP32 operand rounds its exact value once; the special operands give the table's results and flags; a NaN gives the canonical NaN and no flag. The model's choice: log 11: how the exact value of a transcendental function is bounded. -/
def Obligations.FloatFunctions : Prop := (∀ (s : State) (c : Issue) (w : WarpCore),
  let nan (x : Word) : Bool := (f32.decode x.toNat).isNan
  let least (big : Bool) (r : RArgs) (f : Nat → Word) : Prop := ∀ l,
    let a := r.vA s w l
    let b := r.vB s w l
    (nan a = true → nan b = true → f l = 0x7FC00000) ∧ (nan a = true → nan b = false → f l = b) ∧ (nan a = false → nan b = true → f l = a) ∧
      (nan a = false → nan b = false → (f l = a ∨ f l = b) ∧
        ∀ x y, (x = a ∧ y = b ∨ x = b ∧ y = a) → (f32.decode x.toNat).compare? (f32.decode y.toNat) = some .lt → f l = if big then y else x) ∧
      (a = 0x80000000 ∧ b = 0 ∨ a = 0 ∧ b = 0x80000000 → f l = if big then 0 else 0x80000000)
  (∀ r, Issuing s c w (.fmin r) → Completes (.fmin r) s fun t => ∃ f : Nat → Word, RegResult s t c w r.d.toNat 1 (fun l _ => f l) 0 ∧ least false r f) ∧
  (∀ r, Issuing s c w (.fmax r) → Completes (.fmax r) s fun t => ∃ f : Nat → Word, RegResult s t c w r.d.toNat 1 (fun l _ => f l) 0 ∧ least true r f) ∧
  (∀ r, Issuing s c w (.fsel r) → Completes (.fsel r) s fun t =>
    RegResult s t c w r.d.toNat 1 (fun l _ => if r.vD s w l ≠ 0 then r.vA s w l else r.vB s w l) 0) ∧
  (∀ r, Issuing s c w (.fcmp r) → sub r.px < 8 → Completes (.fcmp r) s fun t =>
    let val (p : Nat) (l : Nat) : FVal :=
      if fmtA r.px = 4 then f64.decode (if p = 0 then (r.pairA s w l).toNat else (r.pairB s w l).toNat)
      else f32.decode (if p = 0 then (r.vA s w l).toNat else (r.vB s w l).toNat)
    let row (o : Option Ordering) : List Bool :=
      [decide (o = some .eq), decide (o ≠ some .eq), decide (o = some .lt), decide (o = some .lt ∨ o = some .eq), decide (o = some .gt),
        decide (o = some .gt ∨ o = some .eq), o.isNone, o.isSome]
    RegResult s t c w r.d.toNat 1 (fun l _ => if (row ((val 0 l).compare? (val 1 l)))[sub r.px]? = some true then 1 else 0)
      (laneFlags c.lanes fun l => if ((val 0 l).isNan || (val 1 l).isNan) = true ∧ 2 ≤ sub r.px ∧ sub r.px ≤ 5 then Flags.invalid else 0)) ∧
  (∀ r, Issuing s c w (.frnd r) → Completes (.frnd r) s fun t => ∃ f : Nat → Word, RegResult s t c w r.d.toNat 1 (fun l _ => f l) 0 ∧
    ∀ l, let x := f32.decode (r.vA s w l).toNat
      (nan (r.vA s w l) = true → f l = 0x7FC00000) ∧ (x.isInf = true ∨ x.isZero = true → f l = r.vA s w l) ∧
      (x.special = false → (f l).msb = (r.vA s w l).msb ∧ ∃ z : Int, (f32.decode (f l).toNat).special = false ∧ (f32.decode (f l).toNat).num = z ∧
        z = if r.mode = 1 then (if 0 ≤ x.num then ⌊x.num⌋ else ⌈x.num⌉) else if r.mode = 2 then ⌈x.num⌉ else if r.mode = 3 then ⌊x.num⌋
          else if x.num - ⌊x.num⌋ < 1 / 2 ∨ (x.num - ⌊x.num⌋ = 1 / 2 ∧ Even ⌊x.num⌋) then ⌊x.num⌋ else ⌊x.num⌋ + 1)) ∧
  (∀ r, Issuing s c w (.fclass r) → Completes (.fclass r) s fun t => RegResult s t c w r.d.toNat 1 (fun l _ =>
    let f : FloatFmt := if fmtA r.px = 2 then f16 else if fmtA r.px = 3 then bf16 else if fmtA r.px = 4 then f64 else f32
    let raw : Nat := (if fmtA r.px = 4 then (r.pairA s w l).toNat else (r.vA s w l).toNat) % 2 ^ f.width
    let neg : Bool := bit raw (f.width - 1)
    let class_ : Nat := match f.decode raw with
      | .nan => if bit raw (f.sig - 2) then 9 else 8
      | .inf _ => if neg then 0 else 7
      | .fin _ m _ => if m = 0 then (if neg then 3 else 4) else if m < 2 ^ (f.sig - 1) then (if neg then 2 else 5) else if neg then 1 else 6
    BitVec.ofNat 32 (2 ^ class_)) 0)) ∧
  ((∀ (s : State) (c : Issue) (w : WarpCore),
    let one (i : Instr) (r : RArgs) (k mode : Nat) : Prop := Issuing s c w i → Completes i s fun t =>
      RegResult s t c w r.d.toNat 1 (fun l _ => BitVec.ofNat 32 (f32.finish mode (funcVal k (f32.decode (r.vA s w l).toNat))).1)
        (laneFlags c.lanes fun l => (f32.finish mode (funcVal k (f32.decode (r.vA s w l).toNat))).2)
    (∀ r, one (.frcp r) r 0 r.mode) ∧ (∀ r, one (.frsq r) r 1 0) ∧ (∀ r, one (.fsqrt r) r 2 r.mode) ∧ (∀ r, one (.fex2 r) r 3 0) ∧
    (∀ r, one (.flg2 r) r 4 0) ∧ (∀ r, one (.fsin r) r 5 0) ∧ (∀ r, one (.fcos r) r 6 0)) ∧
  (∀ k x, (f32Val x).isNan = true → func32 k 0 x = (0x7FC00000, 0)) ∧
  (List.range 7).map (fun k => [0xFF800000, 0x80000000, 0, 0x7F800000].map (fun x => func32 k 0 x)) =
    [[(0x80000000, 0), (0xFF800000, Flags.divZero), (0x7F800000, Flags.divZero), (0, 0)],
     [(0x7FC00000, Flags.invalid), (0xFF800000, Flags.divZero), (0x7F800000, Flags.divZero), (0, 0)],
     [(0x7FC00000, Flags.invalid), (0x80000000, 0), (0, 0), (0x7F800000, 0)],
     [(0, 0), (0x3F800000, 0), (0x3F800000, 0), (0x7F800000, 0)],
     [(0x7FC00000, Flags.invalid), (0xFF800000, Flags.divZero), (0xFF800000, Flags.divZero), (0x7F800000, 0)],
     [(0x7FC00000, Flags.invalid), (0x80000000, 0), (0, 0), (0x7FC00000, Flags.invalid)],
     [(0x7FC00000, Flags.invalid), (0x3F800000, 0), (0x3F800000, 0), (0x7FC00000, Flags.invalid)]])

/-- R128 to R130, R27: CVT and CVTN put into vD the element that conversion of the decoded source, or of its quotient by the block scale, gives, placed as Table 6-6 says; each active lane's own stream alone may advance. R131 to R133: AMAX gives every active lane the largest magnitude of its group's active lanes (NaN over all), SCALEQ the scale code of a magnitude, PACK and UNPACK move one narrow element. SCALEQ alone can raise a flag. The model's choice: log 18: INEXACT after a conversion to an integer. -/
def Obligations.ConversionAndScales : Prop := (∀ (s : State) (c : Issue) (w : WarpCore),
  let conv (i : Instr) (r : RArgs) (x : Nat → FVal) : Prop := Issuing s c w i → ∀ f, elemFmt (fmtB r.px) = some f → Completes i s fun t =>
    let res (l : Nat) : Rounded := f.encode (sub r.px) (x l) (w.lane l).stream
    let n := if fmtB r.px = 4 then 2 else 1
    ∃ w', OnlyWarp s t c.wid w' ∧
      RunHolds w w' c.lanes r.d.toNat n (fun l j => if j = 0 then loWord (placeElem f (res l).code) else hiWord (placeElem f (res l).code)) ∧
      OtherRegs w w' c.lanes r.d.toNat n ∧ w'.flags = w.flags ||| laneFlags c.lanes (fun l => (res l).flags) ∧
      (∀ l < 32, (w'.lane l).stream = if hasLane c.lanes l then (res l).stream else (w.lane l).stream) ∧
      { w' with regs := w.regs, w := w.w, lanes := w.lanes, out := w.out, flags := w.flags, frontier := w.frontier } = w ∧
      (∀ l < 32, { w'.lane l with fp := (w.lane l).fp, sp := (w.lane l).sp, stream := (w.lane l).stream } = w.lane l) ∧
      Stand w' c.lanes c.prio c.next .ready
  (∀ r, conv (.cvt r) r fun l => decodeCode (fmtA r.px) (RArgs.elemA r s w l (fmtA r.px))) ∧
  (∀ r, conv (.cvtn r) r fun l =>
    let src := if fmtA r.px = 0 then 1 else fmtA r.px
    let code := (r.vB s w l).toNat % 256
    if code = 255 then .nan else (decodeCode src (RArgs.elemA r s w l src)).scale (127 - (code : Int)))) ∧
  (∀ (s : State) (c : Issue) (w : WarpCore),
  (∀ r, Issuing s c w (.amax r) → sub r.px < 4 → Completes (.amax r) s fun t => ∃ f : Nat → Word, RegResult s t c w r.d.toNat 1 (fun l _ => f l) 0 ∧
    ∀ l, hasLane c.lanes l = true →
      let mine (k : Nat) : Prop := hasLane c.lanes k = true ∧ k / (32 / 2 ^ sub r.px) = l / (32 / 2 ^ sub r.px)
      ((∃ k, mine k ∧ isNan32 (r.vA s w k) = true) → f l = 0x7FC00000) ∧
      ((∀ k, mine k → isNan32 (r.vA s w k) = false) → (f l).msb = false ∧ (∃ k, mine k ∧ f l = r.vA s w k &&& 0x7FFFFFFF) ∧
        ∀ k, mine k → (f32Val (r.vA s w k &&& 0x7FFFFFFF)).compare? (f32Val (f l)) ≠ some .gt)) ∧
  (∀ r, Issuing s c w (.scaleq r) → ∀ f, elemFmt (fmtB r.px) = some f → Completes (.scaleq r) s fun t =>
    RegResult s t c w r.d.toNat 1 (fun l _ => BitVec.ofNat 32 (scaleCode f (f32.decode ((r.vA s w l).toNat % 2 ^ 31))).1)
      (laneFlags c.lanes fun l => (scaleCode f (f32.decode ((r.vA s w l).toNat % 2 ^ 31))).2)) ∧
  (∀ r, Issuing s c w (.pack r) → sub r.px < 3 → Completes (.pack r) s fun t => ∃ f : Nat → Word, RegResult s t c w r.d.toNat 1 (fun l _ => f l) 0 ∧
    ∀ l, let n := ([8, 16, 4][sub r.px]?).getD 0
      let e := (r.vB s w l).toNat % (32 / n)
      ∀ j < 32, (f l).getLsbD j = if j / n = e then (r.vA s w l).getLsbD (j % n) else (r.vD s w l).getLsbD j) ∧
  (∀ r, Issuing s c w (.unpack r) → sub r.px < 7 → sub r.px ≠ 3 → Completes (.unpack r) s fun t => ∃ f : Nat → Word, RegResult s t c w r.d.toNat 1 (fun l _ => f l) 0 ∧
    ∀ l, let n := ([8, 16, 4][sub r.px % 4]?).getD 0
      let e := (r.vB s w l).toNat % (32 / n)
      ∀ j < 32, (f l).getLsbD j = if j < n then (r.vA s w l).getLsbD (n * e + j) else decide (4 ≤ sub r.px) && (r.vA s w l).getLsbD (n * e + (n - 1))))

/-! ### Lanes, masks, control (chapter 7) -/

/-- R136, R139 to R142: lane exchanges read active lanes alone and write active lanes alone. SHFL takes its source lane's value or keeps its own; VOTE and MATCH name lanes by their bits; REDW folds by halves and SCANW from lane 0, with the operator's identity in the place of an inactive lane, and their flags are those of the steps that gave the active lanes' results. R137, R143 to R146: mask writes, at once, never naming a lane that is not live; KMOV and KPOP into a register. -/
def Obligations.LanesAndMasks : Prop := (∀ (s : State) (c : Issue) (w : WarpCore),
  (∀ r, Issuing s c w (.shfl r) → Completes (.shfl r) s fun t =>
    RegResult s t c w r.d.toNat 1 (fun l _ =>
      let n := (r.vB s w l).toNat
      let wid := 32 / 2 ^ (sub r.px / 4 % 4)
      let base := l - l % wid
      let src : Int := if sub r.px % 4 = 0 then base + n % wid else if sub r.px % 4 = 1 then l - n else if sub r.px % 4 = 2 then l + n else ((l ^^^ (n % wid) : Nat) : Int)
      if (base : Int) ≤ src ∧ src < base + wid ∧ hasLane c.lanes src.toNat = true then r.vA s w src.toNat else r.vA s w l) 0) ∧
  (∀ r, Issuing s c w (.vote r) → sub r.px < 4 → Completes (.vote r) s fun t => ∃ v : Word, RegResult s t c w r.d.toNat 1 (fun _ _ => v) 0 ∧
    (sub r.px ≠ 2 → v = 0 ∨ v = 1) ∧
    (sub r.px = 0 → (v = 1 ↔ ∃ l < 32, hasLane c.lanes l = true ∧ r.vA s w l ≠ 0)) ∧
    (sub r.px = 1 → (v = 1 ↔ ∀ l < 32, hasLane c.lanes l = true → r.vA s w l ≠ 0)) ∧
    (sub r.px = 2 → ∀ l < 32, v.getLsbD l = (hasLane c.lanes l && decide (r.vA s w l ≠ 0))) ∧
    (sub r.px = 3 → (v = 1 ↔ ∀ l < 32, hasLane c.lanes l = true → ∀ k < 32, hasLane c.lanes k = true → r.vA s w l = r.vA s w k))) ∧
  (∀ r, Issuing s c w (.redw r) → Completes (.redw r) s fun t =>
    let x := (List.range 32).map (fun l => if hasLane c.lanes l then r.vA s w l else (redOp (sub r.px)).2)
    let v := pairwiseTree (redOp (sub r.px)).1 5 x
    RegResult s t c w r.d.toNat 1 (fun _ _ => v.1) (laneFlags c.lanes fun _ => v.2)) ∧
  (∀ r, Issuing s c w (.scanw r) → Completes (.scanw r) s fun t => ∃ (f : Nat → Word) (g : Nat → Flags), RegResult s t c w r.d.toNat 1 (fun l _ => f l) (laneFlags c.lanes g) ∧
    let x (l : Nat) : Word := if hasLane c.lanes l then r.vA s w l else (redOp (sub r.px)).2
    f 0 = x 0 ∧ g 0 = 0 ∧ ∀ l < 31, let y := (redOp (sub r.px)).1 (f l) (x (l + 1))
      f (l + 1) = y.1 ∧ g (l + 1) = g l ||| y.2) ∧
  (∀ r, Issuing s c w (.matchLanes r) → Completes (.matchLanes r) s fun t => ∃ f : Nat → Word, RegResult s t c w r.d.toNat 1 (fun l _ => f l) 0 ∧
    ∀ l < 32, ∀ k < 32, (f l).getLsbD k = (hasLane c.lanes k &&
      (if sub r.px = 1 then decide (r.pairA s w k = r.pairA s w l) else decide (r.vA s w k = r.vA s w l))))) ∧
  (∀ (s : State) (c : Issue) (w : WarpCore),
  (∀ k, Issuing s c w (.kset k) → Completes (.kset k) s fun t => MaskResult s t c w k.kd.toNat (s.rd w (lowest c.lanes) k.r.toNat posA)) ∧
  (∀ k, Issuing s c w (.kmov k) → Completes (.kmov k) s fun t => RegResult s t c w k.r.toNat 1 (fun _ _ => w.mask k.ka.toNat) 0) ∧
  (∀ k, Issuing s c w (.kpop k) → Completes (.kpop k) s fun t =>
    RegResult s t c w k.r.toNat 1 (fun _ _ => BitVec.ofNat 32 ((List.range 32).countP (fun l => (w.mask k.ka.toNat).getLsbD l))) 0) ∧
  (∀ k, Issuing s c w (.join k) → Completes (.join k) s fun t => MaskResult s t c w k.kd.toNat (w.mask k.kd.toNat ||| c.lanes)) ∧
  (∀ k, Issuing s c w (.leave k) → Completes (.leave k) s fun t => MaskResult s t c w k.kd.toNat (w.mask k.kd.toNat &&& ~~~c.lanes)) ∧
  (∀ k, Issuing s c w (.klogAnd k) → Completes (.klogAnd k) s fun t => MaskResult s t c w k.kd.toNat (w.mask k.ka.toNat &&& w.mask k.kb.toNat)) ∧
  (∀ k, Issuing s c w (.klogOr k) → Completes (.klogOr k) s fun t => MaskResult s t c w k.kd.toNat (w.mask k.ka.toNat ||| w.mask k.kb.toNat)) ∧
  (∀ k, Issuing s c w (.klogXor k) → Completes (.klogXor k) s fun t => MaskResult s t c w k.kd.toNat (w.mask k.ka.toNat ^^^ w.mask k.kb.toNat)) ∧
  (∀ k, Issuing s c w (.klogAndn k) → Completes (.klogAndn k) s fun t => MaskResult s t c w k.kd.toNat (w.mask k.ka.toNat &&& ~~~w.mask k.kb.toNat)))

/-- R64, R147, R149 to R152, R158 to R160: KWAIT, PRIO, BRA, BRC, JMPI, NOP, YIELD and WBASE complete, and where their lanes go. At KWAIT the lanes whose bit is clear go on and the others park, all released, each at the place where it parked, when every lane of the mask is parked there, those that parked earlier among them; then open calls are evaluated (R94). A lane register decides each lane's branch; a warp-uniform or special one moves all active lanes or none. Nothing but the frontier changes, apart from the register writes that parking and JMPI drain (R138), YIELD's own wait and WBASE's base. The model's choice: log 56: whose laneid, fp, sp or idx decides for all is free; of any other special and of a uniform register it is the lowest active lane's. -/
def Obligations.ControlFlow : Prop := ∀ (s : State) (c : Issue) (w : WarpCore),
  let target (off : Int) : Nat := (((c.pc : Int) + 4 * off) % 2 ^ 57).toNat
  (∀ k, Issuing s c w (.kwait k) → ∃ u w', exec (.kwait k) s = .next u.settleCalls ∧ OnlyWarp s u c.wid w' ∧
    { w' with frontier := w.frontier, out := w.out, drained := w.drained } = w ∧
    Stand w' (c.lanes &&& ~~~w.mask k.kd.toNat) c.prio c.next .ready ∧
    (∀ l < 32, hasLane (c.lanes &&& w.mask k.kd.toNat) l = true → ∃ e, w'.entryOf l = some e ∧ e.prio = c.prio ∧ e.pc = c.next ∧
      (e.state = .kwait k.kd.toNat ∨ e.state = .ready)) ∧
    (c.lanes &&& w.mask k.kd.toNat ≠ 0 → w'.out = []) ∧
    (k.kd.toNat < 12 → w.handler = none →
      (∀ l < 32, hasLane (w.mask k.kd.toNat) l = true → hasLane c.lanes l = true ∨ ∃ e ∈ w.frontier, hasLane e.lanes l = true ∧ e.state = .kwait k.kd.toNat ∧
        ∀ x ∈ w.frontier, hasLane x.lanes l = true → x = e) →
      Stand w' (c.lanes &&& w.mask k.kd.toNat) c.prio c.next .ready ∧
        ∀ l < 32, hasLane (w.mask k.kd.toNat &&& ~~~c.lanes) l = true → ∀ e, w.entryOf l = some e → Stand w' (laneBit l) e.prio e.pc .ready)) ∧
  (∀ i, Issuing s c w (.prio i) → Completes (.prio i) s fun t => ∃ w', OnlyWarp s t c.wid w' ∧ { w' with frontier := w.frontier } = w ∧
    Stand w' c.lanes (i.imm.toNat % 16) c.next .ready) ∧
  (∀ j, Issuing s c w (.bra j) → Completes (.bra j) s fun t => ∃ w', OnlyWarp s t c.wid w' ∧ { w' with frontier := w.frontier } = w ∧
    Stand w' c.lanes j.prio.toNat (target j.offset) .ready) ∧
  (∀ x, Issuing s c w (.brc x) → Completes (.brc x) s fun t => ∃ w', OnlyWarp s t c.wid w' ∧ { w' with frontier := w.frontier } = w ∧
    ∃ m, (c.lanes ≠ 0 → hasLane c.lanes m = true) ∧ (x.cond.toNat ∉ [121, 125, 126, 127] → m = lowest c.lanes) ∧
    ∀ l < 32, hasLane c.lanes l = true →
      if s.rd w (if x.cond.toNat < 96 then l else m) x.cond.toNat posA ≠ 0 then Stand w' (laneBit l) x.prio.toNat (target x.offset) .ready else Stand w' (laneBit l) c.prio c.next .ready) ∧
  (∀ r, Issuing s c w (.jmpi r) → (∀ l < 32, hasLane c.lanes l = true → (r.pairA s w.drainRegs l).toNat % 4 = 0) → Completes (.jmpi r) s fun t =>
    ∃ w', OnlyWarp s t c.wid w' ∧ { w' with frontier := w.frontier, out := w.out, drained := w.drained } = w ∧ w'.out = [] ∧
    ∀ l < 32, hasLane c.lanes l = true → Stand w' (laneBit l) (r.b.toNat % 16) ((r.pairA s w.drainRegs l).toNat % 2 ^ 57) .ready) ∧
  (∀ r, Issuing s c w (.nop r) → Completes (.nop r) s fun t => ∃ w', OnlyWarp s t c.wid w' ∧ { w' with frontier := w.frontier } = w ∧
    Stand w' c.lanes c.prio c.next .ready) ∧
  (∀ r, Issuing s c w (.yield r) → Completes (.yield r) s fun t => ∃ w', OnlyWarp s t c.wid w' ∧
    { w' with frontier := w.frontier, yieldTo := w.yieldTo } = w ∧ w'.yieldTo = some (s.clk + 16) ∧ Stand w' c.lanes c.prio c.next .ready) ∧
  (∀ r, Issuing s c w (.wbase r) → 32 * (r.b.toNat % 16) < w.alloc → Completes (.wbase r) s fun t => ∃ w', OnlyWarp s t c.wid w' ∧
    { w' with frontier := w.frontier, wbase := w.wbase } = w ∧ w'.wbase = 32 * (r.b.toNat % 16) ∧ Stand w' c.lanes c.prio c.next .ready)

/-! ### Memory (chapter 10) and its ordering (chapter 11) -/

/-- R181, R186, R189 to R192: a load or an ATOM runs its active lanes in ascending order, each on the state that the lanes below it left; when no lane faults, the loaded words go into the run at vD, nothing else of the warp's registers changes, and the lanes go on. R181, R186, R190, R193: a store or a RED runs its active lanes in ascending order, each on the state that the lanes below it left; when no lane faults, no register changes, and the lanes go on. ST.sig (hint 3) then publishes all its warp's stores at .dev (R210). R195: a PREF or a CHINT changes what the caches hold, its classes and cached translations, and nothing else, but that its walk takes page-table words that are published nowhere it reads to the device first (R205), and counts those that were dropped (R411): no write's place or value changes. -/
def Obligations.AccessesLaneByLane : Prop := (∀ (s : State) (c : Issue) (w : WarpCore),
  let load (i : Instr) (d code : Nat) (f : State → Nat → State × Except Trap Nat) : Prop := Issuing s c w i →
    let x := s.loadLanes (lanesOf c.lanes) f
    x.2.1 = [] → Completes i s fun t => ∃ w1, x.1.warp? c.wid = some w1 ∧
      RegResult x.1 t c w1 d (loadedWords code 0).length (fun l j => ((loadedWords code (valueOf x.2.2 l))[j]?).getD 0) 0
  let atom (i : Instr) (op : Nat) (r : RArgs) : Prop := load i r.d.toNat (if sub r.px % 2 = 1 then 5 else 4) fun s l => s.atomLane c w op r l
  let atoms (i : Instr) (op : Nat) (r : RArgs) : Prop := s.anyBusy w ((lanesOf c.lanes).map (fun l => (r.pairA s w l).toNat)) = false →
    load i r.d.toNat (if sub r.px % 2 = 1 then 5 else 4) fun s l => s.atomsLane c w op r l
  (∀ m, load (.ld m) m.d.toNat m.size.toNat fun s l => s.ldLane c w m l) ∧
  (∀ m, load (.ldt m) m.d.toNat m.size.toNat fun s l => s.ldtFlagged c w m l) ∧
  (∀ m, s.anyBusy w ((lanesOf c.lanes).map (fun l => m.ea s w l)) = false → load (.lds m) m.d.toNat m.size.toNat fun s l => s.ldsLane c w m l) ∧
  (∀ r, atom (.atomAdd r) 0 r ∧ atom (.atomMinS r) 1 r ∧ atom (.atomMaxS r) 2 r ∧ atom (.atomMinU r) 3 r ∧ atom (.atomMaxU r) 4 r ∧
    atom (.atomAnd r) 5 r ∧ atom (.atomOr r) 6 r ∧ atom (.atomXor r) 7 r ∧ atom (.atomExch r) 8 r ∧ atom (.atomCas r) 9 r ∧ atom (.atomAddF32 r) 10 r) ∧
  (∀ r, atoms (.atomsAdd r) 0 r ∧ atoms (.atomsMinS r) 1 r ∧ atoms (.atomsMaxS r) 2 r ∧ atoms (.atomsMinU r) 3 r ∧ atoms (.atomsMaxU r) 4 r ∧
    atoms (.atomsAnd r) 5 r ∧ atoms (.atomsOr r) 6 r ∧ atoms (.atomsXor r) 7 r ∧ atoms (.atomsExch r) 8 r ∧ atoms (.atomsCas r) 9 r ∧ atoms (.atomsAddF32 r) 10 r) ∧
  (∀ r, Issuing s c w (.ldc r) → ∀ s1 leaf pa, let code := sub r.px + 4
    let ea := ((r.pairA s w (lowest c.lanes)).toNat + (r.vB s w (lowest c.lanes)).toNat) % 2 ^ 64
    s.waveAccess w .load ea (sizeBytes code) = (s1, .ok (leaf, pa)) →
      let x := (s1.fillCore w.core false leaf pa).readGlobal c.wid w false leaf ea (sizeBytes code)
      Completes (.ldc r) s fun t => ∃ w1, x.1.warp? c.wid = some w1 ∧
        RegResult x.1 t c w1 r.d.toNat (loadedWords code 0).length (fun _ j => ((loadedWords code (natOfBytes x.2))[j]?).getD 0) 0)) ∧
  (∀ (s : State) (c : Issue) (w : WarpCore),
  let store (i : Instr) (dev : Bool) (f : State → Nat → State × Option Trap) : Prop := Issuing s c w i →
    let x := s.eachLane (lanesOf c.lanes) f
    let s' := if dev then x.1.publish c.wid .dev else x.1
    x.2 = [] → Completes i s fun t => ∃ w1, s'.warp? c.wid = some w1 ∧ (∀ l p, w1.held? l p = w.held? l p) ∧ WentOn s' t c w1
  (∀ m, store (.st m) (decide (m.hint = 3)) fun s l => s.stLane c w m l) ∧
  (∀ m, s.anyBusy w ((lanesOf c.lanes).map (fun l => m.ea s w l)) = false → store (.sts m) false fun s l => s.stsLane c w m l) ∧
  (∀ op r, store (.red op r) false fun s l => s.redLane c w op.toNat r l) ∧
  (∀ op r, s.anyBusy w ((lanesOf c.lanes).map (fun l => (r.pairA s w l).toNat)) = false → store (.reds op r) false fun s l => s.redsLane c w op.toNat r l)) ∧
  (∀ (s : State) (c : Issue) (w : WarpCore),
  let hint (i : Instr) : Prop := Issuing s c w i → Completes i s fun t =>
    WentOn { s with llc := t.llc, l1 := t.l1, uses := t.uses, tlb := t.tlb, hist := t.hist, seq := t.seq, counters := t.counters } t c w ∧
      t.hist.map (fun h => (h.seq, h.key, h.val)) = s.hist.map (fun h => (h.seq, h.key, h.val)) ∧
      (s.poison = [] → (∀ h ∈ s.hist, h.pubDev.isSome = true) → t.hist = s.hist ∧ t.seq = s.seq ∧ t.counters = s.counters)
  (∀ r, hint (.pref r)) ∧ ∀ r, hint (.chint r))

/-- R181, R186, R190, R207: where every word is settled for the warp and no error or undefined contents are met, LD and LDS read memory's bytes under the warp's own buffered stores, the latest winning, and leave memory as it is. R186, R190, R205: a lane's ST or STS buffers the low bytes of its register in its warp, after every earlier one: no byte of memory changes, no other warp is touched. The model's choice: log 21: own stores seen byte by byte. -/
def Obligations.LoadsAndBufferedStores : Prop := (∀ (s : State) (c : Issue) (w : WarpCore) (m : MArgs) (l : Nat), s.warp? c.wid = some w → NoReds w →
  let n := sizeBytes m.size.toNat
  let ea := m.ea s w l
  (m.hint ≠ 3 → ∀ s1 leaf pa, s.waveAccess w .load ea n = (s1, .ok (leaf, pa)) → leaf.shadow = false → s1.readLeaf w leaf ea = leaf →
    s1.regionAllows (s1.warpWorld w) pa = true → CleanBytes s1 leaf.okey pa n → SettledBytes s w pa n →
    ∃ t, s.ldLane c w m l = (t, .ok (natOfBytes ((keysFrom pa n).map (fun x => overlay w.stores x (s.mem.byte x))))) ∧ SameMemory s t) ∧
  (∀ key, s.spadAccess w ea n = .ok key → CleanBytes s 0 key n → SettledBytes s w key n →
    ∃ t, s.ldsLane c w m l = (t, .ok (natOfBytes ((keysFrom key n).map (fun x => overlay w.stores x (s.mem.byte x))))) ∧ SameMemory s t)) ∧
  (∀ (s : State) (c : Issue) (w : WarpCore) (m : MArgs) (l : Nat), s.warp? c.wid = some w →
  let n := sizeBytes m.size.toNat
  let ea := m.ea s w l
  let buffered (t : State) (key okey : Nat) (bank : Bool) : Prop := SameMemory s t ∧ (∀ k, k ≠ c.wid → t.warps.find? k = s.warps.find? k) ∧
    ∃ w' p, t.warp? c.wid = some w' ∧ { w' with stores := w.stores, frontier := w.frontier } = w ∧ w'.stores = w.stores ++ [p] ∧
      p.mark = false ∧ p.red = none ∧ p.key = key ∧ p.size = n ∧ p.okey = okey ∧ p.bank = bank ∧ p.va = ea ∧ p.data = storeData m s w l
  ((∀ k, apertureChannel m ea ≠ some k) → ∀ s1 leaf pa, s.waveAccess w .store ea n = (s1, .ok (leaf, pa)) →
    ∃ t, s.stLane c w m l = (t, none) ∧ buffered t pa leaf.okey false) ∧
  (∀ key, s.spadAccess w ea n = .ok key → ∃ t, s.stsLane c w m l = (t, none) ∧ buffered t key 0 true))

/-- R205, R222: when the oldest buffered store of a warp takes its place, memory holds its bytes where it stores and is as before everywhere else, but that bytes of undefined contents in a word of which it writes a part may change (R4), and the store has left the buffer. R204, R205: a boundary publishes every buffered store of its warp in order, so that memory holds each byte's latest store and is as before elsewhere, bytes whose contents stay undefined apart; with a refresh the warp's reads start anew. The model's choice: log 8: a boundary publishes its stores within its step. -/
def Obligations.StoresReachMemory : Prop := (∀ (s : State) (wid : Nat) (w : WarpCore) (p : Pending) (rest : List Pending),
  s.warp? wid = some w → w.stores = p :: rest → p.mark = false → p.red = none → p.queue = none → 0 < p.size →
  (p.bank = true ∨ s.regionAllows (s.warpWorld w) p.key = true) → KeyInForce s p.okey p.key p.size →
  Completes (.homeWrite wid) s fun t => StoredAmong s t p.key (bytesOfNat p.size p.data) ∧
    ∃ w', t.warp? wid = some w' ∧ w'.stores = rest ∧ { w' with stores := w.stores, frontier := w.frontier } = w) ∧
  (∀ (s : State) (wid : Nat) (w : WarpCore) (sc : Scope) (refresh : Bool),
  s.warp? wid = some w → NoReds w → (∀ p ∈ w.stores, p.mark = true ∨ (0 < p.size ∧ (p.bank = true ∨ s.regionAllows (s.warpWorld w) p.key = true) ∧ KeyInForce s p.okey p.key p.size)) →
  let t := s.boundary wid sc refresh
  (∀ a, (t.isUndef a = false ∨ ∀ p ∈ w.stores, p.mark = true ∨ a / 4 * 4 ∉ wordKeys p.key p.size) → t.mem.byte a = overlay w.stores a (s.mem.byte a)) ∧
    ∃ w', t.warp? wid = some w' ∧ w'.stores = [] ∧ (if refresh then w'.refresh = t.seq ∧ w'.reads = [] else w'.refresh = w.refresh ∧ w'.reads = w.reads) ∧
      { w' with stores := w.stores, frontier := w.frontier, refresh := w.refresh, reads := w.reads } = w ∧ ∀ l p, w'.held? l p = w.held? l p)

/-- R192, Table 3-4: an ATOM or ATOMS of a lane returns the word's old value and leaves there what its operation gives; every other byte of memory stays. -/
def Obligations.AtomicOperation : Prop := ∀ (s : State) (c : Issue) (w : WarpCore) (op size b x : Nat) (sc : Scope) (ea : Nat),
  s.warp? c.wid = some w → w.stores = [] → op ≤ 10 → (size = 4 ∨ size = 8 ∧ op ≠ 10) → b < 2 ^ (8 * size) → x < 2 ^ (8 * size) →
  let val (old : Nat) : Nat :=
    let i (v : Nat) : Int := (BitVec.ofNat (8 * size) v).toInt
    ([(old + b) % 2 ^ (8 * size), if i old ≤ i b then old else b, if i old ≤ i b then b else old, min old b, max old b, old &&& b, old ||| b, old ^^^ b, b,
      if old = b then x else old, (f32.addOp 0 old b).1][op]?).getD 0
  let done (r : State × Except Trap Nat) (k : Nat) : Prop :=
    r.2 = .ok (natOfBytes (s.mem.bytes k size)) ∧ Stored s r.1 k (bytesOfNat size (val (natOfBytes (s.mem.bytes k size))))
  (∀ s1 leaf pa, s.waveAccess w .atomic ea size = (s1, .ok (leaf, pa)) → leaf.shadow = false → s1.readLeaf w leaf ea = leaf → s1.regionAllows (s1.warpWorld w) pa = true → pa % 4 = 0 →
    CleanBytes s1 leaf.okey pa size → (∀ y ∈ wordKeys pa size, offends w.party (s.histOf y) = false) → done (s.atomGlobal c w op size sc ea b x) pa) ∧
  (∀ key, s.spadAccess w ea size = .ok key → CleanBytes s 0 key size → (∀ y ∈ wordKeys key size, offends w.party (s.histOf y) = false) →
    done (s.atomSpad c w op size ea b x) key)

/-- R197, R198, R212: PHASE is a boundary with refresh at the scope in sub; FENCEO leaves a mark in its warp's stores (and makes a refresh that is owed); FENCER publishes its own stores at .dev, is served at every target and refreshes itself. None writes a register. R40, R135, R159: performing an outstanding register write, once its instruction's pipe interval has ended, changes no value and nothing but the list of outstanding writes; a YIELD that is over ends its warp's wait and changes no register and no byte. The model's choice: log 5: how outstanding writes are kept; log 9: the point of a FENCER is free. -/
def Obligations.PhasesAndFences : Prop := (∀ (s : State) (c : Issue) (w : WarpCore),
  (∀ r, Issuing s c w (.phase r) → Undoomed w c.lanes → Completes (.phase r) s fun t =>
    let s' := s.boundary c.wid ([Scope.core, .die, .dev, .sys][sub r.px]?.getD .sys) true
    ∃ w1, s'.warp? c.wid = some w1 ∧ WentOn s' t c w1) ∧
  (∀ r, Issuing s c w (.fenceo r) → w.owed = false → Completes (.fenceo r) s fun t =>
    ∃ p : Pending, p.mark = true ∧ WentOn s t c { w with stores := w.stores ++ [p] }) ∧
  (∀ r, Issuing s c w (.fenceo r) → w.owed = true → Completes (.fenceo r) s fun t =>
    ∃ p : Pending, p.mark = true ∧ WentOn s t c { w with stores := w.stores ++ [p], owed := false, refresh := s.seq, reads := [] }) ∧
  (∀ r ts, Issuing s c w (.fencer r) → Undoomed w c.lanes → s.fenceTargets w (sub r.px) (r.pairA s w (lowest c.lanes)) = some ts → Completes (.fencer r) s fun t =>
    let s' := (ts.foldl (fun s k => s.serveFence k) (s.publish c.wid .dev)).refreshWarp c.wid
    ∃ w1, s'.warp? c.wid = some w1 ∧ w1.stores = [] ∧ w1.refresh = s'.seq ∧ WentOn s' t c w1)) ∧
  (∀ (s : State) (wid : Nat) (w : WarpCore), s.warp? wid = some w →
  (∀ lane reg, Completes (.registerWritePerformed wid lane reg) s fun t => SameMemory s t ∧ ∃ w', t.warp? wid = some w' ∧ SameRegs w w' ∧
    { w' with out := w.out, frontier := w.frontier } = w ∧ w'.out.Sublist w.out ∧ w.out.length ≤ w'.out.length + 1 ∧
    (∀ o ∈ w.out, o.lane = lane → o.loc.code = reg → o.due ≤ s.clk → w.out.length = w'.out.length + 1)) ∧
  (Completes (.yieldExpiry wid) s fun t => SameMemory s t ∧ ∃ w', t.warp? wid = some w' ∧ SameRegs w w' ∧
    { w' with yieldTo := w.yieldTo, frontier := w.frontier } = w ∧ (∀ n, w.yieldTo = some n → w'.yieldTo = if n ≤ s.clk then none else some n)))

/-- R169, R194: where no lane waits at the FIFO bank, FPUSH with room for all appends the lanes' values in ascending lane order and answers 0; FPOP with entries for all takes them from the front in that order, a value and 0 for each lane; FPUSH to a full bank leaves every lane waiting there, in lane order. R168, R196: BANKCFG to the mode that an idle bank has is a boundary at .core; any other is queued at its bank and its lanes wait. When the bank is idle the oldest takes effect: the bank has that mode, its bytes are zero, its FIFO is empty and no lane waits there; a bank that is not idle stays as it is. -/
def Obligations.BanksAndFifos : Prop := (∀ (s : State) (c : Issue) (w : WarpCore) (r : RArgs) (b : Nat),
  Undoomed w c.lanes → s.fifoBank w (r.pairA s w (lowest c.lanes)).toNat = .ok b → (s.bank w.core b).cfg = [] → (s.bank w.core b).waiters = [] →
  let k := s.bank w.core b
  let n := laneCount c.lanes
  let vals := (lanesOf c.lanes).map (fun l => r.vB s w l)
  (Issuing s c w (.fpush r) → k.fifo.length + n ≤ 16384 → Completes (.fpush r) s fun t =>
    Gave (s.modBank w.core b (fun k => { k with fifo := k.fifo ++ vals })) t c r.d.toNat [0]) ∧
  (Issuing s c w (.fpop r) → n ≤ k.fifo.length → Completes (.fpop r) s fun t =>
    RegResult (s.modBank w.core b (fun k => { k with fifo := k.fifo.drop n, head := (k.head + n) % 16384 })) t c w r.d.toNat 2
      (fun l j => if j = 0 then (k.fifo[(lanesOf c.lanes).idxOf l]?).getD 0 else 0) 0) ∧
  (Issuing s c w (.fpush r) → k.fifo.length = 16384 → c.lanes ≠ 0 → b < (s.core w.core).banks.length → Completes (.fpush r) s fun t =>
    t.cur = none ∧ SameMemory s t ∧ (t.bank w.core b).fifo = k.fifo ∧
    (t.bank w.core b).waiters = (lanesOf c.lanes).map (fun l => { token := w.token, lane := l, push := true, value := r.vB s w l }) ∧
    ∃ w', t.warp? c.wid = some w' ∧ SameRegs w w' ∧ ∀ l < 32, hasLane c.lanes l = true →
      Stand w' (laneBit l) c.prio c.next (.wait false { Wait.mk' (.fifo (s.bankNo w.core b) true) none (w.resolve r.d.toNat) true with sw := bit c.insn 31 }))) ∧
  (∀ (s : State) (c : Issue) (w : WarpCore) (r : RArgs) (b : Nat),
  (Issuing s c w (.bankcfg r) → Undoomed w c.lanes → s.bankAt w.core w.launch (r.vA s w (lowest c.lanes)).toNat = some b →
    let mode := if sub r.px = 0 then BankMode.cache else if sub r.px = 1 then .spad else .fifo
    ((s.bank w.core b).cfg = [] → (s.bank w.core b).mode = mode → Completes (.bankcfg r) s fun t => Went (s.boundary c.wid .core true) t c) ∧
    (((s.bank w.core b).cfg ≠ [] ∨ (s.bank w.core b).mode ≠ mode) → Completes (.bankcfg r) s fun t => ∃ k : Wait, k.kind = .bankcfg (s.bankNo w.core b) ∧ k.code = none ∧ ∃ n,
      Waits ({ s with marks := s.marks + 1 }.modBank w.core b (fun k => { k with cfg := k.cfg ++ [(w.token, n, mode)] })) t c w false k)) ∧
  (∀ core token n mode rest, b < (s.core core).banks.length → (s.bank core b).cfg = (token, n, mode) :: rest →
    (s.bankIdle core b = false → exec (.bankcfgComplete core b) s = .next s) ∧
    (s.bankIdle core b = true → (s.bank core b).mode ≠ mode → Completes (.bankcfgComplete core b) s fun t =>
      (t.bank core b).mode = mode ∧ (t.bank core b).cfg = rest ∧ (t.bank core b).fifo = [] ∧ (t.bank core b).waiters = [] ∧
        ∀ off < 65536, t.mem.byte (spadKey core b off) = 0)))

/-- R199: SHADOWSET adds the pair to its set and sets the SHADOW bit of the second page's mapping alone; SHADOWSET.del takes the pair of its page out of the set that holds it and clears that bit. No register changes. R200, R215: PUBLISH is a boundary at the scope in sub and, for a set of one pair, exchanges the frames of its two mappings: each entry keeps its other bits and holds the other's frame, and every other byte is as the boundary leaves it. A set with no pair is a boundary alone. The model's choice: log 27: the order of checks, and the refresh of a PUBLISH. -/
def Obligations.ShadowPages : Prop := (∀ (s : State) (c : Issue) (w : WarpCore) (r : RArgs) (x : Context),
  let asid := s.asidOf w
  let set := (r.vD s w (lowest c.lanes)).toNat
  let v := (r.pairA s w (lowest c.lanes)).toNat
  let h := (r.pairB s w (lowest c.lanes)).toNat
  let entry (t : State) (l : Leaf) : Nat := natOfBytes (t.mem.bytes l.at_ 8)
  let keyed (l : Leaf) : Prop := CleanBytes s (s.slotOf (s.tagAt l.at_)) l.at_ 8
  s.ctxs.find? asid = some x → v % 2 ^ 18 = 0 →
  (Issuing s c w (.shadowset r) → h % 2 ^ 18 = 0 → ∀ lv lh, s.walk asid v = some lv → s.walk asid h = some lh → shadowFault x set v h lv lh = none → keyed lh →
    Completes (.shadowset r) s fun t => t.cur = none ∧ (∃ y, t.ctxs.find? asid = some y ∧ y.pairs set = x.pairs set ++ [(v, h)]) ∧
      (∀ i < 64, bit (entry t lh) i = (bit (entry s lh) i || decide (i = 5))) ∧
      (∀ a, a < lh.at_ ∨ lh.at_ + 8 ≤ a → t.mem.byte a = s.mem.byte a) ∧
      ∃ w', t.warp? c.wid = some w' ∧ SameRegs w w' ∧ Stand w' c.lanes c.prio c.next .ready) ∧
  (Issuing s c w (.shadowsetDel r) → set < 256 → ∀ n p lv lh, s.walk asid v = some lv → x.setOf v = some n →
    (x.pairs n).filter (fun q => decide (q.1 = v) || decide (q.2 = v)) = [p] → s.walk asid p.2 = some lh → keyed lh →
    Completes (.shadowsetDel r) s fun t => t.cur = none ∧
      (∃ y, t.ctxs.find? asid = some y ∧ y.pairs n = (x.pairs n).filter (fun q => !(decide (q.1 = v) || decide (q.2 = v)))) ∧
      (∀ i < 64, bit (entry t lh) i = (bit (entry s lh) i && decide (i ≠ 5))) ∧
      (∀ a, a < lh.at_ ∨ lh.at_ + 8 ≤ a → t.mem.byte a = s.mem.byte a) ∧
      ∃ w', t.warp? c.wid = some w' ∧ SameRegs w w' ∧ Stand w' c.lanes c.prio c.next .ready)) ∧
  (∀ (s : State) (c : Issue) (w : WarpCore) (r : RArgs) (x : Context),
  Issuing s c w (.publish r) → Undoomed w c.lanes →
  let asid := s.asidOf w
  let s1 := s.boundary c.wid ([Scope.core, .die, .dev, .sys][sub r.px]?.getD .sys) true
  let entry (l : Leaf) : Nat := natOfBytes (s1.mem.bytes l.at_ 8)
  let keyed (l : Leaf) : Prop := CleanBytes s1 (s1.slotOf (s1.tagAt l.at_)) l.at_ 8
  s1.ctxs.find? asid = some x →
  (x.pairs (r.vA s w (lowest c.lanes)).toNat = [] → Completes (.publish r) s fun t => (∀ a, t.mem.byte a = s1.mem.byte a) ∧
    ∃ w', t.warp? c.wid = some w' ∧ SameRegs w w' ∧ w'.stores = [] ∧ Stand w' c.lanes c.prio c.next .ready) ∧
  (∀ v h a b, x.pairs (r.vA s w (lowest c.lanes)).toNat = [(v, h)] → s1.walk asid v = some a → s1.walk asid h = some b → (a.at_ + 8 ≤ b.at_ ∨ b.at_ + 8 ≤ a.at_) →
    keyed a → keyed b → Completes (.publish r) s fun t =>
      t.mem.bytes a.at_ 8 = bytesOfNat 8 (entry a - a.frame + b.frame) ∧ t.mem.bytes b.at_ 8 = bytesOfNat 8 (entry b - b.frame + a.frame) ∧
      (∀ k, (k < a.at_ ∨ a.at_ + 8 ≤ k) → (k < b.at_ ∨ b.at_ + 8 ≤ k) → t.mem.byte k = s1.mem.byte k) ∧
      ∃ w', t.warp? c.wid = some w' ∧ SameRegs w w' ∧ w'.stores = [] ∧ Stand w' c.lanes c.prio c.next .ready))

/-! ### Waits, registrations, barriers (chapter 12) -/

/-- R221, R225, R231, R233 to R235, R239: a lane of WAITU, WAITL or BWAIT that does not fault waits at the next instruction on a registration that holds what the lane asked: the word's place, the comparison, operand and deadline; lanes that ask the same share it. The asks of a WAITL on global memory, in the order of their lowest lanes, get a monitor as long as one is free, and set out for their home when none is. WAITL at a bank or in a monitor has its code at once when the comparison holds already (0) or its timeout is 0 (2). No register changes yet. The model's choice: log 48: when a registration arrives. -/
def Obligations.WaitsRegister : Prop := ∀ (s : State) (c : Issue) (w : WarpCore), Undoomed w c.lanes → Table.sortedFrom 0 s.regs = true →
  let wide (r : RArgs) : Bool := decide (sub r.px % 2 = 1)
  let size (r : RArgs) : Nat := if wide r then 8 else 4
  let waiting (t : State) (r : RArgs) (barrier : Bool) (cmp l : Nat) (a : Ask) (armed : Bool) : Prop :=
    ∃ w' e k id, t.warp? c.wid = some w' ∧ w'.entryOf l = some e ∧ e.prio = c.prio ∧ e.pc = c.next ∧ e.state = .wait barrier k ∧ k.kind = .mem id ∧
      k.dst = w.resolve r.d.toNat ∧ k.deadline = (if a.timeout = 0xFFFFFFFF then none else some (s.ns + a.timeout.toNat)) ∧
      (armed = false → k.code = none) ∧
      (armed = true → a.shadow = false → CleanBytes t a.okey a.key (size r) → (isPhys a.key = true → t.regionAllows (t.worldOf (s.asidOf w)) a.key = true) →
        k.code = if cmpHolds cmp (wide r) (natOfBytes (t.mem.bytes a.key (size r))) a.operand then some 0 else if a.timeout = 0 then some 2 else none) ∧
      (k.code = none → ∃ g, t.regs.find? id = some g ∧ g.owner = .warp c.wid w.token ∧ g.key = a.key ∧ (g.va = a.va ∨ a.va ∈ g.also) ∧ g.w64 = wide r ∧ g.cmp = cmp ∧
        g.operand = a.operand ∧ g.deadline = k.deadline ∧ hasLane g.lanes l = true ∧
        (armed = true → g.place ≠ .inFlight) ∧ (armed = false → g.place = .inFlight ∧ g.va = a.va ∧ g.zero = decide (a.timeout = 0)))
  let same (t : State) : Prop := t.cur = none ∧ ∃ w', t.warp? c.wid = some w' ∧ SameRegs w w' ∧ w'.wbase = w.wbase
  (∀ cmp r, Issuing s c w (.waitu cmp r) →
    let x := s.askLanes (lanesOf c.lanes) (fun s l => s.askGlobal c w r false l)
    x.2.1 = [] → Completes (.waitu cmp r) s fun t => same t ∧ SameMemory x.1 t ∧ ∀ l a, (l, a) ∈ x.2.2 → waiting t r false cmp.toNat l a false) ∧
  (∀ cmp r, Issuing s c w (.waitl cmp r) → sub r.px / 2 % 2 = 0 →
    let x := s.askLanes (lanesOf c.lanes) (fun s l => s.askGlobal c w r (s.monitorFree w.core) l)
    let gs := groupAsks x.2.2
    let before (i : Nat) : State := (gs.take i).foldl (fun s g =>
      if s.monitorFree w.core then
        let (s, id) := s.startAsk c w .monitor (wide r) cmp.toNat (w.resolve r.d.toNat) true false g.1 g.2
        s.armNow id
      else (s.startAsk c w .inFlight (wide r) cmp.toNat (w.resolve r.d.toNat) true false g.1 g.2).1) x.1
    x.2.1 = [] → Completes (.waitl cmp r) s fun t => same t ∧ SameMemory x.1 t ∧ ∀ i m a, gs[i]? = some (m, a) → ∀ l < 32, hasLane m l = true →
      waiting t r false cmp.toNat l a ((before i).monitorFree w.core)) ∧
  (∀ cmp r, Issuing s c w (.waitl cmp r) → sub r.px / 2 % 2 = 1 → s.anyBusy w ((lanesOf c.lanes).map (fun l => (r.pairA s w l).toNat)) = false →
    w.stores = [] → (∀ l < 32, hasLane c.lanes l = true → ∃ k, s.spadAccess w (r.pairA s w l).toNat (size r) = .ok k) →
    Completes (.waitl cmp r) s fun t => same t ∧ SameMemory s t ∧ ∀ l < 32, hasLane c.lanes l = true → ∀ k,
      s.spadAccess w (r.pairA s w l).toNat (size r) = .ok k →
      waiting t r false cmp.toNat l { key := k, okey := 0, va := (r.pairA s w l).toNat, operand := (waitOperand r s w l).1, timeout := (waitOperand r s w l).2 } true) ∧
  (∀ r, Issuing s c w (.bwait r) → let g := (r.vA s w (lowest c.lanes)).toNat % 1024
    s.groupOf (s.asidOf w) g = true → Completes (.bwait r) s fun t => same t ∧ SameMemory s t ∧ ∀ l < 32, hasLane c.lanes l = true →
      ∃ w' e k id q, t.warp? c.wid = some w' ∧ w'.entryOf l = some e ∧ e.prio = c.prio ∧ e.pc = c.next ∧ e.state = .wait true k ∧ k.kind = .mem id ∧ k.code = none ∧
        k.dst = w.resolve r.d.toNat ∧ k.deadline = (if r.vB1 s w l = 0xFFFFFFFF then none else some (s.ns + (r.vB1 s w l).toNat)) ∧ t.regs.find? id = some q ∧
        q.key = s.fw.genWords + 4 * g ∧ q.cmp = 8 ∧ q.operand = (r.vB s w l).toNat ∧ q.deadline = k.deadline ∧ q.zero = decide (r.vB1 s w l = 0) ∧
        q.place = .inFlight ∧ hasLane q.lanes l = true)

/-- R221, R224 to R228: a registration that arrives (or is tried again) where there is room ends with OK_NOW when its word satisfies it, with TIMEOUT when its timeout is 0, and else joins the entry of its warp that agrees with it or takes one of its own; with no room it is held at its core. One whose deadline has passed ends with TIMEOUT, which the lanes of a wait that rests on their warp have as their code. R222, R225: a write at the home, plain or of an atomic and under any key, ends, with OK_WOKEN, every registration of the lines it touches whose comparison the value then read satisfies by its deadline, and no other one but for what an owner's control word ends (R259); a wait on a saved bank keeps a note that its word satisfied it in time (R224). The model's choice: log 48: when a registration arrives. -/
def Obligations.Registrations : Prop := (∀ (s : State) (id : Nat) (r : Registration) (wid tok : Nat), s.regs.find? id = some r → r.owner = .warp wid tok →
  (∀ i, (i = .pegRegistration id ∧ r.place = .inFlight ∨ i = .pegRetry id ∧ r.place = .held ∧ ∀ d, r.deadline = some d → s.ns ≤ d) → Completes i s fun t =>
    (s.twin id r = none → s.admitPlace r.key = .held → t = { s with regs := s.regs.insert id { r with place := .held } }) ∧
    (SureReg s r → s.twin id r ≠ none ∨ s.admitPlace r.key ≠ .held →
      if cmpHolds r.cmp r.w64 (natOfBytes (s.mem.bytes r.key r.size)) r.operand then Recorded s t wid id 0
      else if r.zero then Recorded s t wid id 2
      else SameMemory s t ∧
        (s.twin id r = none → t.warps = s.warps ∧ t.regs = s.regs.insert id { r with place := s.admitPlace r.key }) ∧
        ∀ k x, s.twin id r = some k → s.regs.find? k = some x → t.regs.find? id = none ∧
          t.regs.find? k = some { x with lanes := x.lanes ||| r.lanes, also := if x.va = r.va ∨ r.va ∈ x.also then x.also else r.va :: x.also })) ∧
  (∀ d, r.deadline = some d → r.place = .held → d < s.ns → Completes (.pegRetry id) s fun t => Recorded s t wid id 2) ∧
  (∀ d, r.deadline = some d → r.place ≠ .inFlight → r.place ≠ .warp →
    (d < s.ns → Completes (.pegTimeout id) s fun t => Recorded s t wid id 2) ∧ (s.ns ≤ d → exec (.pegTimeout id) s = .next s)) ∧
  (r.place = .warp → (∀ d, r.deadline = some d → d < s.ns → Completes (.warpWaitDeadline wid) s fun t => SameMemory s t ∧ (r.met = false → t.regs.find? id = none ∧
    ∀ x e b q, s.warps.find? wid = some x → e ∈ x.run.frontier → e.state = .wait b q → q.kind = .mem id → q.deadline = r.deadline → q.code = none →
      ∃ x', t.warps.find? wid = some x' ∧ { e with state := .wait b { q with code := some 2 } } ∈ x'.run.frontier)))) ∧
  (∀ (s : State) (by_ : Writer) (sc : Scope) (atomic : Option Scope) (okey k : Nat) (data : List Byte) (id : Nat) (r : Registration),
  data ≠ [] → s.regs.find? id = some r → (s.regs.map Prod.fst).Nodup →
  let t := s.homeWrite by_ sc atomic okey k data
  let wakes : Prop := r.place ≠ .inFlight ∧ r.place ≠ .held ∧ r.key < savedBase ∧ k / 128 ≤ r.key / 128 ∧ r.key / 128 ≤ (k + data.length - 1) / 128 ∧
    cmpHolds r.cmp r.w64 (t.watched r) r.operand = true ∧ ∀ d, r.deadline = some d → s.ns ≤ d
  (wakes → t.regs.find? id = none ∧ ∀ wid tok w e b q, r.owner = .warp wid tok → s.warps.find? wid = some w → e ∈ w.run.frontier →
      e.state = .wait b q → q.kind = .mem id → q.code = none →
      ∃ w', t.warps.find? wid = some w' ∧ { e with state := .wait b { q with code := some 1 } } ∈ w'.run.frontier) ∧
  (¬ wakes → (∀ wid tok x, r.owner ≠ .darner wid tok (some x)) → ∃ r', t.regs.find? id = some r' ∧ { r' with met := r.met } = r ∧
    (r'.met = true ↔ r.met = true ∨ (savedBase ≤ k ∧ k < r.key + r.size ∧ r.key < k + data.length ∧ cmpHolds r.cmp r.w64 (t.watched r) r.operand = true ∧
      ∀ d, r.deadline = some d → s.ns ≤ d))))

/-- R236 to R240: BARR by a member of a configured group is a boundary at .dev, gives the generation before it, and counts an arrival; the last expected arrival sets the count to 0 and raises the generation by 1, in the group and in its generation word. BSETM with an expected count of 0 empties the group; another one with no arrival outstanding takes effect at once, else it is held. -/
def Obligations.Barriers : Prop := ∀ (s : State) (c : Issue) (w : WarpCore) (r : RArgs),
  let g := (r.vA s w (lowest c.lanes)).toNat % 1024
  let b := s.barrier g
  (Issuing s c w (.barr r) → Undoomed w c.lanes → s.groupOf (s.asidOf w) g = true → b.expect ≠ 0 → b.member w.core w.slot = true →
    Completes (.barr r) s fun t => Gave ((s.boundary c.wid .dev true).arrive g) t c r.d.toNat [b.gen] ∧
      (t.barrier g).arrived = (if b.arrived + 1 = b.expect then 0 else b.arrived + 1) ∧
      (t.barrier g).gen = (if b.arrived + 1 = b.expect then b.gen + 1 else b.gen) ∧
      (b.arrived + 1 = b.expect → t.mem.bytes (s.fw.genWords + 4 * g) 4 = bytesOfNat 4 (b.gen + 1).toNat)) ∧
  (Issuing s c w (.bsetm r) → s.groupOf (s.asidOf w) g = true →
    let q := s.rdQuad w (lowest c.lanes) r.b.toNat posB
    let rect := (bits q 3 0, bits q 8 4, bits q 11 9, bits q 14 12)
    bits q 31 15 = 0 → (s.launch w.launch).holdsRect rect.1 rect.2.1 rect.2.2.1 rect.2.2.2 = true →
      Completes (.bsetm r) s fun t => SameMemory s t ∧
        (∃ w', t.warp? c.wid = some w' ∧ SameRegs w w' ∧ Stand w' c.lanes c.prio c.next .ready) ∧
        (bits q 55 32 = 0 → (t.barrier g).expect = 0 ∧ (t.barrier g).arrived = 0 ∧ (t.barrier g).slots = 0 ∧ (t.barrier g).gen = b.gen ∧
          ∀ id x, t.regs.find? id = some x → ¬ (x.cmp = 8 ∧ x.key = s.fw.genWords + 4 * g)) ∧
        (bits q 55 32 ≠ 0 → b.arrived = 0 → ((t.barrier g).x, (t.barrier g).y, (t.barrier g).logw, (t.barrier g).logh) = rect ∧
          (t.barrier g).expect = bits q 55 32 ∧ (t.barrier g).slots = BitVec.ofNat 64 (q / 2 ^ 64) ∧ (t.barrier g).gen = b.gen) ∧
        (bits q 55 32 ≠ 0 → b.arrived ≠ 0 → (t.barrier g).expect = b.expect ∧ (t.barrier g).arrived = b.arrived ∧ (t.barrier g).heldSet.isSome = true))

/-! ### Calls (chapter 5) -/

/-- R86, R87, R93, R153: CALLW whose lanes all pass their checks. A lane that calls a same function goes to its entry at priority 0 with fp = its old sp and sp 16 lower; one that calls a widen or a gather function parks after the call, as a caller of that call. Its other registers stay. R98, R154: CALLK whose lanes all pass their checks, with keys below the number of keys: every lane parks after the call, in a keyed collection of its function, with its key and completion offset. No register changes. R84, R86, Table 5-2: a lane's call of a same function writes 16 bytes below its sp, with fp, sp, the return address and the priority, and no other byte of memory; without 16 bytes above its floor it fails with FRAME_OVERFLOW and changes nothing. The model's choice: log 29: details of calls. -/
def Obligations.WidthCalls : Prop := (∀ (s : State) (c : Issue) (w : WarpCore) (r : RArgs), Issuing s c w (.callw r) →
  let s0 := s.modRun c.wid WarpCore.drainRegs
  let x := s0.checkCalls c w.drainRegs r.d.toNat false (fun l => (r.pairA s0 w.drainRegs l).toNat % 2 ^ 57) true
  x.2.1 = [] → (x.1.callGroups c w.drainRegs r.d.toNat [] x.2.2).2 = [] →
  ∃ (u : State) (w' : WarpCore), exec (.callw r) s = .next u.settleCalls ∧ u.cur = none ∧ u.warp? c.wid = some w' ∧ w'.out = [] ∧
    ∀ l e h, (l, e, h) ∈ x.2.2 → (∀ n, w'.held? l (.thread n) = w.held? l (.thread n) ∧ w'.held? l (.uni n) = w.held? l (.uni n)) ∧
      if h.rule = 0 then (w'.lane l).fp = (w.lane l).sp ∧ (w'.lane l).sp = (w.lane l).sp - 16 ∧ Stand w' (laneBit l) 0 e .ready
      else (w'.lane l).fp = (w.lane l).fp ∧ (w'.lane l).sp = (w.lane l).sp ∧ Stand w' (laneBit l) c.prio c.next .callpark ∧
        (h.rule = 1 → ∃ id q, u.widens.find? id = some q ∧ q.token = w.token ∧ q.entry = e ∧ q.n = h.size ∧ (l, (w.lane l).sp.toNat, (w.lane l).floor) ∈ q.callers) ∧
        (h.rule ≠ 1 → ∃ id g k, u.gathers.find? id = some g ∧ g.entry = e ∧ k ∈ g.callers ∧ k.token = w.token ∧ k.lane = l)) ∧
  (∀ (s : State) (c : Issue) (w : WarpCore) (r : RArgs), Issuing s c w (.callk r) → Undoomed w c.lanes →
  let s0 := s.modRun c.wid WarpCore.drainRegs
  let x := s0.checkCalls c w.drainRegs r.d.toNat true (fun l => (r.pairA s0 w.drainRegs l).toNat % 2 ^ 57) (decide (r.b.toNat < 96))
  x.2.1 = [] → (∀ l e h, (l, e, h) ∈ x.2.2 → (r.vB s w.drainRegs l).toNat < 2 ^ h.size) →
  ∃ (u : State) (w' : WarpCore), exec (.callk r) s = .next u.settleCalls ∧ u.cur = none ∧ SameMemory s u ∧ u.warp? c.wid = some w' ∧ SameRegs w w' ∧ w'.out = [] ∧
    ∀ l e h, (l, e, h) ∈ x.2.2 → Stand w' (laneBit l) c.prio c.next .callpark ∧
      ∃ id q k, u.keyeds.find? id = some q ∧ q.entry = e ∧ q.launch = w.launch ∧ q.closed = false ∧ k ∈ q.callers ∧ k.token = w.token ∧ k.lane = l ∧
        k.key = (r.vB s w.drainRegs l).toNat ∧ k.off = (r.vB1 s w.drainRegs l).toNat) ∧
  (∀ (s : State) (c : Issue) (w : WarpCore) (l e : Nat), s.warp? c.wid = some w → w.wid = c.wid → w.stores = [] →
  let sp := (w.lane l).sp.toNat
  let va := (s.arenaOf w + sp - 16) % 2 ^ 64
  ((w.lane l).floor + 16 ≤ sp → va % 2 ^ 18 + 16 ≤ 2 ^ 18 → ∀ s1 leaf pa, s.engineTranslate w.party (s.asidOf w) .store va = (s1, .ok (leaf, pa)) → KeyInForce s1 leaf.okey pa 16 →
    ∃ t, s.callSame c l e = (t, none) ∧
      StoredAmong s t pa (bytesOfNat 16 (c.prio % 16 * 2 ^ 124 + c.next % 2 ^ 57 * 2 ^ 64 + sp * 2 ^ 32 + (w.lane l).fp.toNat))) ∧
  (sp < (w.lane l).floor + 16 → s.callSame c l e = (s, some (trapAt .frameOverflow ((sp + 2 ^ 32 - 16) % 2 ^ 32)))))

/-- R85, R155: RETW of lanes whose records are of kind same: each takes fp, sp, return address and priority from the record it reads, after the lanes below it have returned, and keeps its other registers. R91, R96, R100, R155, R156: returns of callee lanes, when no lane faults. RETW and RETW.B run lane by lane, RETK lane by lane over its results; the lanes that end as sub-lanes or as keyed callees leave their warp after a boundary. A gather host that returns with RETW.B gives every caller its own results; a keyed callee gives its origin its results. The model's choice: log 29: details of calls. -/
def Obligations.Returns : Prop := (∀ (s : State) (c : Issue) (w : WarpCore) (r : RArgs), Issuing s c w (.retw r) → Undoomed w c.lanes →
  let s0 := s.modRun c.wid WarpCore.drainRegs
  let before (l : Nat) : State := (s0.returnLanes c false ((lanesOf c.lanes).filter (fun k => decide (k < l)))).1
  (∀ l < 32, hasLane c.lanes l = true → ∃ s1 w1 k, (before l).readRecord c l [0, 1, 2] = (s1, .ok (w1, k)) ∧ k.kind = 0) →
  ∃ (u : State) (w' : WarpCore), exec (.retw r) s = .next u.settleCalls ∧ u.cur = none ∧ u.warp? c.wid = some w' ∧ w'.out = [] ∧
    ∀ l < 32, hasLane c.lanes l = true → ∀ s1 w1 k, (before l).readRecord c l [0, 1, 2] = (s1, .ok (w1, k)) →
      (w'.lane l).fp = k.cfp ∧ (w'.lane l).sp = k.csp ∧ Stand w' (laneBit l) k.prio k.rpc .ready ∧
      ∀ n, w'.held? l (.thread n) = w.held? l (.thread n) ∧ w'.held? l (.uni n) = w.held? l (.uni n)) ∧
  (∀ (s : State) (c : Issue) (w : WarpCore),
  let s0 := s.modRun c.wid WarpCore.drainRegs
  let ends (s1 : State) (sc : Scope) (ended : List Nat) : State :=
    { (if ended = [] then s1 else (s1.boundary c.wid sc false).exitLanes c.wid (maskOf ended)) with cur := none }
  (∀ r s1 ended, Issuing s c w (.retw r) → Undoomed w c.lanes → s0.returnLanes c false (lanesOf c.lanes) = (s1, [], ended) →
    exec (.retw r) s = .next (ends s1 .core ended).settleCalls) ∧
  (∀ r s1 ended, Issuing s c w (.retwB r) → Undoomed w c.lanes → s0.returnLanes c true (lanesOf c.lanes) = (s1, [], ended) →
    ended = [] ∧ exec (.retwB r) s = .next { s1 with cur := none }.settleCalls) ∧
  (∀ r s1, Issuing s c w (.retk r) → Undoomed w c.lanes → s0.eachLane (lanesOf c.lanes) (fun s l => s.returnKeyed c l) = (s1, []) →
    exec (.retk r) s = .next (ends s1 (s1.retkScope w (lanesOf c.lanes)) (lanesOf c.lanes)).settleCalls) ∧
  (∀ l k id g t, s.warp? c.wid = some w → s.gathers.find? id = some g → (g.callers.map (fun k => (k.token, k.lane))).Nodup → (∀ q ∈ g.callers, q.lane < 32) →
    s.returnGather c w l k id true = (t, none) → t.gathers.find? id = none ∧ ∀ q ∈ g.callers, ∀ v v', s.tokWarp? q.token = some v → t.tokWarp? q.token = some v' →
      ∀ j < g.nres, v'.held? q.lane (.thread (q.run + j)) = w.held? l (w.resolve j)) ∧
  (∀ l s1 w1 k coll origin ol q o t, s.readRecord c l [3] = (s1, .ok (w1, k)) → (w1.lane l).role = .keyed coll origin ol → s1.keyeds.find? coll = some q →
    q.callers.find? (fun x => decide (x.token = origin) && decide (x.lane = ol)) = some o → s.returnKeyed c l = (t, none) →
    SameMemory s1 t ∧ ∀ v', t.tokWarp? origin = some v' → ∀ j < q.nres, v'.held? ol (.thread (o.run + j)) = w1.held? l (w1.resolve j)))

/-- R157: lanes of EXIT that are no callees leave their warp: no entry, no mask bit, their registers as they were; other lanes stay. A warp with no lane left is gone from its slot. -/
def Obligations.LanesExit : Prop := ∀ (s : State) (c : Issue) (w : WarpCore) (r : RArgs), Issuing s c w (.exit r) → (w.k.map Prod.fst).Nodup →
  (∀ l < 32, hasLane c.lanes l = true → (w.lane l).role = .none ∧ (w.lane l).hosts = []) →
  (w.live &&& ~~~c.lanes ≠ 0 → ∃ (u : State) (w' : WarpCore), exec (.exit r) s = .next u.settleCalls ∧ OnlyWarp s u c.wid w' ∧ w'.live = w.live &&& ~~~c.lanes ∧
    (∀ l < 32, hasLane c.lanes l = true → w'.entryOf l = none) ∧ (∀ n, w'.mask n = w.mask n &&& ~~~c.lanes) ∧ SameRegs w w' ∧
    { w' with live := w.live, frontier := w.frontier, k := w.k, lanes := w.lanes, out := w.out, drained := w.drained } = w) ∧
  (w.live &&& ~~~c.lanes = 0 → Undoomed w c.lanes → w.task = 0 → (∀ x, s.warps.find? c.wid = some x → x.help = []) →
    ∃ u, exec (.exit r) s = .next u.settleCalls ∧ u.cur = none ∧ u.warps.find? c.wid = none ∧ (w.stores = [] → SameMemory s u))

/-! ### Tasks, futures, locks, queues (chapter 13) -/

/-- R248, R250, R252: TSPAWN and TRANGE run their active lanes in ascending order and give each its code; a lane whose code is 0 puts its record, open, at the top of its core's deque when no steal request waits there. R253 to R256: TNEXT gives the next sub-range of a running range, of at most GRAIN, and moves LO past it; TSELF gives the record, job or help depth; TJOIN goes on when no child is open; TJOIN with open children ends its warp, writes the code that a resume starts at into its record and STATE SUSPENDED into its control word, whose other fields stay; the last lane of TEND ends its warp. R267: TCANCEL gives 0 and goes on; every lane that waits in a running task of the job, in another warp of a launch with this cancel bitmap, has a code; when no record is queued, the job's bit is set and the completion word rises by 1. The model's choice: log 30: details of tasks; log 55: the waits that a cancel leaves. -/
def Obligations.Tasks : Prop := (∀ (s : State) (c : Issue) (w : WarpCore),
  let spawns (i : Instr) (range : Bool) (r : RArgs) : Prop := Issuing s c w i → s.hasDarner w.launch = true → Undoomed w c.lanes →
    let x := s.loadLanes (lanesOf c.lanes) (fun s l => s.spawnLane c w range (r.pairA s w l).toNat)
    x.2.1 = [] → Completes i s fun t => ∃ w1, x.1.warp? c.wid = some w1 ∧ RegResult x.1 t c w1 r.d.toNat 1 (fun l _ => BitVec.ofNat 32 (valueOf x.2.2 l)) 0
  (∀ r, spawns (.tspawn r) false r ∧ spawns (.trange r) true r) ∧
  (∀ range record t, s.hasDarner w.launch = true → (∀ x, s.warp? c.wid = some x → x.stores = []) → s.spawnLane c w range record = (t, .ok 0) → (s.darner w.core w.launch).mailbox = [] →
    (t.darner w.core w.launch).deque = record :: (s.darner w.core w.launch).deque ∧ record ∈ (t.launch w.launch).records)) ∧
  (∀ (s : State) (c : Issue) (w : WarpCore) (r : RArgs),
  (Issuing s c w (.tnext r) → s.hasDarner w.launch = true → (s.darner w.core w.launch).mailbox = [] → ∀ x, (s.darner w.core w.launch).ranges.find? w.task = some x →
    Completes (.tnext r) s fun t => let n := min x.grain (x.hi - x.lo)
      Gave (s.modDarner w.core w.launch (fun d => { d with ranges := d.ranges.insert w.task { x with lo := x.lo + n } })) t c r.d.toNat [BitVec.ofNat 32 x.lo, BitVec.ofNat 32 n]) ∧
  (Issuing s c w (.tself r) → Completes (.tself r) s fun t =>
    Gave s t c r.d.toNat (if sub r.px = 0 then [BitVec.ofNat 32 w.task, BitVec.ofNat 32 (w.task / 2 ^ 32)] else if sub r.px = 1 then [BitVec.ofNat 32 w.job] else [BitVec.ofNat 32 w.depth])) ∧
  (Issuing s c w (.tjoin r) → s.hasDarner w.launch = true → w.live &&& ~~~c.lanes = 0 →
    (w.task = 0 → Completes (.tjoin r) s fun t => Went s t c) ∧
    (w.task ≠ 0 → ∀ s1 y s2 v, s.waveAccess w .atomic w.task 32 = (s1, .ok y) → s1.control w.launch w.task w.token = (s2, some v) →
      (v % 2 ^ 32 = 0 → Completes (.tjoin r) s fun t => Went s2 t c) ∧
      (v % 2 ^ 32 ≠ 0 → Undoomed w c.lanes → (∀ x, s.warps.find? c.wid = some x → x.help = []) →
        ∃ u : State, exec (.tjoin r) s = .next u.settleCalls ∧ u.cur = none ∧ u.warps.find? c.wid = none ∧
          let code : Nat := (r.pairA s2 w (lowest c.lanes)).toNat
          let a0 := (s2.boundary c.wid .dev false).storeRange w.core w.launch w.task w.token
          let a := a0.dWrite w.launch w.task w.task (bytesOfNat 8 code) w.token
          ∀ a1 l pa, (∀ k < 32, hasLane c.lanes k = true → (w.lane k).role = .none ∧ (w.lane k).hosts = []) →
            a.engineTranslate .dev (s.launch w.launch).asid .atomic (w.task + 24) = (a1, .ok (l, pa)) →
            let x := natOfBytes (u.mem.bytes pa 8)
            bits x 31 0 = bits v 31 0 ∧ bits x 34 32 = 2 ∧ bit x 35 = bit v 35 ∧ bits x 63 48 = bits v 63 48 ∧
            ∀ l0 p0, (a0.engineTranslate .dev (s.launch w.launch).asid .store w.task).2 = .ok (l0, p0) → (p0 + 8 ≤ pa ∨ pa + 8 ≤ p0) →
              natOfBytes (u.mem.bytes p0 8) = code))) ∧
  (Issuing s c w (.tend r) → s.hasDarner w.launch = true → Undoomed w c.lanes → (∀ l < 32, hasLane c.lanes l = true → (w.lane l).role = .none) →
    (w.live &&& ~~~c.lanes ≠ 0 → ∃ (u : State) (w' : WarpCore), exec (.tend r) s = .next u.settleCalls ∧ u.cur = none ∧ u.warp? c.wid = some w' ∧
      w'.live = w.live &&& ~~~c.lanes ∧ w'.stores = [] ∧ SameRegs w w' ∧ ∀ l < 32, hasLane c.lanes l = true → w'.entryOf l = none) ∧
    (w.live &&& ~~~c.lanes = 0 → (∀ x, s.warps.find? c.wid = some x → x.help = []) → (w.task = 0 ∨ w.stores = [] ∧ (s.darner w.core w.launch).deque.length < Config.dequeEntries) →
      ∃ u : State, exec (.tend r) s = .next u.settleCalls ∧ u.cur = none ∧ u.warps.find? c.wid = none))) ∧
  (∀ (s : State) (c : Issue) (w : WarpCore) (r : RArgs) (s1 s2 : State) (x y : Leaf × Nat), Issuing s c w (.tcancel r) →
  let job := (r.vA s w (lowest c.lanes)).toNat % 2 ^ 16
  s.hasDarner w.launch = true → s.waveAccess w .atomic ((s.launch w.launch).cancel + job / 8) 1 = (s1, .ok x) →
  s1.waveAccess w .atomic (r.pairB s w (lowest c.lanes)).toNat 4 = (s2, .ok y) →
  Completes (.tcancel r) s fun t => t.cur = none ∧
    (∃ w', t.warp? c.wid = some w' ∧ RunHolds w w' c.lanes r.d.toNat 1 (fun _ _ => 0) ∧ OtherRegs w w' c.lanes r.d.toNat 1 ∧ Stand w' c.lanes c.prio c.next .ready) ∧
    (∀ k x e b q, k ≠ c.wid → s.warps.find? k = some x → x.run.launch ∈ s.sameBitmap w.launch → x.run.task ≠ 0 → x.run.job = job →
      e ∈ x.run.frontier → e.lanes ≠ 0 → e.state = .wait b q → q.kind.cancels = true → ∃ x' q', t.warps.find? k = some x' ∧ q'.code.isSome = true ∧ q'.kind = q.kind ∧ { e with state := .wait b q' } ∈ x'.run.frontier) ∧
    let map : Nat := (s.launch w.launch).cancel + job / 8
    let word : Nat := (r.pairB s w (lowest c.lanes)).toNat
    ∀ s4 old s5 l p, (s2.publish c.wid .dev).dRead w.launch w.task map 1 w.token = (s4, some old) → (s4.engineTranslate .dev (s.launch w.launch).asid .store map).2 = .ok (l, p) →
      s4.ctxWrite (s.launch w.launch).asid map (bytesOfNat 1 (old ||| 2 ^ (job % 8))) = (s5, true) → s5.queuedRecords w.launch = [] → (∀ e ∈ s.ctxs, e.2.swaps = []) →
      let z := ((s5.cancelJob w.launch job).fillSpan y.1 y.2 4).readGlobal c.wid w true y.1 word 4
      z.1.regionAllows (z.1.warpWorld w) y.2 = true → y.2 % 4 = 0 →
      Stored s5 t y.2 (bytesOfNat 4 (natOfBytes z.2 + 1)) ∧ (p < y.2 ∨ y.2 + 4 ≤ p → bit (t.mem.byte p).toNat (job % 8) = true ∧ t.mem.byte p = BitVec.ofNat 8 (old ||| 2 ^ (job % 8))))

/-- R247 to R249, R415: a Darner that claims its next entry runs it in the slot that it has free, with every lane live at the record's code; one that may start nothing changes nothing. A steal request reaches a victim's mailbox when it has room and nothing pending there; after 2 000 ns unserved it is withdrawn. A fault of a Darner's access stops its launch. The model's choice: log 30: details of the Darner. -/
def Obligations.DarnerEvents : Prop := ∀ (s : State) (core launch : Nat),
  (s.mayStart core launch = none → exec (.darnerPop core launch) s = .next s ∧ exec (.stealRequest core launch) s = .next s) ∧
  (∀ slot rank record d s2 v s3 x, s.mayStart core launch = some (slot, rank) → (s.darner core launch).take = some (record, d) →
    ((s.warpsOn core launch).isEmpty = true → s.outranked core launch = false) → (s.modDarner core launch (fun _ => d)).claim core launch record 0 = (s2, .won v) → ctlRange v = false → s2.dRead launch record record 16 0 = (s3, some x) →
    ((s3.modDarner core launch (fun d => { d with ranges := d.ranges.erase record })).placeContext core (s.launch launch).asid).BanksCome core launch → Completes (.darnerPop core launch) s fun t => (t.darner core launch).deque = d.deque ∧ ∃ w, t.warp? (widOf core slot) = some w ∧
      w.task = record ∧ w.job = ctlJob v ∧ w.rank = rank ∧ w.launch = launch ∧ w.live = 0xFFFFFFFF ∧ Stand w 0xFFFFFFFF 0 (bits x 56 0 / 4 * 4) .ready ∧
      ∀ l < 32, w.held? l (.uni 0) = BitVec.ofNat 32 record ∧ w.held? l (.uni 1) = BitVec.ofNat 32 (record / 2 ^ 32) ∧
        w.held? l (.uni 2) = BitVec.ofNat 32 (bits x 127 64) ∧ w.held? l (.uni 3) = BitVec.ofNat 32 (bits x 127 64 / 2 ^ 32) ∧ w.held? l (.uni 4) = BitVec.ofNat 32 (ctlJob v)) ∧
  (∀ y v, s.mayStart core launch = some y → (s.darner core launch).take = none → (s.darner core launch).request = none →
    nextVictim (victimOrder (s.launch launch) core) (s.darner core launch).lastVictim = some v → v ≠ core → (s.darner v launch).mailbox.length < 4 → s.tasksOn v launch = true →
    (s.darner v launch).pending = [] → Completes (.stealRequest core launch) s fun t => SameMemory s t ∧
      (t.darner v launch).mailbox = (s.darner v launch).mailbox ++ [(core, s.ns)] ∧ (t.darner core launch).request = some (v, s.ns) ∧ (t.darner core launch).lastVictim = some v) ∧
  (∀ v n, (s.darner core launch).request = some (v, n) → v ≠ core →
    (s.ns < n + 2000 → exec (.stealWithdraw core launch) s = .next s) ∧
    (n + 2000 ≤ s.ns → Completes (.stealWithdraw core launch) s fun t => SameMemory s t ∧ (t.darner core launch).request = none ∧ ∀ m ∈ (t.darner v launch).mailbox, m.1 ≠ core)) ∧
  (∀ f rest l, s.darnerFaults = f :: rest → s.launches.find? f.launch = some l → Completes .darnerAccessFault s fun t => t.darnerFaults = rest ∧
    (∃ l', t.launches.find? f.launch = some l' ∧ l'.stopped = true ∧ l'.faulted = true) ∧ ∀ k, (t.darner k f.launch).deque = [] ∧ (t.darner k f.launch).mailbox = [])

/-- R257, R258: FSET runs its active lanes in ascending order and gives each its code. A lane fills an EMPTY future whose owner has not faulted (its value, STATE FULL, in the 16 bytes and nowhere else) with code 0; one whose owner has faulted becomes FAILED, with code 3, and keeps the rest; a FULL one stays, with code 1, any other stays, with code 3. R263: UNLOCK by the holder clears the word that holds its record, and no other byte; one that holds neither word traps with PROTECTION, subcode 3. R264, R265: QPUT, QPUT.prom and QPUT.fill run their active lanes in ascending order; when no lane faults or waits, each gets its index and its code, and all go on. The model's choice: log 30: details of futures, locks and queues. -/
def Obligations.FuturesLocksQueues : Prop := (∀ (s : State) (c : Issue) (w : WarpCore),
  (∀ r, Issuing s c w (.fset r) → let x := s.loadLanes (lanesOf c.lanes) (fun s l => s.setFuture c w (r.pairA s w l).toNat (r.pairB s w l))
    x.2.1 = [] → Completes (.fset r) s fun t => ∃ w1, x.1.warp? c.wid = some w1 ∧ RegResult x.1 t c w1 r.d.toNat 1 (fun l _ => BitVec.ofNat 32 (valueOf x.2.2 l)) 0) ∧
  (∀ ea v s1 leaf pa, s.warp? c.wid = some w → w.stores = [] → s.waveAccess w .atomic ea 16 = (s1, .ok (leaf, pa)) → leaf.shadow = false →
    (∀ q : State, q.ctxs = s.ctxs → q.readLeaf w leaf ea = leaf) → s1.regionAllows (s1.warpWorld w) pa = true → CleanBytes s1 leaf.okey pa 16 →
    (∀ y ∈ wordKeys pa 16, offends w.party (s.histOf y) = false) →
    pa % 4 = 0 → let f := natOfBytes (s.mem.bytes pa 16)
    let q := (((s1.publish c.wid .dev).fillSpan leaf pa 16).readGlobal c.wid w true leaf ea 16).1
    let ends (code : Nat) (P : State → Prop) : Prop := ∃ t, s.setFuture c w ea v = (t, .ok code) ∧ P t
    (f % 4 = 0 → (q.ownerFaulted w (recordIn f)).2 = .ok false → ends 0 (fun t => Stored s t pa (bytesOfNat 16 (f % 2 ^ 64 + 1 + v.toNat * 2 ^ 64)))) ∧
    (f % 4 = 0 → (q.ownerFaulted w (recordIn f)).2 = .ok true → ends 3 (fun t => Stored s t pa (bytesOfNat 4 (f % 2 ^ 32 + 2)))) ∧
    (f % 4 = 0 → bits f 56 5 = 0 → (q.ownerFaulted w (recordIn f)).2 = .ok false) ∧
    (f % 4 = 1 → ends 1 (SameMemory s)) ∧ (2 ≤ f % 4 → ends 3 (SameMemory s)))) ∧
  (∀ (s : State) (c : Issue) (w : WarpCore) (r : RArgs) (s1 : State) (leaf : Leaf) (pa : Nat), Issuing s c w (.unlock r) →
  let ea := (r.pairA s w (lowest c.lanes)).toNat
  w.stores = [] → s.waveAccess w .atomic ea 32 = (s1, .ok (leaf, pa)) → leaf.shadow = false → (∀ q : State, q.ctxs = s.ctxs → q.readLeaf w leaf ea = leaf) →
  (∀ a, s1.regionAllows (s1.warpWorld w) a = true) → CleanBytes s1 leaf.okey pa 16 → (∀ y ∈ wordKeys pa 16, offends w.party (s.histOf y) = false) → pa % 4 = 0 →
  let x := natOfBytes (s.mem.bytes pa 16)
  let went (t : State) : Prop := t.cur = none ∧ ∃ w', t.warp? c.wid = some w' ∧ SameRegs w w' ∧ Stand w' c.lanes c.prio c.next .ready
  (x / 2 ^ 64 = w.task + 1 → Completes (.unlock r) s fun t => went t ∧ Stored s t (pa + 8) (bytesOfNat 8 0)) ∧
  (x / 2 ^ 64 ≠ w.task + 1 → x % 2 ^ 64 = w.task + 1 → Completes (.unlock r) s fun t => went t ∧ Stored s t pa (bytesOfNat 8 0)) ∧
  (x / 2 ^ 64 ≠ w.task + 1 → x % 2 ^ 64 ≠ w.task + 1 → ∃ u : State, SameMemory s u ∧ exec (.unlock r) s = .next (u.trapAll c (trapOf .protection 3)))) ∧
  (∀ (s : State) (c : Issue) (w : WarpCore) (r : RArgs), Undoomed w c.lanes →
  let puts (i : Instr) (f : State → Nat → State × Except Trap Put) : Prop := Issuing s c w i →
    let x := s.putLanes (lanesOf c.lanes) f
    x.2.1 = [] → (∀ p ∈ x.2.2, p.code.isSome = true) → Completes i s fun t => ∃ w1, x.1.warp? c.wid = some w1 ∧
      RegResult x.1 t c w1 r.d.toNat 2 (fun l j => match x.2.2.find? (fun p => decide (p.lane = l)) with
        | some p => if j = 0 then BitVec.ofNat 32 p.index else BitVec.ofNat 32 (p.code.getD 0)
        | none => 0) 0
  puts (.qput r) (fun s l => s.putLane c w (w.resolve r.d.toNat) l (r.pairA s w l).toNat (r.pairB s w l).toNat 1) ∧
  puts (.qputProm r) (fun s l => s.putLane c w (w.resolve r.d.toNat) l (r.pairA s w l).toNat (r.pairB s w l).toNat 2) ∧
  puts (.qputFill r) (fun s l => s.fillLane c w l (r.pairA s w l).toNat (s.rd w l (r.b.toNat + 2) (posB + 2)).toNat (r.pairB s w l).toNat))

/-- R259, R263, R266 with R220: FWAIT, LOCKW and QTAKE at a word that they find ready (a FULL future, a free lock without bias, a FULL entry) write their results at once, code 0, and go on; FWAIT of an EMPTY future with no owner sleeps on a registration of its word; a future that is neither gives code 3. The model's choice: log 30: when a wait looks, and its codes. -/
def Obligations.TaskWaits : Prop := ∀ (s : State) (c : Issue) (w : WarpCore) (r : RArgs), Undoomed w c.lanes → c.lanes ≠ 0 →
  let limit : Word := r.vB s w (lowest c.lanes)
  let gives (t : State) (vals : List (Nat × Word)) : Prop := Answered t c (w.resolve r.d.toNat) vals
  (Issuing s c w (.fwait r) → ∀ s1 leaf pa, s.waveAccess w .load (r.pairA s w (lowest c.lanes)).toNat 16 = (s1, .ok (leaf, pa)) →
    let ea := (r.pairA s w (lowest c.lanes)).toNat
    let s3 := s1.ownFirst c.wid pa 16
    ∀ w3 s4 f, s3.warp? c.wid = some w3 → s3.lookRead w3 true ea 16 = (s4, .ok f) →
      (f % 4 = 1 → Completes (.fwait r) s fun t => gives t [(0, BitVec.ofNat 32 (f / 2 ^ 64)), (1, BitVec.ofNat 32 (f / 2 ^ 96)), (2, 0)]) ∧
      (2 ≤ f % 4 → Completes (.fwait r) s fun t => gives t [(2, 3)]) ∧
      (f % 4 = 0 → bits f 56 5 = 0 →
        let s5 : State := { s4.startWait c c.lanes false (Wait.mk' (.future none ea) (s3.deadline limit) (w.resolve r.d.toNat) false) with cur := none }
        ∀ y, (s5.translate w3.party (s5.asidOf w3) (s5.warpWorld w3) .load ea).2 = .ok y → Completes (.fwait r) s fun t => t.cur = none ∧
        ∃ w' k id g, t.warp? c.wid = some w' ∧ Stand w' c.lanes c.prio c.next (.wait false k) ∧ k.kind = .future (some id) ea ∧ k.code = none ∧
          t.regs.find? id = some g ∧ g.key = y.2 ∧ g.cmp = 6 ∧ g.operand = 3)) ∧
  (Issuing s c w (.lockw r) → ∀ s1 leaf pa, s.waveAccess w .atomic (r.pairA s w (lowest c.lanes)).toNat 32 = (s1, .ok (leaf, pa)) →
    let ea := (r.pairA s w (lowest c.lanes)).toNat
    let s3 := s1.ownFirst c.wid pa 32
    ∀ w3 s4 x s5, s3.warp? c.wid = some w3 → s3.lookRead w3 true ea 32 = (s4, .ok x) → x % 2 ^ 64 = 0 → bit x 159 = false →
      s4.lookWrite w3 true true ea (bytesOfNat 8 (w3.task + 1)) = (s5, none) →
      Completes (.lockw r) s fun t => gives t [(0, 0)] ∧ (w3.stores = [] → SameMemory s5 t)) ∧
  (Issuing s c w (.qtake r) → ∀ s1 leaf pa, s.waveAccess w .atomic (r.pairA s w (lowest c.lanes)).toNat 64 = (s1, .ok (leaf, pa)) →
    let ea := (r.pairA s w (lowest c.lanes)).toNat
    let x := ((s1.ownFirst c.wid pa 64).fillSpan leaf pa 12).readGlobal c.wid w true leaf ea 12
    let i := bits (natOfBytes x.2) 31 0
    let va := x.1.queueEntry ea (bits (natOfBytes x.2) 95 64) i
    ∀ s2 y, x.1.waveAccess w .atomic va 16 = (s2, .ok y) →
    let s3 := (s2.waveWrite c.wid w (some .dev) leaf ea pa (bytesOfNat 4 (i + 1))).ownFirst c.wid y.2 16
    ∀ w3 s4 e s5, s3.warp? c.wid = some w3 → s3.lookRead w3 true va 16 = (s4, .ok e) → e % 4 = 1 →
      s4.lookWrite w3 true false va (bytesOfNat 4 (e % 2 ^ 32 - 1)) = (s5, none) →
      Completes (.qtake r) s fun t => gives t [(0, BitVec.ofNat 32 (e / 2 ^ 64)), (1, BitVec.ofNat 32 (e / 2 ^ 96)), (2, 0), (3, BitVec.ofNat 32 i)])

/-! ### Block transfers (chapter 14) -/

/-- R269 to R274: the BTE accepts a warp's oldest aperture store as a command when its queue has room. A row of a command whose template moves global bytes to scratchpad, or the other way, stores exactly those bytes, where the template says, and no others; the command leaves with its last row. The model's choice: log 32: a row moves wholly or not at all. -/
def Obligations.BulkCopies : Prop := ∀ (s : State) (core : Nat),
  (∀ wid a, wid / 64 = core → (s.core core).aperture.find? (fun a => decide (a.wid = wid)) = some a →
    (s.bteRoom core a = false → exec (.bteBulkCopy wid) s = .next s) ∧
    (s.bteRoom core a = true → (bteValue a.value).count ≠ 0 → s.bteFaults core a (if (bteValue a.value).tpl < 64 then s.template core a.launch (bteValue a.value).tpl else 0) = [] →
      Completes (.bteBulkCopy wid) s fun t => SameMemory s t ∧ (t.core core).aperture = (s.core core).aperture.erase a ∧ (t.core core).bte.length = (s.core core).bte.length + 1 ∧
        ∃ x, (t.core core).bte.getLast? = some x ∧ x.chan = a.chan ∧ x.value = a.value ∧ x.token = a.token ∧ x.landed = [])) ∧
  (∀ x t row k p s1, 0 < t.rowb → isSpad k = true → s.spadKeys core x.launch ((List.range t.rowb).map (t.spadOff row)) = .ok (keysFrom k t.rowb) →
    s.pieces (.core core) (s.launch x.launch).asid (if t.out then .store else .load) (t.rowAddr row) t.rowb = (s1, .ok [p]) → p.off = 0 → p.len = t.rowb →
    (t.out = false → EngineClean s1 .dev x.sinceOf p.leaf.okey p.pa t.rowb → ∃ u, s.moveRow core x t row = (u, none) ∧ StoredAmong s u k (s.mem.bytes p.pa t.rowb)) ∧
    (t.out = true → EngineClean s1 (.core core) x.sinceOf 0 k t.rowb → KeyInForce s1 p.leaf.okey p.pa t.rowb →
      ∃ u, s.moveRow core x t row = (u, none) ∧ StoredAmong s u p.pa (s.mem.bytes k t.rowb))) ∧
  (∀ x t row s1, (s.core core).bte = [x] → x.started = true → x.cmdFaults = [] → x.left.contains row = true → x.template? = some t → t.arrive = false →
    (bteValue x.value).sync = 0xFFFF → (bteValue x.value).follow = 0 → s.moveRow core x t row = (s1, none) → (s1.core core).bte = [x] →
    Completes (.bteRowLand core x.chan row) s fun u => SameMemory s1 u ∧
      if (x.left.filter (fun y => decide (y ≠ row))) = [] then (u.core core).bte = [] else (u.core core).bte = [{ x with landed := row :: x.landed }])

/-- R279, R280: ACP queues one copy for each lane with a count that is not negative and raises its tag by their number; a landing copy writes its bytes and zeros up to 32 at its scratchpad place and nowhere else. ACPWAIT with clear tags gives 0 at once and otherwise waits. -/
def Obligations.AsyncCopies : Prop := ∀ (s : State) (c : Issue) (w : WarpCore) (r : RArgs),
  (Issuing s c w (.acp r) → (s.core w.core).loadsUsed < Config.bteEntries → (∀ a ∈ (s.core w.core).aperture, a.wid ≠ c.wid) →
    (∀ l < 32, hasLane c.lanes l = true → s.bankBusy w (r.vD s w l).toNat = false) → let x := (s.drainBank c.wid).acpLanes w r (lanesOf c.lanes)
    x.2.1 = [] → Completes (.acp r) s fun t => ∃ w1 cs, x.1.warp? c.wid = some w1 ∧ SameRegs w w1 ∧ cs.map AcpCopy.lane = x.2.2.map AcpLane.lane ∧ cs.map AcpCopy.key = x.2.2.map AcpLane.key ∧
      (∀ y ∈ cs, y.token = w.token ∧ y.tag = sub r.px % 8) ∧
      WentOn (x.1.modCore w.core (fun k => { k with acps := k.acps ++ cs, acpNext := k.acpNext + 1 })) t c
        { w1 with tags := Map.set 0 w1.tags (sub r.px % 8) (Map.get 0 w1.tags (sub r.px % 8) + cs.length) }) ∧
  (∀ core i x, (s.core core).acps[i]? = some x → (∀ y ∈ (s.core core).acps.take i, y.token = x.token → y.key ≠ x.key) → isSpad x.key = true →
    (∀ leaf pa n, x.src = [(leaf, pa, n)] → n ≤ 32 → 0 < n → EngineClean s .dev { at_ := x.since, fresh := 0, token := none } leaf.okey pa n →
      Completes (.acpLand core i) s fun t => StoredAmong s t x.key (s.mem.bytes pa n ++ List.replicate (32 - n) 0) ∧ (t.core core).acps = (s.core core).acps.eraseIdx i) ∧
    (x.src = [] → Completes (.acpLand core i) s fun t => StoredAmong s t x.key (List.replicate 32 0) ∧ (t.core core).acps = (s.core core).acps.eraseIdx i)) ∧
  (Issuing s c w (.acpwait r) → Undoomed w c.lanes → c.lanes ≠ 0 →
    ((∀ n < 8, (r.vA s w (lowest c.lanes)).getLsbD n = true → Map.get 0 w.tags n = 0) → Completes (.acpwait r) s fun t => Answered t c (w.resolve r.d.toNat) [(0, 0)]) ∧
    ((∃ n < 8, (r.vA s w (lowest c.lanes)).getLsbD n = true ∧ Map.get 0 w.tags n ≠ 0) → Completes (.acpwait r) s fun t =>
      Waits s t c w false { Wait.mk' (.acp ((r.vA s w (lowest c.lanes)).toNat % 256)) none (w.resolve r.d.toNat) true with sw := bit c.insn 31 }))

/-- R277, R281 to R284: TPLSET makes the 32 scratchpad bytes the launch's template of that number and leaves the others; SWINIT writes TARGET and a COUNT of 0 into its sync word and no other byte; SYNCW waits on GEN of its sync word; BTESTAT gives a status word, and BTESTAT.clr then clears the channel's. -/
def Obligations.TemplatesAndSync : Prop := ∀ (s : State) (c : Issue) (w : WarpCore) (r : RArgs),
  let lead := lowest c.lanes
  let went (t : State) : Prop := t.cur = none ∧ ∃ w', t.warp? c.wid = some w' ∧ SameRegs w w' ∧ Stand w' c.lanes c.prio c.next .ready
  (Issuing s c w (.tplset r) → ∀ k, s.bankBusy w (r.vB s w lead).toNat = false → s.bankBusy w ((r.vB s w lead).toNat + 31) = false →
    s.spadRange w (r.vB s w lead).toNat 16 32 = .ok (keysFrom k 32) → isSpad k = true → w.stores = [] → EngineClean s (.core w.core) { at_ := s.seq, fresh := w.refresh, token := some w.token } 0 k 32 →
    Completes (.tplset r) s fun t => went t ∧ SameMemory s t ∧ ∀ i < 64, t.template w.core w.launch i =
      if i = (r.vA s w lead).toNat % 64 then BitVec.ofNat 256 (natOfBytes (s.mem.bytes k 32)) else s.template w.core w.launch i) ∧
  (Issuing s c w (.swinit r) → ∀ k, s.bankBusy w (r.vA s w lead).toNat = false → s.spadRange w (r.vA s w lead).toNat 16 16 = .ok (keysFrom k 16) → isSpad k = true → w.stores = [] →
    Completes (.swinit r) s fun t => went t ∧ k ∈ t.syncs ∧ Stored s t k (bytesOfNat 4 (r.vB s w lead).toNat ++ bytesOfNat 4 0)) ∧
  (Issuing s c w (.syncw r) → Undoomed w c.lanes → w.stores = [] → s.anyBusy w ((lanesOf c.lanes).map (fun l => (r.vA s w l).toNat)) = false →
    (∀ l < 32, hasLane c.lanes l = true → ∃ k, s.spadRange w (r.vA s w l).toNat 16 16 = .ok (keysFrom k 16)) →
    Table.sortedFrom 0 s.regs = true → Completes (.syncw r) s fun t => t.cur = none ∧ SameMemory s t ∧ ∀ l < 32, hasLane c.lanes l = true → ∀ k, s.spadRange w (r.vA s w l).toNat 16 16 = .ok (keysFrom k 16) →
      ∃ w' e q id, t.warp? c.wid = some w' ∧ SameRegs w w' ∧ w'.entryOf l = some e ∧ e.prio = c.prio ∧ e.pc = c.next ∧ e.state = .wait false q ∧ q.kind = .mem id ∧ q.dst = w.resolve r.d.toNat ∧
        (CleanBytes t 0 (k + 8) 4 → q.code = if cmpHolds 8 false (natOfBytes (s.mem.bytes (k + 8) 4)) (r.vB s w l).toNat then some 0 else if r.vB1 s w l = 0 then some 2 else none) ∧
        (q.code = none → ∃ g, t.regs.find? id = some g ∧ g.key = k + 8 ∧ g.cmp = 8 ∧ g.operand = (r.vB s w l).toNat ∧ g.place = .warp ∧ hasLane g.lanes l = true)) ∧
  (Issuing s c w (.btestat r) → Completes (.btestat r) s fun t => Gave s t c r.d.toNat
    [if sub r.px = 0 then s.channelStatus w.core w.launch ((r.vA s w lead).toNat % 8)
      else if sub r.px = 1 then BitVec.ofNat 32 (Config.bteEntries - (s.core w.core).loadsUsed + (Config.bteEntries - (s.core w.core).storesUsed) * 256)
      else BitVec.ofNat 32 (Map.get 0 w.tags ((r.vA s w lead).toNat % 8) % 1024)]) ∧
  (Issuing s c w (.btestatClr r) → Completes (.btestatClr r) s fun t => let n := (r.vA s w lead).toNat % 8
    Gave (s.modChannel w.core w.launch n (fun _ => { fault := false, orphan := false, detail := 0 })) t c r.d.toNat [s.channelStatus w.core w.launch n] ∧
    t.channel w.core w.launch n = { fault := false, orphan := false, detail := 0 })

/-! ### Press (chapters 16 and 17) -/

/-- R295, R300, R301, R313: a Press command whose predicate bit is clear changes nothing; one that passes its checks, with Press its launch's and the queue open, enters the queue after its warp's scratchpad stores, and its lanes go on, those of MXLOAD waiting for it. A command that is not held and follows none that is gets the next number. The model's choice: log 34: details of the checks. -/
def Obligations.PressCommandsAccepted : Prop := ∀ (s : State) (c : Issue) (w : WarpCore),
  let command (i : Instr) (x : XArgs) (ask : State → Issue → WarpCore → PressCmd → State × Except Trap PressCmd) (waits : Bool) : Prop := Issuing s c w i →
    (governed x w = false → Completes i s fun t => WentOn s t c w) ∧
    (governed x w = true → (waits = true → Undoomed w c.lanes) → ∀ s1 p s2, ask s c w (newPressCmd i x c w) = (s1, .ok p) → s1.takePress w.core w.launch = some s2 →
      (s2.core w.core).press.owner = some w.launch → (s2.core w.core).press.closed = false → Completes i s fun t => let s3 := s2.drainBank c.wid
        let s4 := s3.modPress w.core (fun q => q.accept { p with since := s3.seq })
        if waits then ∃ w1 k, s4.warp? c.wid = some w1 ∧ k.kind = .mxload (Map.get 0 (s4.core (c.wid / 64)).press.last p.slot).toNat ∧ Waits s4 t c w1 false k else Went s4 t c)
  (∀ x, command (.tzero x) x (State.tzeroAsk x) false ∧ command (.mxlw x) x (State.mxlwAsk x) false ∧ command (.mxswap x) x State.mxswapAsk false ∧
    command (.mxmm x) x (State.streamAsk x) false ∧ command (.mxmms x) x (State.streamAsk x) false ∧ command (.mxep x) x (State.mxepAsk x) false ∧
    command (.mxsel x) x (State.mxselAsk x) false ∧ command (.mxselRead x) x (State.mxselReadAsk x) false ∧ command (.accld x) x (State.cellsAsk x true) false ∧
    command (.accst x) x (State.cellsAsk x true) false ∧ command (.accz x) x (State.cellsAsk x false) false ∧ command (.mxsave x) x (State.imageAsk x .store none) false ∧
    command (.mxload x) x (State.mxloadAsk x) true) ∧
  (∀ (p : Press) (q : PressCmd), q.held = none → (∀ y ∈ p.queue, y.token = q.token → y.num ≠ none) →
    (p.accept q).queue = p.queue ++ [{ q with num := some (p.issued + 1).toNat }] ∧ (p.accept q).issued = p.issued + 1 ∧ Map.get 0 (p.accept q).last q.slot = p.issued + 1 ∧
      Map.get 0 (p.accept q).out q.slot = Map.get 0 p.out q.slot + 1 ∧ (p.accept q).seq = p.seq)

/-- R301, R318 to R324: a command of one row that runs without a fault completes: SEQ is its number, it leaves the queue and OUT of its warp falls. MXSWAP exchanges the planes, MXSEL sets the select unit with empty lines, ACCZ clears its cells and no other, TZERO clears its tile's bytes and no other byte. MXLW makes the tile, or the typed page, the shadow plane: every element, its presence and its scale. MXMM and MXMMS of one row step its 64 cells over the row and the active plane, and raise the steps' flags. MXEP of one row reads its 64 cells, writes them, activated and rounded, into its row of the tile or page and nowhere else, and offers them to the select unit. A readout of MXSEL writes value and index of each entry, the fill where a rank is empty. ACCLD and ACCST move cells as they are. MXSAVE writes the image with the cells first; MXLOAD brings it back, and its wait ends with 0. The model's choice: log 3: how many rows run in a step; log 12: the layout of an image behind its cells; log 34: details of Press. -/
def Obligations.PressRuns : Prop := ∀ (s : State) (core : Nat) (p : PressCmd) (n : Nat), let k := (s.core core).press
  k.next = some p → p.num = some n → p.rowsDone = 0 → s.pressWaits core p = false → k.lateFault p = none → s.pressDead core p = none →
  let done (t : State) : Prop := (t.core core).press.seq = BitVec.ofNat 32 n ∧ (t.core core).press.queue = k.queue.filter (fun x => decide (x.num ≠ some n)) ∧
    Map.get 0 (t.core core).press.out p.slot = Map.get 0 k.out p.slot - 1
  let num (offs : List Nat) : Nat := natOfBytes (offs.map (s.spadAt core p.launch))
  let elem (i j : Nat) : Nat := num (p.t.elemBytes i) / 2 ^ (p.t.width * j) % 2 ^ p.t.width
  let here (i j : Nat) : Bool := bit (num (p.t.bitBytes i)) j
  let scale (i j : Nat) : Nat := (s.spadAt core p.launch (p.t.scaleOff i j)).toNat
  (∀ x, p.instr = .mxswap x → Completes (.pressCommandComplete core) s fun t => done t ∧ SameMemory s t ∧ (t.core core).press.active = k.shadow ∧ (t.core core).press.shadow = k.active ∧
    (t.core core).press.acc = k.acc) ∧
  (∀ x, p.instr = .mxsel x → Completes (.pressCommandComplete core) s fun t => done t ∧ SameMemory s t ∧ ∃ u, (t.core core).press.select = some u ∧ u.kept = [] ∧
    u.k = bits x.payload.toNat 23 18 + 1 ∧ u.next = p.opA ∧ (bit x.payload.toNat 17 = false → u.lines = 64) ∧ (bit x.payload.toNat 17 = true → u.lines = bits x.payload.toNat 16 11 + 1 ∧ u.first = p.opB)) ∧
  (∀ x, p.instr = .accz x → Completes (.pressCommandComplete core) s fun t => done t ∧ SameMemory s t ∧ (t.core core).press.active = k.active ∧
    ∀ i, Map.get 0 (t.core core).press.acc i = if p.opD ≤ i ∧ i < p.opD + (bits x.payload.toNat 14 0 + 1) then 0 else Map.get 0 k.acc i) ∧
  (∀ x ks, p.instr = .tzero x → s.spadKeys core p.launch (p.touches none) = .ok ks → (∀ y ∈ ks, offends (.core core) (s.histOf (y / 4 * 4)) = false) → Completes (.pressCommandComplete core) s fun t => done t ∧ (t.core core).press.acc = k.acc ∧
    (∀ a ∈ ks, t.mem.byte a = 0) ∧ ∀ a, a ∉ ks → (s.isUndef a = false ∨ ∀ y ∈ ks, y / 4 ≠ a / 4) → t.mem.byte a = s.mem.byte a) ∧
  (∀ x, p.instr = .mxlw x → bit p.pay 0 = false → PressClean s core p (p.touches none) → Completes (.pressCommandComplete core) s fun t => done t ∧ SameMemory s t ∧
    (t.core core).press.active = k.active ∧ (t.core core).press.acc = k.acc ∧ let v := (t.core core).press.shadow
    v.fmt = some p.t.fmt ∧ v.geo = p.t.geo ∧ v.rows = p.t.rows ∧ v.cols = p.t.cols ∧ ∀ i < p.t.rows, ∀ j < p.t.cols,
      Map.get 0 v.vals (256 * i + j) = elem i j ∧ (256 * i + j ∈ v.absent ↔ bit p.pay 1 = true ∧ here i j = false) ∧ (p.t.geo ≠ 0 → Map.get 127 v.scales (256 * i + blockOf p.t.geo j) = scale i j)) ∧
  (∀ x l q g, p.instr = .mxlw x → bit p.pay 0 = true → p.pages.head? = some (g, l) → let n := 64 * kmaxOf l.fmt
    let first := p.opA % (if l.big then 2 ^ 31 else 2 ^ 18) * 8 / fmtWidth l.fmt
    let lo := l.scaleByte first
    planeFormat l.fmt = true → p.opA % planeBytes l.fmt = 0 → p.pieces p.opA (planeBytes l.fmt) = [q] → q.off = 0 → q.len = planeBytes l.fmt → s.regionAllows (s.worldOf (s.launch p.launch).asid) q.pa = true →
    EngineClean s .dev p.sinceOf q.leaf.okey q.pa q.len → (l.block ≠ 0 → s.regionAllows (s.worldOf (s.launch p.launch).asid) lo = true ∧ EngineClean s .dev p.sinceOf l.okey lo (l.scaleByte (first + n - 1) + 1 - lo)) →
    Completes (.pressCommandComplete core) s fun t => done t ∧ SameMemory s t ∧ (t.core core).press.active = k.active ∧ (t.core core).press.acc = k.acc ∧ let v := (t.core core).press.shadow
    v.fmt = some l.fmt ∧ v.geo = l.geo ∧ v.rows = 64 ∧ v.cols = kmaxOf l.fmt ∧ v.absent = [] ∧ ∀ i < 64, ∀ j < kmaxOf l.fmt,
      Map.get 0 v.vals (256 * i + j) = natOfBytes (s.mem.bytes q.pa q.len) / 2 ^ (fmtWidth l.fmt * (i * kmaxOf l.fmt + j)) % 2 ^ fmtWidth l.fmt ∧
      (l.block ≠ 0 → Map.get 127 v.scales (256 * i + blockOf l.geo j) = (s.mem.byte (l.scaleByte (first + i * kmaxOf l.fmt + j))).toNat)) ∧
  (∀ sparse, (∃ x, (p.instr = .mxmm x ∧ sparse = false) ∨ (p.instr = .mxmms x ∧ sparse = true)) → p.count = 1 → PressClean s core p (p.touches none) →
    let row := (List.range (min p.t.cols k.active.cols)).map (fun j => (({ present := !sparse || here p.opB j, val := decodeCode p.t.fmt (elem p.opB j), scale := if p.t.geo = 0 then 127 else scale p.opB j } : Side), j))
    let step (i : Nat) := cellStep p.float (s.cell core k p.float (p.opD + i)) (if i < k.active.rows then row.map (fun e => (e.1, k.active.side sparse i e.2)) else [])
    Completes (.pressCommandComplete core) s fun t => done t ∧ SameMemory s t ∧ (t.core core).press.active = k.active ∧ (t.core core).press.shadow = k.shadow ∧
      (∀ i < 64, Map.get 0 (t.core core).press.acc (p.opD + i) = (step i).1) ∧ (∀ i, i < p.opD ∨ p.opD + 64 ≤ i → Map.get 0 (t.core core).press.acc i = Map.get 0 k.acc i) ∧
      ∀ w, s.tokWarp? p.token = some w → ∃ w', t.tokWarp? p.token = some w' ∧ w'.flags = w.flags ||| gatherFlags ((List.range 64).map (fun i => (step i).2))) ∧
  (∀ x, p.instr = .mxep x → p.count = 1 → (p.dest ≠ 0 ∨ bit p.pay 19 = true) → (bit p.pay 16 = true → PressClean s core p (keysFrom p.opB 256)) → (bit p.pay 15 = true → PressClean s core p (keysFrom p.opB1 256)) →
    let vec (on : Bool) (off : Nat) (dflt : Word) (i : Nat) : Word := if on then BitVec.ofNat 32 (num (keysFrom (off + 4 * i) 4)) else dflt
    let val (i : Nat) := epilogueValue p.float (bits p.pay 24 23) (s.cell core k p.float (p.opA + i)) (vec (bit p.pay 16) p.opB 0x3F800000 i) (vec (bit p.pay 15) p.opB1 0 i)
    ∀ fmt, elemFmt p.outFmt = some fmt → let out (i : Nat) := fmt.encode (bits p.pay 22 20) (f32Val (val i).1) (laneSeed p.seed i)
    let row := packRow fmt.width ((List.range p.outCols).map (fun i => (out i).code))
    Completes (.pressCommandComplete core) s fun t => done t ∧ (t.core core).press.acc = k.acc ∧ (t.core core).press.active = k.active ∧ (p.dest = 0 → SameMemory s t) ∧
      (p.dest = 1 → ∀ a, isSpad a = true → s.spadKeys core p.launch (keysFrom (p.t.rowOff 0) p.outBytes) = .ok (keysFrom a p.outBytes) → StoredAmong s t a row) ∧
      (p.dest = 2 → p.opD < 2 ^ 64 → ∀ q, p.pieces p.opD p.outBytes = [q] → q.off = 0 → q.len = p.outBytes → s.regionAllows (s.worldOf (s.launch p.launch).asid) q.pa = true → StoredAmong s t q.pa row) ∧
      (bit p.pay 19 = true → ∀ u, k.select = some u → (t.core core).press.select = some (((List.range 64).foldl (fun u i => p.offerTo u 0 i (val i).1) u).advance 1)) ∧
      ∀ w, s.tokWarp? p.token = some w → ∃ w', t.tokWarp? p.token = some w' ∧ w'.flags = w.flags ||| gatherFlags ((List.range 64).map (fun i => (val i).2)) |||
        (if p.dest = 0 then 0 else gatherFlags ((List.range p.outCols).map (fun i => (out i).flags)))) ∧
  (∀ x u a, p.instr = .mxselRead x → k.select = some u → isSpad a = true → s.spadKeys core p.launch (keysFrom p.opD u.bytes) = .ok (keysFrom a u.bytes) →
    Completes (.pressCommandComplete core) s fun t => done t ∧ (t.core core).press.acc = k.acc ∧ StoredAmong s t a ((u.readout.map (fun v => bytesOfNat 4 v.toNat)).flatten) ∧
      ∀ l < u.lines, ∀ i < u.k, let o := ((u.kept.find? l).getD [])[i]?
        natOfBytes (t.mem.bytes (a + 8 * (l * u.k + i)) 4) = (match o with | some y => y.val | none => nan32).toNat ∧
        natOfBytes (t.mem.bytes (a + 8 * (l * u.k + i) + 4) 4) = (match o with | some y => y.index | none => 0xFFFFFFFF).toNat) ∧
  (∀ x, p.instr = .accld x → PressClean s core p (p.touches none) → Completes (.pressCommandComplete core) s fun t => done t ∧ SameMemory s t ∧
    (∀ i < p.cells, Map.get 0 (t.core core).press.acc (p.opD + i) = BitVec.ofNat 96 (num (keysFrom (p.opA + 16 * i) 12))) ∧
    ∀ i, i < p.opD ∨ p.opD + p.cells ≤ i → Map.get 0 (t.core core).press.acc i = Map.get 0 k.acc i) ∧
  (∀ x a, p.instr = .accst x → isSpad a = true → s.spadKeys core p.launch (keysFrom p.opA (16 * p.cells)) = .ok (keysFrom a (16 * p.cells)) → Completes (.pressCommandComplete core) s fun t => done t ∧
    (t.core core).press.acc = k.acc ∧ StoredAmong s t a (((List.range p.cells).map (fun i => bytesOfNat 16 (Map.get 0 k.acc (p.opD + i)).toNat)).flatten)) ∧
  (∀ a, a % 4 = 0 → p.opA % 4096 = 0 → ((p.pieces p.opA imageBytes).map Piece.len).sum = imageBytes →
    (∀ q ∈ p.pieces p.opA imageBytes, q.pa = a + q.off ∧ s.regionAllows (s.worldOf (s.launch p.launch).asid) q.pa = true) → let rest := a + 12 * Config.accCells
    (∀ x, p.instr = .mxsave x → let image := { k with queue := k.queue.filter (fun y => decide (y.num ≠ some n)), seq := BitVec.ofNat 32 n, out := Map.set 0 k.out p.slot (Map.get 0 k.out p.slot - 1) }
      Completes (.pressCommandComplete core) s fun t => done t ∧ (t.core core).press.acc = k.acc ∧ StoredAmong s t a image.image ∧ (rest, image.body) ∈ t.images ∧
        ∀ i < Config.accCells, natOfBytes (t.mem.bytes (a + 12 * i) 12) = (Map.get 0 k.acc i).toNat) ∧
    (∀ x, p.instr = .mxload x → (∀ q ∈ p.pieces p.opA imageBytes, EngineClean s .dev p.sinceOf q.leaf.okey q.pa q.len) → Completes (.pressCommandComplete core) s fun t => SameMemory s t ∧
      (t.core core).press.owner = some p.launch ∧ (∀ i < Config.accCells, Map.get 0 (t.core core).press.acc i = BitVec.ofNat 96 (natOfBytes (s.mem.bytes (a + 12 * i) 12))) ∧
      (∀ b, s.images.find? (fun e => decide (e.1 = rest)) = some (rest, b) → bytesOfNat (imageBytes - 12 * Config.accCells) (Config.imageTail b) = s.mem.bytes rest (imageBytes - 12 * Config.accCells) →
        { (t.core core).press with acc := b.acc, owner := b.owner } = b) ∧
      ∀ y, s.warps.find? p.wid = some y → t.warps.find? p.wid = some (y.recordIf (fun z _ => decide (z.kind = .mxload n)) 0)))

/-- R34, R35, R298: in EXACT mode a product of finite operands of the formats that it takes is a whole number of units of 2^-40, and the units that a cell adds are exactly that product. R34, R298: a step of an EXACT cell with no special operand adds the products' units to the cell exactly and clamps the sum to the finite range, with ACC_SAT exactly when it clamps; a special operand gives NaN and INVALID; a NaN cell stays. R37: a FLOAT cell takes a row step's products in groups of 8 positions, in ascending k; it adds to itself a group's exact sum, scaled exactly, with one RNE rounding to its format; a zero sum leaves it; a NaN operand, a scale code of 255 and a NaN cell give the canonical NaN, and a group with no product changes nothing. -/
def Obligations.ExactArithmetic : Prop := (∀ (fa fb x y : Nat) (n n' : Bool) (m m' : Nat) (e e' : Int), exactFormat fa = true → exactFormat fb = true →
  decodeCode fa (x % 2 ^ fmtWidth fa) = .fin n m e → decodeCode fb (y % 2 ^ fmtWidth fb) = .fin n' m' e' →
  (exactUnits (.fin n m e) (.fin n' m' e') : ℚ) = (if n = n' then 1 else -1) * (m : ℚ) * m' * 2 ^ (e + e' + 40)) ∧
  (∀ (c : BitVec 96) (ps : List Prod),
  ((∃ p ∈ ps, p.a.special = true ∨ p.w.special = true) → exactStep c ps = (BitVec.ofNat 96 (2 ^ 95), Flags.invalid)) ∧
  ((∀ p ∈ ps, p.a.special = false ∧ p.w.special = false) → c = BitVec.ofNat 96 (2 ^ 95) → exactStep c ps = (c, 0)) ∧
  ((∀ p ∈ ps, p.a.special = false ∧ p.w.special = false) → c ≠ BitVec.ofNat 96 (2 ^ 95) →
    let sum := c.toInt + (ps.map (fun p => exactUnits p.a p.w)).sum
    (exactStep c ps).1.toInt = max (-(2 ^ 95 - 1)) (min (2 ^ 95 - 1) sum) ∧ ((exactStep c ps).2 = if -(2 ^ 95 - 1) ≤ sum ∧ sum ≤ 2 ^ 95 - 1 then 0 else Flags.accSat))) ∧
  (∀ (c : BitVec 96) (p : Prod) (ps : List Prod),
  let nan : BitVec 96 := 0x7FFF80000000000000000000
  let cell : FVal := cellFmt.decode c.toNat
  let sum : ℚ := (((p :: ps).map (fun x => x.a.num * x.w.num)).sum) * 2 ^ ((p.sa : Int) + p.sw - 254)
  floatGroup c [] = (c, 0) ∧
  ((p.sa = 255 ∨ p.sw = 255) → floatGroup c (p :: ps) = (nan, 0)) ∧
  (p.sa ≠ 255 → p.sw ≠ 255 → (∃ x ∈ p :: ps, x.a = .nan ∨ x.w = .nan) → (floatGroup c (p :: ps)).1 = nan) ∧
  (p.sa ≠ 255 → p.sw ≠ 255 → (∀ x ∈ p :: ps, x.a.special = false ∧ x.w.special = false) →
    (sum = 0 → floatGroup c (p :: ps) = (c, 0)) ∧ (sum ≠ 0 → cell = .nan → floatGroup c (p :: ps) = (nan, 0)) ∧
    (sum ≠ 0 → cell.special = false → ∃ x : FVal, x.special = false ∧ x.num = cell.num + sum ∧
      floatGroup c (p :: ps) = (BitVec.ofNat 96 (cellFmt.roundTo 0 x 0).code, (cellFmt.roundTo 0 x 0).flags)))) ∧
  (∀ (c : BitVec 96) (ks more : List (Side × Side)), (ks.length = 8 ∨ ks.length < 8 ∧ more = []) →
    (cellStep true c (ks ++ more)).1 = (cellStep true (floatGroup c (ks.filterMap (fun k => sideProd k.1 k.2))).1 more).1)

/-- R305: what a line of the select unit keeps depends on its offers alone, never on the order in which they arrive (for offers of which no two different ones have the same index); it keeps at most k, and each kept one ranks above the next or is equal to it. -/
def Obligations.SelectOrder : Prop := ∀ (u : Select) (line : Nat) (xs ys : List Offer), u.kept.find? line = none → xs.Perm ys →
  (∀ x ∈ xs, ∀ y ∈ xs, x.index = y.index → x = y) →
  let kept (zs : List Offer) : List Offer := ((zs.foldl (fun v x => v.offer line x) u).kept.find? line).getD []
  kept xs = kept ys ∧ (kept xs).length ≤ u.k ∧ (kept xs).Pairwise (fun x y => x.above y = true ∨ x = y)

/-- R49, R315 to R317, R326, R327: TBIND writes one tile register, its reserved bits zero; TPSET and TPLOG write one tile predicate register, where bit 0 of q0 always reads 1; TSLICE moves elements lane by lane; MXSEQ reads SEQ, LAST or OUT; MXWAIT ends at once with 0 when its condition holds, and else waits. The model's choice: log 35: elements narrower than a byte. -/
def Obligations.TileRegisters : Prop := ∀ (s : State) (c : Issue) (w : WarpCore),
  let lead := lowest c.lanes
  let preds (t : State) (n : Nat) (v : DWord) : Prop := ∃ w', OnlyWarp s t c.wid w' ∧ { w' with q := w.q, frontier := w.frontier } = w ∧ Stand w' c.lanes c.prio c.next .ready ∧
    ∀ m, w'.pred m = if m = n then (if n = 0 then v ||| 1 else v) else w.pred m
  (∀ x, Issuing s c w (.tbind x) → (governed x w = false → Completes (.tbind x) s fun t => WentOn s t c w) ∧
    (governed x w = true → Completes (.tbind x) s fun t => ∃ w', OnlyWarp s t c.wid w' ∧ { w' with x := w.x, frontier := w.frontier } = w ∧ Stand w' c.lanes c.prio c.next .ready ∧
      (∀ m, m ≠ x.xd.toNat → w'.tileReg m = w.tileReg m) ∧
      let v := (s.rdPair w lead (96 + x.xa.toNat) posA).toNat + (s.rdPair w lead (96 + (x.xa.toNat + 2)) (posA + 2)).toNat * 2 ^ 64
      ∀ i < 128, (w'.tileReg x.xd.toNat).getLsbD i = (bit v i && !(decide (116 ≤ i) || decide (84 ≤ i ∧ i ≤ 95) || decide (i = 62 ∨ i = 63) || decide (20 ≤ i ∧ i ≤ 22))))) ∧
  (∀ k, Issuing s c w (.tpset k) → Completes (.tpset k) s fun t => preds t k.kd.toNat (s.rdPair w lead k.r.toNat posA)) ∧
  (∀ k, Issuing s c w (.tplogAnd k) → Completes (.tplogAnd k) s fun t => preds t k.kd.toNat (w.pred k.ka.toNat &&& w.pred k.kb.toNat)) ∧
  (∀ k, Issuing s c w (.tplogOr k) → Completes (.tplogOr k) s fun t => preds t k.kd.toNat (w.pred k.ka.toNat ||| w.pred k.kb.toNat)) ∧
  (∀ k, Issuing s c w (.tplogXor k) → Completes (.tplogXor k) s fun t => preds t k.kd.toNat (w.pred k.ka.toNat ^^^ w.pred k.kb.toNat)) ∧
  (∀ k, Issuing s c w (.tplogAndn k) → Completes (.tplogAndn k) s fun t => preds t k.kd.toNat (w.pred k.ka.toNat &&& ~~~w.pred k.kb.toNat)) ∧
  (∀ a, Issuing s c w (.tslice a) → let on := w.tpred (bits (pxVal a.px) 2 0) (bits (pxVal a.px) 8 3)
    (on = false → Completes (.tslice a) s fun t => WentOn s t c w) ∧
    (on = true → (tileOf (w.tileReg a.tile.toNat)).ok = true →
      s.anyBusy w ((lanesOf c.lanes).map (fun l => match s.slicePart w a l with | some p => p.offs | none => [])).flatten = false →
      (a.wr = true → let x := s.eachLane (lanesOf c.lanes) (fun s l => s.sliceStore c w a l)
        x.2 = [] → Completes (.tslice a) s fun t => Went x.1 t c) ∧
      (a.wr = false → let x := s.loadLanes (lanesOf c.lanes) (fun s l => s.sliceLoad c w a l)
        x.2.1 = [] → Completes (.tslice a) s fun t => ∃ w1, x.1.warp? c.wid = some w1 ∧ RegResult x.1 t c w1 a.reg.toNat 1 (fun l _ => BitVec.ofNat 32 (valueOf x.2.2 l)) 0))) ∧
  (∀ r, Issuing s c w (.mxseq r) → Completes (.mxseq r) s fun t => let p := s.pressOf w.core w.launch
    Gave s t c r.d.toNat [if sub r.px = 0 then p.seq else if sub r.px = 1 then Map.get 0 p.last w.slot else BitVec.ofNat 32 (Map.get 0 p.out w.slot)]) ∧
  (∀ r, Undoomed w c.lanes → c.lanes ≠ 0 → let p := s.pressOf w.core w.launch
    let wait (kind : WaitKind) : Wait := Wait.mk' kind (if r.vB s w lead = 0xFFFFFFFF then none else some (s.ns + (r.vB s w lead).toNat)) (w.resolve r.d.toNat) false
    (Issuing s c w (.mxwait r) →
      (BitVec.slt (p.seq - r.vA s w lead) 0 = false → Completes (.mxwait r) s fun t => Answered t c (w.resolve r.d.toNat) [(0, 0)]) ∧
      (BitVec.slt (p.seq - r.vA s w lead) 0 = true → Completes (.mxwait r) s fun t => Waits s t c w false (wait (.press (r.vA s w lead).toNat)))) ∧
    (Issuing s c w (.mxwaitOut r) →
      (Map.get 0 p.out w.slot = 0 → Completes (.mxwaitOut r) s fun t => Answered t c (w.resolve r.d.toNat) [(0, 0)]) ∧
      (Map.get 0 p.out w.slot ≠ 0 → Completes (.mxwaitOut r) s fun t => Waits s t c w false (wait .pressOut))))

/-! ### Bank compute, the Hamper, Seam and the links (chapters 19 to 21) -/

/-- R333 to R336: BMV and BFENCE.W, with fewer than 16 commands outstanding, enter the list of commands under the next number of their warp (BMV after its scratchpad stores, BFENCE.W of one byte or more after a publication at .dev) and their lanes go on; a BFENCE.W of 0 bytes only publishes; a BMV has the rows, columns and addresses of its operands. BMWAIT.seq and BMWAIT.last read BSEQ and the last number; BFENCE.R, BMWAIT and BMWAIT.all end at once with 0 when their condition holds, and else wait. R332, R334, R335: a command that may run and is the only one left completes: its warp's BSEQ is its number and it is gone. A BFENCE.W changes no byte and notes its ranges as written back for the warp's commands; a BMV with one row left writes that row's FP32 sum in 4 bytes of y, and no other byte. The model's choice: log 36: details of bank compute. -/
def Obligations.BankCompute : Prop := (∀ (s : State) (c : Issue) (w : WarpCore) (r : RArgs),
  let lead := lowest c.lanes
  let q := s.rdQuad w lead r.b.toNat posB
  let taken (t u : State) (b : BcuCmd) : Prop :=
    Went ({ t.modRun c.wid (fun w => { w with bcuLast := w.bcuLast + 1 }) with bcus := t.bcus ++ [{ b with num := (w.bcuLast + 1).toNat }] }) u c
  (Issuing s c w (.bmv r) → bmvAlign r s w lead = none → s.anyBusy w (bmvSpan r s w lead) = false → s.bcuFull w.token = false → ∀ s1 b, s.bmvAsk r c w = (s1, .ok b) →
    (b.token = w.token ∧ b.fence = none ∧ b.r0 = bits q 31 0 ∧ b.n = bits q 63 32 ∧ b.cols = bits q 79 64 ∧ b.x = bits q 127 96 ∧ b.base = (r.pairA s w lead).toNat ∧
      b.global = decide (sub r.px = 1) ∧ b.y = (r.pairD s w lead).toNat ∧ b.left = List.range b.n ∧
      1 ≤ b.cols ∧ b.n ≤ 65536 ∧ ∀ p ∈ b.pages, p.2.layout = 1) ∧
    Completes (.bmv r) s fun t => taken (s1.drainBank c.wid) t { b with since := (s1.drainBank c.wid).seq }) ∧
  (Issuing s c w (.bfenceW r) → s.bcuFull w.token = false → r.vB s w lead = 0 → Completes (.bfenceW r) s fun t => Went (s.publish c.wid .dev) t c) ∧
  (Issuing s c w (.bfenceW r) → s.bcuFull w.token = false → r.vB s w lead ≠ 0 → Completes (.bfenceW r) s fun t => ∃ b : BcuCmd, b.fence = some ((r.pairA s w lead).toNat, (r.vB s w lead).toNat) ∧
    b.token = w.token ∧ b.complete = false ∧ taken (s.publish c.wid .dev) t { b with since := (s.publish c.wid .dev).seq }) ∧
  (Issuing s c w (.bmwaitSeq r) → Completes (.bmwaitSeq r) s fun t => Gave s t c r.d.toNat [w.bcuSeq]) ∧
  (Issuing s c w (.bmwaitLast r) → Completes (.bmwaitLast r) s fun t => Gave s t c r.d.toNat [w.bcuLast]) ∧
  (Undoomed w c.lanes → c.lanes ≠ 0 →
    let limit := if r.vB s w lead = 0xFFFFFFFF then none else some (s.ns + (r.vB s w lead).toNat)
    let ends (i : Instr) (k : Wait) (holds : Bool) (vals : List (Nat × Word)) : Prop := Issuing s c w i →
      (holds = true → Completes i s fun t => Answered t c k.dst vals) ∧ (holds = false → Completes i s fun t => Waits s t c w false k)
    ends (.bfenceR r) (Wait.mk' .bcuFence none .none false) (decide (w.bcuSeq = w.bcuLast)) [] ∧
    ends (.bmwaitAll r) (Wait.mk' .bcuAll limit (w.resolve r.d.toNat) false) (decide (w.bcuSeq = w.bcuLast)) [(0, 0)] ∧
    ends (.bmwait r) (Wait.mk' (.bcu (r.vA s w lead).toNat) limit (w.resolve r.d.toNat) false) (!BitVec.slt (w.bcuSeq - r.vA s w lead) 0) [(0, 0)])) ∧
  (∀ (s : State) (b : BcuCmd), s.bcus = [b] → s.bcuRuns b = true →
  let done (t : State) : Prop := t.bcus = [] ∧ ∀ w, s.tokWarp? b.token = some w → ∃ w', t.tokWarp? b.token = some w' ∧ w'.bcuSeq = BitVec.ofNat 32 b.num
  (∀ va n, b.fence = some (va, n) → Completes (.bcuCommandComplete b.wid) s fun t => done t ∧ SameMemory s t ∧
    ∀ w', t.tokWarp? b.token = some w' → ∀ f ∈ s.fenceRanges b va n, f ∈ w'.fenced) ∧
  (b.fence = none → b.n = 0 → Completes (.bcuCommandComplete b.wid) s fun t => done t ∧ SameMemory s t) ∧
  (∀ i xs k, b.fence = none → b.n ≠ 0 → b.left = [i] → b.xs = some xs → b.global = false → isSpad k = true → k % 4 = 0 →
    s.spadKeys (b.wid / 64) b.launch (keysFrom (b.y + 4 * i) 4) = .ok (keysFrom k 4) → Completes (.bcuCommandComplete b.wid) s fun t => done t ∧
      Stored s t k (bytesOfNat 4 (bmvRow (s.bmvElements { b with xs := some xs } (b.r0 + i)).2 xs).1.toNat)))

/-- R338, R341, R342, for lanes whose context has a good table and whose expert ids are in it: XQUERY gives each lane STATE, SLOT and COUNT of its expert; XRES of a resident or staging expert gives every lane its slot and makes one hold more, and of another one takes a slot and starts its staging, or gives 0xFFFFFFFF; XRES.rel makes one fewer; XHIT counts each lane's expert up; XAGE sets PERIOD and starts it anew; XAGE.now halves every COUNT. R339, R342, R343: a staging that finishes leaves the list, and one of a context that has ended or has no good table moves nothing; the copy of a staging puts the bytes of the source into the destination. Ageing that is due halves every COUNT once for each PERIOD that has passed and moves the period's start on by these; when none is due nothing changes. The model's choice: log 37: details of the Hamper. -/
def Obligations.Hamper : Prop := (∀ (s : State) (c : Issue) (w : WarpCore) (r : RArgs) (s1 : State) (h : HamperTable),
  let lead := lowest c.lanes
  let id (l : Nat) : Nat := (r.vA s w l).toNat % 65536
  let ids := (lanesOf c.lanes).map id
  let v := s1.expert h (id lead)
  let m := s1.slotEntry h (exSlot v)
  let gave (t : State) (x : Word) : Prop := ∃ w1 w', s1.warp? c.wid = some w1 ∧ t.warp? c.wid = some w' ∧ RunHolds w1 w' c.lanes r.d.toNat 1 (fun _ _ => x) ∧
    OtherRegs w1 w' c.lanes r.d.toNat 1 ∧ Stand w' c.lanes c.prio c.next .ready ∧ t.cur = none
  (Issuing s c w (.xquery r) → s.hamperFor w ids = (s1, .ok h) → Completes (.xquery r) s fun t => ∃ w1, s1.warp? c.wid = some w1 ∧
    RegResult s1 t c w1 r.d.toNat 1 (fun l _ => let v := s1.expert h (id l)
      BitVec.ofNat 32 ((if exState v = 2 then 2 ^ 31 else 0) + (if exState v = 1 then 2 ^ 30 else 0) + exSlot v * 2 ^ 16 + exCount v)) 0) ∧
  (Issuing s c w (.xhit r) → s.hamperFor w ids = (s1, .ok h) → Completes (.xhit r) s fun t =>
    Went (ids.foldl (fun s e => s.setExpert h e (exState (s.expert h e)) (exSlot (s.expert h e)) (min (exCount (s.expert h e) + 1) 0xFFFF)) s1) t c) ∧
  (Issuing s c w (.xageNow r) → s.hamperFor w [] = (s1, .ok h) → Completes (.xageNow r) s fun t =>
    Went ((List.range h.experts).foldl (fun s e => s.setExpert h e (exState (s.expert h e)) (exSlot (s.expert h e)) (exCount (s.expert h e) / 2)) s1) t c) ∧
  (Issuing s c w (.xage r) → s.hamperFor w [] = (s1, .ok h) → Completes (.xage r) s fun t =>
    (∀ x, s1.ctxs.find? h.asid = some x → ∃ y, t.ctxs.find? h.asid = some y ∧ y.ageFrom = s1.ns ∧ y.rcd = x.rcd) ∧
      SameMemory (s1.homePut h.asid (h.at_ + 32) (bytesOfNat 4 (r.vA s w lead).toNat)) t ∧ t.cur = none ∧ ∃ w', t.warp? c.wid = some w' ∧ Stand w' c.lanes c.prio c.next .ready) ∧
  (Issuing s c w (.xresRel r) → s.hamperFor w [id lead] = (s1, .ok h) →
    (exState v ≠ 0 → 0 < slotHold m → Completes (.xresRel r) s fun t => Went (s1.setSlot h (exSlot v) (slotWord (slotHold m - 1) (slotUsed m) (slotStg m) (slotExpert m))) t c) ∧
    ((exState v = 0 ∨ slotHold m = 0) → Completes (.xresRel r) s fun t => Went s1 t c)) ∧
  (Issuing s c w (.xres r) → bits (r.pairB s w lead).toNat 31 0 = 0xFFFFFFFF → bit (r.pairB s w lead).toNat 42 = false → s.hamperFor w [id lead] = (s1, .ok h) → expertBad h v = false →
    (exState v ≠ 0 → Completes (.xres r) s fun t => gave t (BitVec.ofNat 32 (exSlot v)) ∧
      SameMemory (s1.setSlot h (exSlot v) (slotWord (min (slotHold m + 1) 0xFFFF) (slotUsed m) (slotStg m) (slotExpert m))) t) ∧
    (exState v = 0 → s1.victimSlot h = none → Completes (.xres r) s fun t => gave t 0xFFFFFFFF ∧ SameMemory s1 t ∧ t.stagings = s1.stagings) ∧
    (exState v = 0 → ∀ i out, s1.victimSlot h = some (i, out) → Completes (.xres r) s fun t => gave t (BitVec.ofNat 32 i) ∧
      ∃ g, t.stagings = s1.stagings ++ [g] ∧ g.asid = h.asid ∧ g.expert = id lead ∧ g.slot = i ∧ g.launch = w.launch ∧ g.token = w.token))) ∧
  (∀ (s : State),
  (∀ idx, (s.stagings[idx]? = none → exec (.hamperStagingComplete idx) s = .next s) ∧
    ∀ g, s.stagings[idx]? = some g → Completes (.hamperStagingComplete idx) s fun t => t.stagings = s.stagings.eraseIdx idx ∧
      ((∃ s1, s.hamper g.asid = (s1, none)) ∨ (∃ x, s.ctxs.find? g.asid = some x ∧ x.ended = true) → SameMemory s t)) ∧
  (∀ (g : Staging) dst src n tag s1 s2 p q, s.pieces .dev g.asid .load src n = (s1, .ok [p]) → s1.pieces .dev g.asid .store dst n = (s2, .ok [q]) → 0 < n → p.len = n → q.off = 0 → q.len = n →
    EngineClean s2 .dev { at_ := g.since, fresh := 0, token := none } p.leaf.okey p.pa n → KeyInForce s2 q.leaf.okey q.pa n →
    ∃ t, s.stageBytes g dst src n tag = (t, some [(q.pa, q.pa + n)]) ∧ StoredAmong s t q.pa (s.mem.bytes p.pa n)) ∧
  (∀ asid s1 h x, s.hamper asid = (s1, some h) → s.ctxs.find? asid = some x →
    ((h.period = 0 ∨ s.ns < x.ageFrom + 1000 * h.period ∨ x.ended = true) → exec (.hamperAgeingStep asid) s = .next s) ∧
    (h.period ≠ 0 → x.ageFrom + 1000 * h.period ≤ s.ns → x.ended = false → Completes (.hamperAgeingStep asid) s fun t =>
      let n := (s.ns - x.ageFrom) / (1000 * h.period)
      (∃ y, t.ctxs.find? asid = some y ∧ y.ageFrom = x.ageFrom + 1000 * h.period * n ∧ y.rcd = x.rcd) ∧ SameMemory (s1.halveCounts h (min n 16)) t)))

/-- R349, R350, R356, R357: a GATHER, SCATTER or SCATADD that passes its checks, at a Seam with room and for a context that is resident there, enters it as its newest command and its warp has one more outstanding. GSWAIT ends at once with 0 when the warp has none, and else waits; GSWAIT.out reads their number, GSWAIT.dup the context's count of duplicates. R351, R352, R354, R358: a GATHER entry of a table that is not sharded is served with its row's bytes, or with detail 5 when its index is past NROWS; a served entry lands once, in its row of the buffer and nowhere else, and the last completes the command. A SCATADD entry is applied the first time its epoch brings it, dropped the next time, and stale from an older epoch. The model's choice: log 38: details of Seam. -/
def Obligations.Seam : Prop := (∀ (s : State) (c : Issue) (w : WarpCore) (r : RArgs),
  let lead := lowest c.lanes
  let die := dieOf w.core
  let command (i : Instr) (op : Nat) : Prop := Issuing s c w i → seamAlign r s w lead = none → s.seamBanksBusy w r lead = false → ∀ s1 cmd s2, s.seamAsk op r c w = (s1, .ok cmd) →
    s1.seamFull w cmd = false → s1.seamEnter die (s1.asidOf w) = (s2, true) → cmd.op = op ∧ cmd.count = (r.vB1 s w lead).toNat ∧ cmd.count ≤ 65536 ∧ cmd.buf = (r.vD s w lead).toNat ∧
      cmd.list = (r.vB s w lead).toNat ∧ cmd.wid = c.wid ∧ cmd.token = w.token ∧
      (cmd.count ≠ 0 → Completes i s fun t => ∃ w2, s2.warp? c.wid = some w2 ∧ (t.seam die).cmds = (s2.seam die).cmds ++ [{ cmd with id := (s2.seam die).next }] ∧
        (t.seam die).next = (s2.seam die).next + 1 ∧ WentOn { s2 with seams := t.seams, syncs := t.syncs } t c { w2 with seamOut := w2.seamOut + 1 }) ∧
      (cmd.count = 0 → Completes i s fun t => Went (s2.seamAccept die cmd) t c)
  command (.gather r) 0 ∧ command (.scatter r) 1 ∧ command (.scatadd r) 2 ∧
  (Issuing s c w (.gswait r) → Undoomed w c.lanes → c.lanes ≠ 0 →
    (w.seamOut = 0 → Completes (.gswait r) s fun t => Answered t c (w.resolve r.d.toNat) [(0, 0)]) ∧
    (w.seamOut ≠ 0 → Completes (.gswait r) s fun t => Waits s t c w false
      (Wait.mk' .seamOut (if r.vB s w lead = 0xFFFFFFFF then none else some (s.ns + (r.vB s w lead).toNat)) (w.resolve r.d.toNat) false))) ∧
  (Issuing s c w (.gswaitOut r) → Completes (.gswaitOut r) s fun t => Gave s t c r.d.toNat [BitVec.ofNat 32 w.seamOut]) ∧
  (Issuing s c w (.gswaitDup r) → Completes (.gswaitDup r) s fun t => Gave s t c r.d.toNat [BitVec.ofNat 32 (Map.get 0 (s.seam die).dups (s.asidOf w))])) ∧
  (∀ (s : State) (die cmd entry : Nat) (k : SeamCmd), s.seamCmd die cmd = some k → k.op = 0 → entry < k.count → k.landed.contains entry = false →
  (k.served.find? entry = none → k.sent.find? entry = none → s.seamHeld k = false → k.d.shard = false → ∀ x, k.index.find? entry = some x → x < 2 ^ 32 →
    (k.d.nrows ≤ x → Completes (.seamRowRequest die cmd entry) s fun t => SameMemory s t ∧ ∃ k', t.seamCmd die cmd = some k' ∧
      k'.served.find? entry = some { detail := 5, flags := 0, drop := false, data := [] }) ∧
    (x < k.d.nrows → ∀ s1 l pa, s.rowPlace die (s.seamAsid k) .load ((k.d.table + x * k.d.gstride) % 2 ^ 64) k.d.rowb = (s1, some (l, pa)) → EngineClean s1 .dev k.sinceOf l.okey pa k.d.rowb →
      Completes (.seamRowRequest die cmd entry) s fun t => SameMemory s t ∧ ∃ k', t.seamCmd die cmd = some k' ∧
        k'.served.find? entry = some { detail := 0, flags := 0, drop := false, data := s.mem.bytes pa k.d.rowb })) ∧
  (∀ data a, k.served.find? entry = some { detail := 0, flags := 0, drop := false, data := data } → k.d.sync = 0xFFFF → k.d.arrive = false → isSpad a = true → data ≠ [] →
    s.spadKeys k.core k.launch (keysFrom (k.buf + entry * k.d.rowb) data.length) = .ok (keysFrom a data.length) → Completes (.seamEntryLand die cmd entry) s fun t => StoredAmong s t a data ∧
      (k.landed.length + 1 = k.count → t.seamCmd die cmd = none) ∧ (k.landed.length + 1 ≠ k.count → ∃ k', t.seamCmd die cmd = some k' ∧ k'.landed = entry :: k.landed)) ∧
  (∀ src dispatch asid epoch e, let t := ((s.seam die).dedup.find? (src * 65536 + dispatch)).getD []
    let lost (u : State) : Prop := Map.get 0 (u.seam die).dups asid = min (2 ^ 32 - 1) (Map.get 0 (s.seam die).dups asid + 1)
    (t.find? asid = none → (s.dedup die src dispatch asid epoch e).2 = .apply) ∧
    (∀ old l, t.find? asid = some (old, l) → let d := (epoch + 65536 - old) % 65536
      (old = epoch → e ∉ l → (s.dedup die src dispatch asid epoch e).2 = .apply) ∧
      (old = epoch → e ∈ l → (s.dedup die src dispatch asid epoch e).2 = .drop ∧ lost (s.dedup die src dispatch asid epoch e).1) ∧
      (old ≠ epoch → 1 ≤ d → d < 32768 → (s.dedup die src dispatch asid epoch e).2 = .apply) ∧
      (old ≠ epoch → (d = 0 ∨ 32768 ≤ d) → (s.dedup die src dispatch asid epoch e).2 = .stale ∧ lost (s.dedup die src dispatch asid epoch e).1))))

/-- R359, R362: a flit with a bad CRC or past the next number has a replay asked for from the next one on, which its link's die counts; one that was delivered before changes nothing; the next one is delivered: a heartbeat notes its sender's time, and a module that is heard is isolated no longer; an answer serves the entry that waits for it, with the bytes of the parts before it. A link idle for 100 µs sends a heartbeat; a module silent for 10 ms is isolated, and what was in flight to it has failed with detail 6. The model's choice: log 14: flits are events; log 38: how a long answer is cut into flits. -/
def Obligations.Links : Prop := ∀ (s : State) (n : Nat), let k := s.link n
  (∀ f : Flit, (f.crcOk = false ∨ k.recvSeq < f.seq) → exec (.flitReceive n f) s =
    .next (({ s with links := s.links.insert n { k with replays := k.replays + 1 } }.count (n / 6) 5 1).sendFlit n (.replay k.recvSeq))) ∧
  (∀ f : Flit, f.crcOk = true → f.seq < k.recvSeq → exec (.flitReceive n f) s = .next s) ∧
  (∀ f : Flit, f.crcOk = true → f.seq = k.recvSeq →
    (f.body = .heartbeat → exec (.flitReceive n f) s = .next { s with
      links := s.links.insert n { k with recvSeq := k.recvSeq + 1 }
      heard := s.heard.insert f.src s.ns
      isolated := s.isolated.filter (fun m => decide (m ≠ f.src)) }) ∧
    (∀ die cmd entry detail flags drop data x, f.body = .reply die cmd entry detail flags drop data → s.seamCmd die cmd = some x → x.sent.find? entry = some f.src → x.served.find? entry = none →
      Completes (.flitReceive n f) s fun t => SameMemory s t ∧ (t.link n).recvSeq = k.recvSeq + 1 ∧ ∃ y, t.seamCmd die cmd = some y ∧
        y.served.find? entry = some { detail := detail, flags := flags, drop := drop, data := (k.part ++ data).take x.d.rowb })) ∧
  ((n < 24 ∧ k.lastSent + 100000 ≤ s.ns) → Completes (.linkHeartbeat n) s fun t => SameMemory s t ∧ (t.link n).sendSeq = k.sendSeq + 1 ∧ (t.link n).lastSent = s.ns ∧
    ∃ f, (t.link n).sent = f :: k.sent ∧ f.body = .heartbeat ∧ f.seq = k.sendSeq) ∧
  (¬ (n < 24 ∧ k.lastSent + 100000 ≤ s.ns) → exec (.linkHeartbeat n) s = .next s) ∧
  (∀ m, let silent : Prop := m ≤ 8191 ∧ m ≠ s.boot.modId ∧ m ∉ s.isolated ∧ Map.get 0 s.heard m + 10000000 ≤ s.ns
    (¬ silent → exec (.moduleFailureDetect m) s = .next s) ∧
    (silent → Completes (.moduleFailureDetect m) s fun t => SameMemory s t ∧ t.isolated = m :: s.isolated ∧
      ∀ die cmd x entry, s.seamCmd die cmd = some x → (entry, m) ∈ x.sent → x.served.find? entry = none → ∃ y, t.seamCmd die cmd = some y ∧ (y.served.find? entry).map SeamServed.detail = some 6))

/-! ### Traps and privilege (chapters 3 and 24) -/

/-- R47: an instruction that names a register past its thread's allocation traps with WINDOW in every active lane and has no other effect, whichever encoded instruction it is. -/
def Obligations.WindowTraps : Prop := ∀ (i : Instr) (s : State) (c : Issue) (w : WarpCore), encode i ≠ [] → s.cur = some c → s.warp? c.wid = some w → w.windowFails i = true →
  exec i s = .next (s.trapAll c (trapOf .window 0))

/-- R381 to R385, R387, R394, Table 24-1: a trap that all active lanes take in a warp outside a handler and outside an adopted task. With a trap vector and no buffered store, frame and resume array are written at the warp's save slot and no other byte changes, the lanes stand TRAPPED at the instruction, the lowest one is READY at the vector with priority 15, w0:w1 hold the frame's address and every other register is as it was. Without one, the lanes leave the warp. TRAP takes SOFT_TRAP with its operand as subcode. R389, R395: TRET and TRET.skip of the handler's lane alone, with nothing pending: each lane that its frame keeps stands READY with the priority of its entry, at the entry's PC when the handler changed it (then in no mask), and else at the instruction, or after it with .skip; w0:w1 come back from the frame. In a warp with no handler TRET traps with ILLEGAL_OP. The model's choice: log 28: details of traps. -/
def Obligations.TrapsAndReturn : Prop := (∀ (s : State) (c : Issue) (w : WarpCore), s.warp? c.wid = some w → c.lanes ≠ 0 → w.depth = 0 → w.handler = none →
  (∀ r, Issuing s c w (.trap r) → exec (.trap r) s = .next (s.trapAll c (trapOf .softTrap r.b.toNat))) ∧
  (∀ (x : Trap), w.trapvec ≠ 0 → w.stores = [] → ∀ s1 l pa, s.engineTranslate w.party (s.asidOf w) .store (s.saveSlot w) = (s1, .ok (l, pa)) → KeyInForce s1 l.okey pa 320 →
    let t := s.trapAll c x
    let f := natOfBytes (t.mem.bytes pa 64)
    (bits f 7 0 = x.cause.code ∧ bits f 15 8 = x.subcode % 256 ∧ bits f 19 16 = 0 ∧ bit f 20 = c.pair ∧ bits f 31 21 = 0 ∧ bits f 63 32 = c.lanes.toNat ∧ bits f 127 64 = x.faddr % 2 ^ 64 ∧
      bits f 184 128 = c.pc % 2 ^ 57 ∧ bits f 255 192 = c.insn % 2 ^ 64 ∧ bits f 319 256 = w.token % 2 ^ 64 ∧ bits f 383 320 = w.task % 2 ^ 64 ∧ bits f 447 384 = 0 ∧
      bits f 479 448 = (w.held? 0 (.uni 0)).toNat ∧ bits f 511 480 = (w.held? 0 (.uni 1)).toNat) ∧
    (∀ l < 32, natOfBytes (t.mem.bytes (pa + 64 + 8 * l) 8) = if hasLane c.lanes l then (c.prio * 2 ^ 60 + c.pc / 4 * 4) % 2 ^ 64 else 0) ∧
    (∀ a, a < pa ∨ pa + 320 ≤ a → (s.isUndef a = false ∨ a / 4 * 4 ∉ wordKeys pa 320) → t.mem.byte a = s.mem.byte a) ∧ t.cur = none ∧
    ∃ w' h, t.warp? c.wid = some w' ∧ Stand w' (laneBit (lowest c.lanes)) 15 (w.trapvec.toNat % 2 ^ 57) .ready ∧
      Stand w' (c.lanes &&& ~~~(laneBit (lowest c.lanes))) c.prio c.pc (.trapped w.nextSub) ∧
      w'.held? 0 (.uni 0) = BitVec.ofNat 32 (s.saveSlot w) ∧ w'.held? 0 (.uni 1) = BitVec.ofNat 32 (s.saveSlot w / 2 ^ 32) ∧
      (∀ l p, p ≠ .uni 0 → p ≠ .uni 1 → w'.held? l p = w.held? l p) ∧ w'.out = [] ∧
      w'.handler = some h ∧ h.lane = lowest c.lanes ∧ h.frame = s.saveSlot w ∧ h.sub.lanes = c.lanes) ∧
  (∀ (x : Trap), w.trapvec = 0 → w.live &&& ~~~c.lanes ≠ 0 → (∀ l < 32, hasLane c.lanes l = true → (w.lane l).role = .none) → let t := s.trapAll c x
    t.cur = none ∧ ∃ w', t.warp? c.wid = some w' ∧ w'.live = w.live &&& ~~~c.lanes ∧ SameRegs w w' ∧ ∀ l < 32, hasLane c.lanes l = true → w'.entryOf l = none)) ∧
  (∀ (s : State) (c : Issue) (w : WarpCore) (r : RArgs),
  let returns (i : Instr) (skip : Bool) : Prop := Issuing s c w i →
    (w.handler = none → exec i s = .next (s.trapAll c (trapOf .illegalOp 0))) ∧
    (∀ h s1 b, w.handler = some h → w.subs = [] → h.lane < 32 → c.lanes = laneBit h.lane → hasLane w.live h.lane = true → s.readFrame c w h.frame = (s1, .ok b) →
      let f := natOfBytes (b.take 64)
      let entry (l : Nat) : Nat := natOfBytes ((b.drop (64 + 8 * l)).take 8)
      h.sub.lanes &&& ~~~(BitVec.ofNat 32 (bits f 63 32)) = 0 → Completes i s fun t => SameMemory s1 t ∧ t.cur = none ∧ ∃ w', t.warp? c.wid = some w' ∧ w'.handler = none ∧
        w'.held? 0 (.uni 0) = BitVec.ofNat 32 (bits f 511 448) ∧ w'.held? 0 (.uni 1) = BitVec.ofNat 32 (bits f 511 448 / 2 ^ 32) ∧
        (∀ l p, p ≠ .uni 0 → p ≠ .uni 1 → w'.held? l p = w.held? l p) ∧
        ∀ l < 32, hasLane h.sub.lanes l = true →
          if bits (entry l) 56 2 * 4 = bits f 184 128 then
            Stand w' (laneBit l) (bits (entry l) 63 60) (if skip then (bits f 184 128 + (if h.sub.wide then 8 else 4)) % 2 ^ 57 else bits f 184 128) .ready
          else Stand w' (laneBit l) (bits (entry l) 63 60) (bits (entry l) 56 2 * 4) .ready ∧ ∀ n, hasLane (w'.mask n) l = false)
  returns (.tret r) false ∧ returns (.tretSkip r) true)

/-- R369, R384: a frame for a context's fault queue goes to entry TAIL mod the capacity, then TAIL rises by 1, and no other byte changes; a launch that it names has FAULT. R386, R388: the oldest store that the region table denied leaves the list, and its launch has FAULT; with none nothing happens. -/
def Obligations.QueuedFrames : Prop := (∀ (s : State) (asid n : Nat) (x : Context) (f : Frame) (savedw : Nat) (y : Launch), s.ctxs.find? asid = some x → s.launches.find? n = some y →
  let s0 := s.modLaunch n (fun l => { l with faulted := true })
  let q := x.rcd.faultq
  ∀ s1 l pa, s0.engineTranslate .dev asid .load q = (s1, .ok (l, pa)) → CleanBytes s1 l.okey pa 8 → (∀ k ∈ wordKeys pa 8, offends .dev (s.histOf k) = false) →
  let tail := natOfBytes (s.mem.bytes pa 4)
  let head := natOfBytes (s.mem.bytes (pa + 4) 4)
  let bytes := bytesOfNat 64 (f.bits savedw)
  (tail + 2 ^ 32 - head) % 2 ^ 32 ≠ x.rcd.fqcap → (∃ y, (s1.engineTranslate .dev asid .store q).2 = .ok y) → ∀ s2 l2 pa2, s1.engineTranslate .dev asid .store (q + 64 + 64 * (tail % x.rcd.fqcap)) = (s2, .ok (l2, pa2)) → KeyInForce s2 l2.okey pa2 64 →
  ∀ s3 l3 pa3, (s2.engineWrite none l2.okey pa2 bytes).engineTranslate .dev asid .store q = (s3, .ok (l3, pa3)) → KeyInForce s3 l3.okey pa3 4 →
  let t := s.queueFrame asid (some n) f savedw
  (∃ m : State, StoredAmong s m pa2 bytes ∧ StoredAmong m t pa3 (bytesOfNat 4 ((tail + 1) % 2 ^ 32))) ∧ ∃ y', t.launches.find? n = some y' ∧ y'.faulted = true ∧ y'.frames = y.frames + 1) ∧
  (∀ (s : State), (s.denied = [] → exec .impreciseStoreFault s = .next s) ∧
  ∀ d rest l, s.denied = d :: rest → s.launches.find? d.launch = some l → Completes .impreciseStoreFault s fun t => t.denied = rest ∧ ∃ l', t.launches.find? d.launch = some l' ∧ l'.faulted = true)

/-- R51, R396, Table 3-6: RDCTL gives the control register that its field names, in one register or two. WRCTL writes `ctl.status`' flags, `ctl.srng` (which seeds every lane's stream), `ctl.drop` or `ctl.trapvec`; to any other register it traps with PROTECTION, and with ALIGN for a trap vector that is no multiple of 4. The model's choice: log 45: subcode 0 for a register that is read only. -/
def Obligations.ControlRegisters : Prop := ∀ (s : State) (c : Issue) (w : WarpCore) (r : RArgs),
  let l := s.launch w.launch
  let v := if ctlWide r.b then r.pairA s w (lowest c.lanes) else BitVec.ofNat 64 (r.vA s w (lowest c.lanes)).toNat
  (Issuing s c w (.rdctl r) → Completes (.rdctl r) s fun t =>
    let status := w.flags.toNat + (if w.handler.isSome then 2 ^ 8 else 0) + w.depth % 16 * 2 ^ 16
    let value := ([status, w.srng.toNat, if w.drop then 1 else 0, w.trapvec.toNat, l.asid, if s.worldOf l.asid then 1 else 0, w.wbase, (l.arena + l.arenaSz * l.rankOf w.core) % 2 ^ 64, l.arenaSz, l.spad, w.launch, w.token][r.b.toNat]?).getD 0
    RegResult s t c w r.d.toNat (if ctlWide r.b then 2 else 1) (fun _ j => BitVec.ofNat 32 (value / 2 ^ (32 * j))) 0) ∧
  (Issuing s c w (.wrctl r) →
    (r.b.toNat = 0 → Completes (.wrctl r) s fun t => WentOn s t c { w with flags := v.setWidth 8 }) ∧
    (r.b.toNat = 1 → Completes (.wrctl r) s fun t => WentOn s t c { w with srng := v.setWidth 32, lanes := w.lanes.zipIdx.map (fun e => { e.1 with stream := laneSeed (v.setWidth 32) e.2 }) }) ∧
    (r.b.toNat = 2 → Completes (.wrctl r) s fun t => WentOn s t c { w with drop := v.getLsbD 0 }) ∧
    (r.b.toNat = 3 → v.toNat % 4 = 0 → Completes (.wrctl r) s fun t => WentOn s t c { w with trapvec := v }) ∧
    (r.b.toNat = 3 → v.toNat % 4 ≠ 0 → exec (.wrctl r) s = .next (s.trapAll c (trapAt .align v.toNat))) ∧
    (3 < r.b.toNat → exec (.wrctl r) s = .next (s.trapAll c (trapOf .protection 0))))

/-- R393, R397, R398: from another context than ASID 0, CTXSAVE and CTXLOAD trap with PROTECTION, subcode 7; for an ASID with no context with subcode 8. Else CTXSAVE suspends the context, whose warps all leave, and waits, or ends at once with 0 when it has none; CTXLOAD lets it run again, a boundary at .dev. TLBINV of the own context, or by ASID 0, removes the cached translations of the ASID that meet the range, and no others, and notes the range as removed (R404). The model's choice: log 45: TLBINV is no boundary. -/
def Obligations.ContextControl : Prop := ∀ (s : State) (c : Issue) (w : WarpCore) (r : RArgs), Undoomed w c.lanes → c.lanes ≠ 0 →
  let lead := lowest c.lanes
  let asid := (r.vA s w lead).toNat % 4096
  let guarded (i : Instr) : Prop := Issuing s c w i → (s.asidOf w ≠ 0 → exec i s = .next (s.trapAll c (trapOf .protection 7))) ∧
    (s.asidOf w = 0 → s.ctxs.find? asid = none → exec i s = .next (s.trapAll c (trapOf .protection 8)))
  let load (i : Instr) (rearm : Bool) : Prop := Issuing s c w i → ∀ x, s.asidOf w = 0 → s.ctxs.find? asid = some x → Completes i s fun t =>
    Gave (State.boundary { s with ctxs := s.ctxs.insert asid { x with suspended := false, rearm := rearm } } c.wid .dev true) t c r.d.toNat [0]
  guarded (.ctxsave r) ∧ guarded (.ctxload r) ∧ guarded (.ctxloadRearm r) ∧ load (.ctxload r) false ∧ load (.ctxloadRearm r) true ∧
  (Issuing s c w (.ctxsave r) → ∀ x, s.asidOf w = 0 → s.ctxs.find? asid = some x →
    let k := Wait.mk' (.ctxsave asid) (if r.vB s w lead = 0xFFFFFFFF then none else some (s.ns + (r.vB s w lead).toNat)) (w.resolve r.d.toNat) false
    (s.hasResident asid = true → Completes (.ctxsave r) s fun t => Waits { s with ctxs := t.ctxs, evicting := t.evicting } t c w false k ∧
      t.ctxs.find? asid = some { x with suspended := true } ∧ ∀ n y, (n, y) ∈ s.warps → (s.launch y.run.launch).asid = asid → n ∈ t.evicting) ∧
    (s.hasResident asid = false → Completes (.ctxsave r) s fun t => Answered t c k.dst [(0, 0)] ∧ ∃ y, t.ctxs.find? asid = some y ∧ y.suspended = true ∧ y.rcd = x.rcd)) ∧
  (Issuing s c w (.tlbinv r) → let n := (r.vB s w lead).toNat
    let va := (r.pairA s w lead).toNat
    let whose := (r.vB1 s w lead).toNat % 4096
    (whose ≠ s.asidOf w → s.asidOf w ≠ 0 → exec (.tlbinv r) s = .next (s.trapAll c (trapOf .protection 7))) ∧
    ((whose = s.asidOf w ∨ s.asidOf w = 0) → Completes (.tlbinv r) s fun t => t.cur = none ∧ SameMemory s t ∧
      t.tlb = s.tlb.filter (fun e => !(decide (e.asid = whose) && if n = 0 then e.meets 0 (2 ^ 57) else e.meets va (min (va + n) (2 ^ 57)))) ∧
      t.tlbinvs = (whose, if n = 0 then 0 else va, if n = 0 then 2 ^ 57 else min (va + n) (2 ^ 57), s.seq) :: s.tlbinvs ∧
      ∃ w', t.warp? c.wid = some w' ∧ SameRegs w w' ∧ Stand w' c.lanes c.prio c.next .ready))

/-- R394, R360, R392, R406 to R408, R410 to R412: an SMC is a boundary at .dev and gives its results from v0 on. What each function answers, and what it changes: only the secure world loads keys and region entries, only ASID 0 binds jobs and takes or loads snapshots (0xFFFFFFFE otherwise); every other error is 0xFFFFFFFF. The model's choice: log 16: what the monitor reports; log 45: the codes of errors, and what function 3 does first. -/
def Obligations.MonitorCalls : Prop := ∀ (s : State) (c : Issue) (w : WarpCore) (r : RArgs), Undoomed w c.lanes → c.lanes ≠ 0 →
  let lead := lowest c.lanes
  let v (i : Nat) : Nat := (s.rd w lead i i).toNat
  let pair (i : Nat) : Nat := v i + v (i + 1) * 2 ^ 32
  let answers (i : Instr) (u : State) (res : List Word) : Prop := Completes i s fun t => Gave (State.boundary (u.modRun c.wid WarpCore.drainRegs) c.wid .dev true) t c 0 res
  let denied : List Word := [0xFFFFFFFE]
  let error : List Word := [0xFFFFFFFF]
  (Issuing s c w (.smcVersion r) → answers (.smcVersion r) s (if r.b = 0 then [Config.monitorVersion, 0xB1] else error)) ∧
  (Issuing s c w (.smcAttest r) → let asid := s.asidOf w
    (pair 0 % 4096 ≠ 0 → answers (.smcAttest r) s error) ∧
    (pair 0 % 4096 = 0 → (∀ s1, s.homeRead asid (pair 0) 8 = (s1, none) → answers (.smcAttest r) s1 error) ∧
      ∀ s1 tail, s.homeRead asid (pair 0) 8 = (s1, some tail) → ∃ report : List Byte, report.length = min 4096 Config.attestLength ∧
        ∀ s2 ok, s1.cpWrite asid .dev (pair 0) report = (s2, ok) → answers (.smcAttest r) s2 (if ok then [0, BitVec.ofNat 32 report.length] else error))) ∧
  (Issuing s c w (.smcLoadKeySlot r) →
    (s.warpWorld w = false → answers (.smcLoadKeySlot r) s denied) ∧ (s.warpWorld w = true → 4096 ≤ v 0 → answers (.smcLoadKeySlot r) s error) ∧
    (s.warpWorld w = true → v 0 < 4096 → ∀ s1, s.homeRead (s.asidOf w) (pair 1) Config.wrappedLength = (s1, none) → answers (.smcLoadKeySlot r) s1 error) ∧
    (s.warpWorld w = true → v 0 < 4096 → ∀ s1 n, s.homeRead (s.asidOf w) (pair 1) Config.wrappedLength = (s1, some n) →
      (Config.unwraps (bytesOfNat Config.wrappedLength n) = false → answers (.smcLoadKeySlot r) s1 error) ∧
      (Config.unwraps (bytesOfNat Config.wrappedLength n) = true → ∃ u : State, answers (.smcLoadKeySlot r) u [0] ∧ u.mem = s1.mem ∧
        u.keys.find? (v 0) = some (bytesOfNat Config.wrappedLength n) ∧ ∀ k, k ≠ v 0 → u.keys.find? k = s.keys.find? k))) ∧
  (Issuing s c w (.smcSetRegionEntry r) → let e := pair 1 + pair 3 * 2 ^ 64
    let good : Prop := 18 ≤ bits e 103 98 ∧ bits e 103 98 ≤ 52 ∧ bits e 51 18 * 2 ^ 18 % 2 ^ bits e 103 98 = 0 ∧ v 0 < 64
    (s.warpWorld w = false → answers (.smcSetRegionEntry r) s denied) ∧ (s.warpWorld w = true → ¬ good → answers (.smcSetRegionEntry r) s error) ∧
    (s.warpWorld w = true → good → ∃ u : State, answers (.smcSetRegionEntry r) u [0] ∧
      u.regions = s.regions.insert (v 0) { en := bit e 96, nsok := bit e 97, logsz := bits e 103 98, base := bits e 51 18 * 2 ^ 18 })) ∧
  (Issuing s c w (.smcReadErrorCounters r) → answers (.smcReadErrorCounters r) s (let n := Map.get 0 s.counters (8 * v 0 + v 1)
    if v 0 < 4 ∧ v 1 < 6 then [BitVec.ofNat 32 n, BitVec.ofNat 32 (n / 2 ^ 32)] else error)) ∧
  (Issuing s c w (.smcPowerState r) → answers (.smcPowerState r) s
    [BitVec.ofNat 32 (powerCode s.boot.power), BitVec.ofNat 32 s.boot.watts, BitVec.ofNat 32 s.boot.mhz, BitVec.ofNat 32 s.boot.limit]) ∧
  (Issuing s c w (.smcBindFabricJob r) → let others := s.jobs.filter (fun j => decide (j.asid ≠ v 0))
    (s.asidOf w ≠ 0 → answers (.smcBindFabricJob r) s denied) ∧
    (s.asidOf w = 0 → s.ctxs.find? (v 0) = none → answers (.smcBindFabricJob r) s error) ∧
    (s.asidOf w = 0 → (s.ctxs.find? (v 0)).isSome = true → pair 1 = 0 → answers (.smcBindFabricJob r) { s with jobs := others } [0]) ∧
    (s.asidOf w = 0 → (s.ctxs.find? (v 0)).isSome = true → pair 1 ≠ 0 → (8192 < v 5 ∨ 64 ≤ others.length ∨ ∃ j ∈ others, j.key = pair 1) → answers (.smcBindFabricJob r) s error) ∧
    (s.asidOf w = 0 → (s.ctxs.find? (v 0)).isSome = true → pair 1 ≠ 0 → v 5 ≤ 8192 → others.length < 64 → (∀ j ∈ others, j.key ≠ pair 1) → ∀ s1,
      s.homeRead (s.asidOf w) (pair 3) (16 * v 5) = (s1, none) → answers (.smcBindFabricJob r) s1 error) ∧
    (s.asidOf w = 0 → (s.ctxs.find? (v 0)).isSome = true → pair 1 ≠ 0 → v 5 ≤ 8192 → others.length < 64 → (∀ j ∈ others, j.key ≠ pair 1) → ∀ s1 n, s.homeRead (s.asidOf w) (pair 3) (16 * v 5) = (s1, some n) →
      answers (.smcBindFabricJob r) { s1 with jobs := { asid := v 0, key := pair 1, members := (List.range (v 5)).map (fun i =>
        (bits n (128 * i + 12) (128 * i), bits n (128 * i + 28) (128 * i + 16), bits n (128 * i + 127) (128 * i + 64))) } :: others } [0])) ∧
  (Issuing s c w (.smcLoadSnapshot r) → let found := s.snapshots.find? (fun x => decide (x.asid = v 0) && decide (x.modId = v 1) && decide (x.store = pair 2))
    (s.asidOf w ≠ 0 → answers (.smcLoadSnapshot r) s denied) ∧ (s.asidOf w = 0 → found = none → answers (.smcLoadSnapshot r) s error) ∧
    (s.asidOf w = 0 → ∀ x, found = some x → answers (.smcLoadSnapshot r) (if s.clearFor x then s.loadSnapshot x else s) (if s.clearFor x then [0] else error))) ∧
  (Issuing s c w (.smcSnapshot r) →
    (s.asidOf w ≠ 0 → Completes (.smcSnapshot r) s fun t => Answered t c (w.resolve 0) [(0, 0xFFFFFFFE)]) ∧
    (s.asidOf w = 0 → (s.ctxs.find? (v 0) = none ∨ s.jobs.any (fun j => decide (j.asid = v 0)) = false) →
      Completes (.smcSnapshot r) s fun t => Answered t c (w.resolve 0) [(0, 0xFFFFFFFF)]) ∧
    (∀ x, s.asidOf w = 0 → s.ctxs.find? (v 0) = some x → s.jobs.any (fun j => decide (j.asid = v 0)) = true → Completes (.smcSnapshot r) s fun t =>
      Waits { s with ctxs := t.ctxs, evicting := t.evicting } t c w false (Wait.mk' (.snapshot (v 0) (v 1)) none (w.resolve 0) false) ∧ t.ctxs.find? (v 0) = some { x with suspended := true }))

/-- R179, R180, R403, R406, Table 24-9: a wave's access that is not aligned traps with ALIGN at its address, one to the aperture by anything but a store of a channel with PROTECTION; a page that is missing, or lies in a region that firmware reserves (R227), one of the wrong world or without the right gives PAGE_FAULT, WORLD or PROTECTION. A region entry decides an address alone when it is the lowest enabled one that holds it; outside all of them only the secure world reaches memory. -/
def Obligations.AccessFaults : Prop := ∀ (s : State) (w : WarpCore) (acc : Acc) (ea n : Nat),
  (inAperture ea n = false → ea % n ≠ 0 → s.waveAccess w acc ea n = (s, .error (trapAt .align ea))) ∧
  (inAperture ea n = true → s.waveAccess w acc ea n = (s, .error { cause := .protection, subcode := 0, faddr := ea })) ∧
  (ea % n ≠ 0 → s.spadAccess w ea n = .error (trapAt .align ea)) ∧
  (∀ o, ea % n = 0 → s.spadFail w.core w.launch ea n = some o → s.spadAccess w ea n = .error (trapAt .spadBounds o)) ∧
  (inAperture ea n = false → ea % n = 0 → ∀ s1 l new, s.lookup w.party (s.asidOf w) ea = (s1, l, new) →
    (l = none ∨ (∃ x, l = some x ∧ s.isReserved (x.pa ea) = true) → (s.waveAccess w acc ea n).2 = .error { cause := if acc = .load ∨ acc = .fetch then .pageFaultLd else .pageFaultSt, subcode := 0, faddr := ea }) ∧
    (∀ x, l = some x → s.isReserved (x.pa ea) = false → x.world = true → s.warpWorld w = false → (s.waveAccess w acc ea n).2 = .error (trapAt .world ea)) ∧
    (∀ x, l = some x → s.isReserved (x.pa ea) = false → (x.world = false ∨ s.warpWorld w = true) → s.regionAllows (s.warpWorld w) (x.pa ea) = true →
      (x.grants acc = false → (s.waveAccess w acc ea n).2 = .error (trapAt .protection ea)) ∧ (x.grants acc = true → (s.waveAccess w acc ea n).2 = .ok (x, x.pa ea)))) ∧
  (∀ pa, s.regionAllows true pa = true) ∧
  (∀ pa, (∀ e ∈ s.regions, e.2.en = true → ¬ (e.2.base ≤ pa ∧ pa < e.2.base + 2 ^ e.2.logsz)) → s.regionAllows false pa = false) ∧
  (∀ pa pre i x post, s.regions = pre ++ (i, x) :: post → (∀ e ∈ pre, e.2.en = true → ¬ (e.2.base ≤ pa ∧ pa < e.2.base + 2 ^ e.2.logsz)) → x.en = true → x.base ≤ pa →
    pa < x.base + 2 ^ x.logsz → s.regionAllows false pa = x.nsok)

/-! ### Launches, eviction, the command processor (chapters 4, 22, 23) -/

/-- R71, R73, R74: a core that is idle for a flat launch, which nothing outranks and which fits, claims the next chunk of its own die's counter, or of the next die that has one, when banks of the launch that were saved there can be read back (R411); the counter moves by one, and a warp runs in each slot, all its lanes READY at the entry, with chunk, first iteration, iteration count and its own number in w0 to w3. An idle core that may not claim changes nothing. The model's choice: log 42: details of residency. -/
def Obligations.ChunkClaims : Prop := ∀ (s : State) (core launch : Nat) (l : Launch), s.launches.find? launch = some l →
  ((s.wants core launch l = false ∨ s.outranked core launch = true) → exec (.chunkClaim core launch) s = .next s) ∧
  (∀ die chunk slots, s.wants core launch l = true → s.outranked core launch = false → l.ticket (dieOf core) = some (die, chunk) →
    chooseSlots (s.slotsUsed core) l.alloc l.warps = some slots → s.roomFor core launch = true → (∀ n ∈ slots, n < 64) → slots.Nodup →
    ((s.modLaunch launch (fun l => l.take die)).placeContext core l.asid).BanksCome core launch → Completes (.chunkClaim core launch) s fun t =>
      (∃ l', t.launches.find? launch = some l' ∧ l'.tickets = l.tickets.map (fun x => if x.1 = die then (x.1, x.2.1 + 1, x.2.2) else x)) ∧
      ∀ i n, slots[i]? = some n → ∃ w, t.warp? (widOf core n) = some w ∧ w.launch = launch ∧ w.live = 0xFFFFFFFF ∧ w.rank = i ∧ Stand w 0xFFFFFFFF 0 (l.entry / 4 * 4) .ready ∧
        ∀ k < 32, w.held? k (.uni 0) = BitVec.ofNat 32 chunk ∧ w.held? k (.uni 1) = BitVec.ofNat 32 (chunk * l.chunk) ∧
          w.held? k (.uni 2) = BitVec.ofNat 32 (min ((chunk + 1) * l.chunk) l.iters - chunk * l.chunk) ∧ w.held? k (.uni 3) = BitVec.ofNat 32 i)

/-- R80, R81, R285, R337: a warp that is leaving its core is saved once its asynchronous copies and write-back fences are complete, with its register writes performed and its stores published at .dev, and its slot is free; one that is not ready stays. A saved warp whose turn it is, whose place is free, whose launch holds its banks there and whose save slot can be read comes back to its slot as it was, and is refreshed (R204); the CP reads its context's record first when no other warp of it is on the core (R364). The model's choice: log 42: details of eviction and restore. -/
def Obligations.SaveAndRestore : Prop := ∀ (s : State) (wid : Nat),
  (∀ x, s.warps.find? wid = some x → (s.evicting.contains wid && s.saveReady x) = false → exec (.warpEvictionSave wid) s = .next s) ∧
  (∀ x x1, s.warps.find? wid = some x → s.evicting.contains wid = true → s.saveReady x = true →
    let s1 := (State.boundary (s.modRun wid WarpCore.drainRegs) wid .dev false).moveMonitors wid
    s1.warps.find? wid = some x1 → ((s1.saveWarpImage x1).warps.find? wid).isSome = true → (s1.warps.map Prod.fst).Nodup → Completes (.warpEvictionSave wid) s fun t =>
      t.warps.find? wid = none ∧ wid ∉ t.evicting ∧ x1.run.out = [] ∧ x1.run.stores = [] ∧ (∃ v ∈ t.saved, v.wid = wid ∧ v.warp = x1 ∧ v.byCall = none) ∧ SameMemory s1 t) ∧
  (∀ v, s.saved.find? (fun v => decide (v.wid = wid) && decide (v.byCall = none) && s.turnOf v && s.ctxRuns (s.asidOf v.warp.run)) = some v → v.fits s = true → ∀ s1, s.readSlot v.warp = (s1, none) →
    let s2 := s1.placeContext (v.wid / 64) (s.asidOf v.warp.run)
    let y := s2.savedAs v
    s2.banksOf (v.wid / 64) v.warp.run.launch ≠ [] → v.waits = [] → Completes (.warpRestore wid) s fun t => y ∉ t.saved ∧ SameMemory s2 t ∧ ((s.contextsOn (v.wid / 64)).contains (s.asidOf v.warp.run) = true → (∀ x ∈ s.saved, x.wid = v.wid → x.byCall = none → x = v) → y = v ∧ SameMemory s t) ∧
      ∃ x, t.warps.find? wid = some x ∧ x.help = y.warp.help ∧ x.run = ({ y.warp.run with refresh := s2.seq, reads := [] } : WarpCore).settle) ∧
  (s.saved = [] → exec (.warpRestore wid) s = .next s)

/-- R364 to R366: when the CP sees VALID in the record of an ASID with no context it makes one with the record's fields; a record that is not valid makes none, and ends one that is there, with no byte of memory changed but the generation words of its barrier groups. A queue that waits for nothing, with entries between HEAD and TAIL, takes the entry at HEAD, clears its graph word and starts its graph at node 0. The model's choice: log 4: where the context table lies; log 43: details of contexts. -/
def Obligations.ContextsAndQueues : Prop := ∀ (s : State) (asid q : Nat), s.boot.ready = true → asid < 4096 →
  let s0 := s.callRecord asid
  let v := s0.recordOf asid
  (s.ctxs.find? asid = none → s0.recordValid asid = false → exec (.contextCreate asid) s = .next s0 ∧ SameMemory s s0 ∧ s0.ctxs = s.ctxs) ∧
  (s.ctxs.find? asid = none → s0.recordValid asid = true → Completes (.contextCreate asid) s fun t => ∃ x, t.ctxs.find? asid = some x ∧ x.suspended = false ∧ x.ended = false ∧
    x.rcd.save = bits v 511 448 ∧ x.rcd.faultq = bits v 447 384 ∧ x.rcd.fqcap = bits v 383 352 ∧ x.rcd.hamper = bits v 351 288 ∧ x.rcd.qtable = bits v 287 224 ∧
    x.rcd.bgbase = bits v 223 214 ∧ x.rcd.bgcount = bits v 213 203 ∧ x.rcd.nq = bits v 202 196 ∧ x.rcd.world = bit v 193) ∧
  ((s.ctxs.find? asid).isSome = true → s0.recordValid asid = false → Completes (.contextCreate asid) s fun t => t.ctxs.find? asid = none ∧
    (∀ n x, (n, x) ∈ t.warps → (s.launch x.run.launch).asid ≠ asid) ∧
    (s.fw.genWords % 4 = 0 → (∀ e ∈ s.barriers, KeyInForce s 0 (s.genWord e.1) 4) → ∀ a, (∀ e ∈ s.barriers, s.groupOf asid e.1 = true → ¬ (s.genWord e.1 ≤ a ∧ a < s.genWord e.1 + 4)) → t.mem.byte a = s.mem.byte a)) ∧
  (∀ x y s1 h s2 e s3, s.ctxs.find? asid = some x → x.queues.find? q = some y → x.bad = false → s.ctxRuns asid = true → y.open_ = true → s.graphs.length + s.queuesBefore asid q y < 256 →
    s.homeRead asid y.base 64 = (s1, some h) → let tail := bits h 31 0
    let head := bits h 63 32
    let va := y.base + 64 + 32 * (head % 2 ^ y.caplog)
    tail ≠ head → (tail + 2 ^ 32 - head) % 2 ^ 32 ≤ 2 ^ y.caplog → s1.homeRead asid va 32 = (s2, some e) → bits e 63 0 ≠ 0 → s2.cpWrite asid .dev va (bytesOfNat 8 0) = (s3, true) →
    Completes (.cpServeEntry asid q) s fun t => SameMemory s3 t ∧ ∃ id r, t.graphs.find? id = some r ∧ r.asid = asid ∧ r.queue = q ∧ r.graph = bits e 63 0 ∧
      r.done = bits e 127 64 ∧ r.node = 0 ∧ r.phase = .atNode ∧ r.status = 0)

/-- R370 to R376: what each node does when its graph has come to it. KERNEL and TASKROOT begin a launch of their fields; COPY begins with all its bytes to move, and each step moves a run of them; COND goes to its target when its comparison holds, and else on; LOOP, reached from the end of its body, goes into it again while the comparison holds and CNT is below MAX, and counts, and else goes on past it; WAITMEM registers on its word; SIGNAL stores VALUE, with every write that is published on the device published at .sys; END ends the graph, and so does a node that is not one. R374: a COPY whose last run of bytes, in one page of source and destination, is one byte moves that byte to its place and no other; with nothing left it completes and the graph goes on. The model's choice: log 39: details of graphs, LOOP among them; log 41: the runs of a COPY. -/
def Obligations.Graphs : Prop := (∀ (s : State) (g : Nat) (r : GraphRun) (s1 : State) (v : Nat), s.graphs.find? g = some r → r.phase = .atNode → s.ctxRuns r.asid = true →
  s.readNode { r with tstart := some (r.tstart.getD s.ns) } r.node = (s1, some v) →
  let r1 := { r with tstart := some (r.tstart.getD s.ns), held := v }
  let good : Prop := nodeReserved v = true ∧ nodeRanges r.node v = true
  let at_ (t : State) (node : Nat) : Prop := ∃ x, t.graphs.find? g = some x ∧ x.node = node ∧ x.phase = .atNode ∧ x.from_ = some r.node ∧ x.status = r.status
  let on (u t : State) : Prop := at_ t (match u.loopsEnding r1 r.node r.node with | i :: _ => i | [] => r.node + 1)
  (good → nodeType v = 1 → ∀ s2 l, s1.askLaunch g r1 v false = (s2, some l) → Completes (.nodeKernel g) s fun t => ∃ id y x, t.launches.find? id = some y ∧
    { y with tickets := l.tickets } = l ∧ y.tickets = l.newTickets ∧ l.asid = r.asid ∧ l.entry = bits v 191 128 ∧ l.iters = bits v 319 288 ∧ l.chunk = bits v 351 320 ∧ l.warps = bits v 84 79 + 1 ∧
    t.graphs.find? g = some x ∧ x.phase = .launch id) ∧
  (good → nodeType v = 2 → ∀ s2 l s3, s1.askLaunch g r1 v true = (s2, some l) →
    s2.cpWrite r.asid .dev (bits v 191 128 + 16) (bytesOfNat 8 0 ++ bytesOfNat 8 (ctlWord 0 0 true l.job)) = (s3, true) → Completes (.nodeTaskroot g) s fun t => SameMemory s3 t ∧
      ∃ id y x, t.launches.find? id = some y ∧ y.task = true ∧ bits v 191 128 ∈ y.records ∧ bits v 191 128 ∈ (t.darner (coreAt l.x l.y) id).deque ∧
        t.graphs.find? g = some x ∧ x.phase = .launch id) ∧
  (good → nodeType v = 3 → Completes (.nodeCopy g) s fun t => SameMemory s t ∧ ∃ x, t.graphs.find? g = some x ∧ x.held = v ∧
    x.phase = .copy (if bits v 255 192 = 0 then [] else [(0, bits v 255 192)]) s1.seq) ∧
  (good → nodeType v = 4 → ∀ s2 b, s1.nodeHolds r1 = (s2, some b) → r.node < 65535 → Completes (.nodeCond g) s fun t => SameMemory s t ∧ if b then at_ t (bits v 63 48) else on s2 t) ∧
  (good → nodeType v = 5 → r.from_ = some (r.node + bits v 47 32) → ∀ s2 n s3 s4, s1.homeRead r.asid (bits v 319 256) 4 = (s2, some n) → n < bits v 63 48 → s2.nodeHolds r1 = (s3, some true) →
    s3.cpWrite r.asid .dev (bits v 319 256) (bytesOfNat 4 (n + 1)) = (s4, true) → Completes (.nodeLoop g) s fun t => SameMemory s4 t ∧ at_ t (r.node + 1)) ∧
  (good → nodeType v = 5 → r.from_ = some (r.node + bits v 47 32) → ∀ s2 n, s1.homeRead r.asid (bits v 319 256) 4 = (s2, some n) → bits v 63 48 ≤ n →
    s2.loopsEnding r1 (r.node + bits v 47 32) r.node = [] → r.node + bits v 47 32 < 65535 → Completes (.nodeLoop g) s fun t => SameMemory s t ∧ at_ t (r.node + bits v 47 32 + 1)) ∧
  (good → nodeType v = 5 → r.from_ = some (r.node + bits v 47 32) → ∀ s2 n s3, s1.homeRead r.asid (bits v 319 256) 4 = (s2, some n) → n < bits v 63 48 → s2.nodeHolds r1 = (s3, some false) →
    s3.loopsEnding r1 (r.node + bits v 47 32) r.node = [] → r.node + bits v 47 32 < 65535 → Completes (.nodeLoop g) s fun t => SameMemory s t ∧ at_ t (r.node + bits v 47 32 + 1)) ∧
  (good → nodeType v = 6 → ∀ s2 l pa, s1.engineTranslate .dev r.asid .load (bits v 127 64) = (s2, .ok (l, pa)) → s2.admitPlace pa ≠ .held → bits v 255 224 ≠ 0 →
    CleanBytes s2 l.okey pa (if bit v 195 then 8 else 4) → s2.regionAllows (s2.worldOf r.asid) pa = true → (∀ y ∈ wordKeys pa (if bit v 195 then 8 else 4), offends .dev (s2.histOf y) = false) →
    cmpHolds (bits v 194 192) (bit v 195) (natOfBytes (s.mem.bytes pa (if bit v 195 then 8 else 4))) (bits v 191 128) = false → Completes (.nodeWaitmem g) s fun t => SameMemory s t ∧
      ∃ x id y, t.graphs.find? g = some x ∧ x.phase = .wait none ∧ t.regs.find? id = some y ∧ y.owner = .graph g ∧ y.key = pa ∧ y.cmp = bits v 194 192 ∧ y.operand = bits v 191 128) ∧
  (good → nodeType v = 7 → bit v 193 = false → r.node < 65535 → ∀ s2 l pa, let n := if bit v 192 then 8 else 4
    s1.engineTranslate .dev r.asid .store (bits v 127 64) = (s2, .ok (l, pa)) → KeyInForce s2 l.okey pa n → pa % 4 = 0 → Completes (.nodeSignal g) s fun t => Stored s t pa (bytesOfNat n (bits v 191 128)) ∧
    ∀ h ∈ t.hist, h.pubDev.isSome = true → h.pubSys.isSome = true) ∧
  (good → nodeType v = 0 → Completes (.nodeEnd g) s fun t => t.graphs.find? g = none) ∧
  (¬ good → ∀ i, i ∈ [Instr.nodeEnd g, .nodeKernel g, .nodeTaskroot g, .nodeCopy g, .nodeCond g, .nodeLoop g, .nodeWaitmem g, .nodeSignal g] → Completes i s fun t => t.graphs.find? g = none)) ∧
  (∀ (s : State) (g : Nat) (r : GraphRun), s.graphs.find? g = some r →
  let src := bits r.held 127 64
  let dst := bits r.held 191 128
  let n := bits r.held 255 192
  let apart : Prop := src + n ≤ dst ∨ dst + n ≤ src
  (∀ since, r.phase = .copy [] since → apart → s.loopsEnding r r.node r.node = [] → r.node < 65535 → Completes (.copyNodeComplete g) s fun t => SameMemory s t ∧
    ∃ x, t.graphs.find? g = some x ∧ x.node = r.node + 1 ∧ x.phase = .atNode) ∧
  (∀ since off s1 l pa s2 l2 pa2, r.phase = .copy [(off, off + 1)] since → apart → r.node < 65535 → s.engineTranslate .dev r.asid .load (src + off) = (s1, .ok (l, pa)) →
    s1.engineTranslate .dev r.asid .store (dst + off) = (s2, .ok (l2, pa2)) → EngineClean s2 .dev { at_ := since, fresh := 0, token := none } l.okey pa 1 → KeyInForce s2 l2.okey pa2 1 →
    Completes (.copyNodeComplete g) s fun t => StoredAmong s t pa2 [s.mem.byte pa]))

/-! ### Reset, bring-up and the host (chapters 2 and 25) -/

/-- R361, R409, R412: MODULE_RESET returns every core, context, launch, graph, link and Seam to its reset value, and the generation words of the barrier groups to 0 (R236). Bring-up goes on stage by stage, measures the firmware at stage 1, gives the module id, a power limit of at most 2600 W, the routes and the reserved regions at stage 2, and READY at the last; a failed one has its code and goes no further. The host's writes take their place after READY and are discarded before it; its reads give the identity block, memory's bytes whose newest writes are published to it (R205), and before READY all ones but for BOOTSTAT. A power state change sets what SMC 5 reports; a pipe's interval that is over is forgotten (R135). The model's choice: log 44: what MODULE_RESET keeps; log 46: how HOST_READ names memory. -/
def Obligations.ResetAndHost : Prop := ∀ (s : State),
  (Completes .moduleReset s fun t => t.boot = State.reset.boot ∧ t.warps = [] ∧ t.saved = [] ∧ t.cores = [] ∧ t.ctxs = [] ∧ t.launches = [] ∧ t.graphs = [] ∧ t.regs = [] ∧ t.links = [] ∧ t.seams = [] ∧
    t.regions = State.reset.regions ∧ t.tlb = [] ∧ t.barriers = [] ∧ (∀ a, isSpad a = true → t.mem.byte a = 0) ∧
    let counts (a : Nat) : Prop := ∃ e ∈ s.barriers, e.1 < 1024 ∧ s.genWord e.1 ≤ a ∧ a < s.genWord e.1 + 4
    s.fw.genWords % 4 = 0 → (∀ e ∈ s.barriers, KeyInForce s 0 (s.genWord e.1) 4) → ∀ a, isSpad a = false → (counts a → t.mem.byte a = 0) ∧ (¬ counts a → t.mem.byte a = s.mem.byte a)) ∧
  (∀ ok detail, let b := s.boot
    ((b.ready = true ∨ b.failed = true) → exec (.bringupStage ok detail) s = .next s) ∧
    (b.ready = false → b.failed = false → Completes (.bringupStage ok detail) s fun t => { t with boot := b } = s ∧
      (ok = true → t.boot.stage = b.stage + 1 ∧ t.boot.ready = decide (b.stage + 1 = 5) ∧ t.boot.modId = (if b.stage + 1 = 2 then detail % 2 ^ 13 else b.modId) ∧
        t.boot.firmware = (if b.stage + 1 = 1 then BitVec.ofNat 512 detail else b.firmware) ∧ t.boot.record = (if b.stage + 1 = 2 then Config.recordDigest detail else b.record) ∧
        t.boot.limit = (if b.stage + 1 = 2 then recordLimit detail else b.limit) ∧ recordLimit detail ≤ 2600 ∧ t.boot.failed = false ∧
        t.boot.reserved = (if b.stage + 1 = 2 then Config.recordReserved detail else b.reserved) ∧
        t.boot.routes = (if b.stage + 1 = 2 then (Config.recordRoutes detail).foldl (fun t e => Table.insert t e.1 e.2) [] else b.routes)) ∧
      (ok = false → t.boot.failed = true ∧ t.boot.err = detail % 256 ∧ t.boot.stage = b.stage))) ∧
  (∀ st mhz watts, Completes (.powerStateChange st mhz watts) s fun t => { t with boot := s.boot } = s ∧ t.boot.power = st ∧ t.boot.mhz = mhz % 2 ^ 32 ∧ t.boot.watts = watts % 2 ^ 32 ∧
    t.boot.stage = s.boot.stage ∧ t.boot.ready = s.boot.ready) ∧
  (∀ pa data, (s.boot.ready = false → exec (.hostWrite pa data) s = .next s) ∧
    (s.boot.ready = true → populated pa = true → populated (pa + data.length - 1) = true → KeyInForce s 0 pa data.length → Completes (.hostWrite pa data) s fun t => StoredAmong s t pa data)) ∧
  (∀ a, Completes (.hostRead a) s fun t => { t with boot := s.boot, hist := s.hist, seq := s.seq, undef := s.undef } = s ∧ let x := t.boot.hostRead
    (s.boot.ready = false → (a < 8 ∨ 12 ≤ a) → x = 0xFFFFFFFF) ∧ (s.boot.ready = true → a < 4 → x = 0x09601E7A) ∧
    (8 ≤ a → a < 12 → x = BitVec.ofNat 32 ((if s.boot.ready then 2 ^ 31 else 0) + (if s.boot.failed then 2 ^ 30 else 0) + s.boot.err % 256 * 2 ^ 16 + s.boot.stage)) ∧
    (s.boot.ready = true → 2 ^ 63 ≤ a → a < 2 ^ 64 → EngineClean s .sys { at_ := s.seq, fresh := 0, token := none } 0 (a % 2 ^ 63) 4 → x = BitVec.ofNat 32 (natOfBytes (s.mem.bytes (a % 2 ^ 63) 4)))) ∧
  (∀ core quarter pipe, core < 384 → Completes (.pipeIntervalEnd core quarter pipe) s fun t => SameMemory s t ∧ t.warps = s.warps ∧
    (t.core core).pipes = (s.core core).pipes.filter (fun h => !(decide (h.1 = quarter) && decide (h.2.1 = pipe) && decide (h.2.2 ≤ s.clk))))

/-! ### The machine as a whole (chapters 3, 4 and 12) -/

/-- The words that the spec writes out in its encoding examples decode to the instructions that they stand for: R42, R44, R53. -/
def Obligations.WordsDecode : Prop := decode 0x000C0820 0 = .ok (.add { sw := false, d := 3, a := 1, b := 2, px := none }) ∧
  decode 0x800C0820 0 = .ok (.add { sw := true, d := 3, a := 1, b := 2, px := none }) ∧
  decode 0x04142FFD 0 = .ok (.addi { sw := false, d := 5, a := 5, imm := 0x7FD, px := none }) ∧
  decode 0x38182404 0 = .ok (.ld { sw := false, d := 6, a := 4, size := 4, hint := 0, off := 4, px := none }) ∧
  decode 0x307FFFFC 0 = .ok (.bra { sw := false, prio := 3, off := 0x1FFFFC, px := none }) ∧
  decode 0x34000007 0 = .ok (.nop { sw := false, d := 0, a := 0, b := 0, px := none }) ∧
  decode 0x34000006 0 = .ok (.exit { sw := false, d := 0, a := 0, b := 0, px := none }) ∧
  decode 0x3420A001 0 = .ok (.callw { sw := false, d := 8, a := 20, b := 0, px := none }) ∧
  decode 0x3420A0A2 0 = .ok (.callk { sw := false, d := 8, a := 20, b := 10, px := none }) ∧
  decode 0 0 = .ok (.add { sw := false, d := 0, a := 0, b := 0, px := none })

/-- R42 to R53, R312: decoding the words of a well-formed encoded instruction gives it back, with every operand at every value; and words that decode are those of the instruction that they decode to, which is well-formed. -/
def Obligations.DecodeEncodeAgree : Prop := (∀ i : Instr, encode i ≠ [] → i.WellFormed → decodeWords (encode i) = .ok i) ∧
  (∀ w0 w1 i, w0 < 2 ^ 32 → w1 < 2 ^ 32 → (wordsOf w0 = 1 → w1 = 0) → decode w0 w1 = .ok i → i.WellFormed ∧ encode i = if wordsOf w0 = 1 then [w0] else [w0, w1])

/-- R45, R59, R61: when a quarter's turn comes with no code to deliver, the first slot of its rotation whose warp can issue fetches at its best entry, and the step is the instruction that the words there decode to, issued from that entry, with what an issue and the end of a turn add. R45: a fetch reads the four bytes at the PC's physical address, the first in the low bits. The model's choice: log 3: turns and the rotation as the model takes them. -/
def Obligations.StepRunsDecoded : Prop := (∀ (s : State) (core q slot : Nat) (pre post : List Nat) (w : WarpCore) (e : Entry) (s1 s2 : State) (w0 w1 : Nat) (i : Instr),
  s.turn = .issue core q → core < 384 → q < 4 → s.recorded core q = [] → ((s.core core).nextAt[q]?).getD 0 ≤ s.clk → rotation q (((s.core core).lastSlot[q]?).getD 0) = pre ++ slot :: post →
  (∀ p ∈ pre, s.apertureStalled (widOf core p) = true ∨ s.attempt core q (widOf core p) = none) → s.apertureStalled (widOf core slot) = false →
  s.warp? (widOf core slot) = some w → s.mayIssue w = true → bestEntry w.frontier = some e → s.fetchWord w e.pc = (s1, .ok w0) →
  (wordsOf w0 = 1 → s2 = s1 ∧ w1 = 0) → (wordsOf w0 ≠ 1 → s1.fetchWord w ((e.pc + 4) % 2 ^ 57) = (s2, .ok w1)) → decode w0 w1 = .ok i →
  let c := issueOf (widOf core slot) e w0 w1
  s.pipeFree core q c.insn = true → ∀ t, exec i { s2 with cur := some c } = .next t → t.cur = none → step s = .next (t.issued c w.token (pipeOf c.insn)).endTurn) ∧
  (∀ (s : State) (w : WarpCore) (pc : Nat) (s1 : State) (l : Leaf) (pa : Nat), s.translate w.party (s.asidOf w) (s.warpWorld w) .fetch pc = (s1, .ok (l, pa)) →
  CleanBytes s1 l.okey pa 4 → (∀ y ∈ wordKeys pa 4, offends w.party (s1.histOf y) = false) → s1.regionAllows (s1.warpWorld w) pa = true →
  ∃ s2, SameMemory s s2 ∧ s2.warps = s.warps ∧ s.fetchWord w pc = (s2, .ok (wordOfBytes (s.mem.byte pa) (s.mem.byte (pa + 1)) (s.mem.byte (pa + 2)) (s.mem.byte (pa + 3)))))

/-- R43, R47, R48, Table 3-5: what a register field reads, in a warp with no write outstanding: v registers through the window's base, w registers, the specials; pairs, where fp and sp read as addresses in the frame arena; a write to `zero` is discarded. The model's choice: log 20: fp and sp in a pair. -/
def Obligations.RegisterFields : Prop := ∀ (s : State) (w : WarpCore) (l r pos : Nat), w.out = [] →
  (r < 96 → s.rd w l r pos = Map.get 0 w.regs (32 * (w.wbase + r) + l)) ∧ (96 ≤ r → r < 120 → s.rd w l r pos = Map.get 0 w.w (r - 96)) ∧
  (s.rd w l 120 pos = 0 ∧ s.rd w l 121 pos = BitVec.ofNat 32 l ∧ s.rd w l 122 pos = BitVec.ofNat 32 w.slot ∧ s.rd w l 123 pos = BitVec.ofNat 32 (w.core % 16 * 256 + w.core / 16) ∧
    s.rd w l 124 pos = BitVec.ofNat 32 s.clk ∧ s.rd w l 125 pos = (w.lane l).fp ∧ s.rd w l 126 pos = (w.lane l).sp ∧ s.rd w l 127 pos = (w.lane l).idx) ∧
  (r < 120 → (s.rdPair w l r pos).toNat = (s.rd w l r pos).toNat + (s.rd w l (r + 1) (pos + 1)).toNat * 2 ^ 32) ∧
  (s.rdPair w l 120 pos = 0 ∧ s.rdPair w l 125 pos = BitVec.ofNat 64 (s.arenaOf w + (w.lane l).fp.toNat) ∧ s.rdPair w l 126 pos = BitVec.ofNat 64 (s.arenaOf w + (w.lane l).sp.toNat)) ∧
  (∀ v, SameRegs w (WarpCore.writeLoc s w l (w.resolve 120) v))

/-- R220, R229: a recorded code that is delivered to the lanes of a wait that does not look again: the code and the wait's values are in the registers that it names, the lanes are READY where they stand, their warp's stores are published and it is refreshed. R225: the lanes that share its registration are READY with them. The model's choice: log 48: a recorded code is delivered in a later turn. -/
def Obligations.WaitDelivery : Prop := ∀ (s : State) (wid : Nat) (w : WarpCore) (m : Mask) (t : Wait) (code : Nat) (e : Entry), s.warp? wid = some w → m ≠ 0 → w.entryOf (lowest m) = some e →
  t.looksAgain code = false → let u := s.deliver (wid, m, t, code)
  let more := s.sharers (wid, m, t, code)
  ((∀ id va i v st c, t.kind ≠ .qput id va i v st c) → w.out = [] → more = [] →
    ∃ w', u.warp? wid = some w' ∧ Stand w' m e.prio e.pc .ready ∧ w'.stores = [] ∧ w'.refresh = u.seq ∧
      ∀ l < 32, hasLane m l = true → ∀ x ∈ t.results code, t.dst.plus x.1 ≠ .none → w'.held? l (t.dst.plus x.1) = x.2) ∧
  ((∀ l < 32, (w.frontier.filter (fun e => hasLane e.lanes l)).length ≤ 1) → (m, t, code) ∈ w.recorded → (∀ y ∈ more, y.2.2.1.looksAgain y.2.2.2 = false) →
    ∃ w', u.warp? wid = some w' ∧ ∀ y ∈ (wid, m, t, code) :: more, ∀ e, w.entryOf (lowest y.2.1) = some e → y.2.1 ≠ 0 → Stand w' y.2.1 e.prio e.pc .ready)

/-- R4, R46, R381: every step answers a next state, and so does every instruction that a resident warp issues and every event: nothing stops the machine. The model's choice: log 51: an instruction needs a warp that issues it. -/
def Obligations.NothingStops : Prop := (∀ s : State, ∃ t, step s = .next t) ∧
  ∀ (i : Instr) (s : State), (encode i = [] ∨ ∃ c w, s.cur = some c ∧ s.warp? c.wid = some w) → ∃ t, exec i s = .next t

/-- R166, R174: memory stays in its canonical form in every step, from every state that has it. The model's choice: log 1: the form in which the model keeps memory. -/
def Obligations.MemoryStaysCanonical : Prop := ∀ (s t : State), Safety.memoryOk s = true → step s = .next t → Safety.memoryOk t = true

/-- R220, R225: the machine's tables of resident warps and of registrations keep their form in every step: one entry a key, in rising order. The model's choice: log 1: tables in one canonical form. -/
def Obligations.TablesStaySorted : Prop := ∀ (s t : State), Table.sortedFrom 0 s.warps = true → Table.sortedFrom 0 s.regs = true → step s = .next t →
  Table.sortedFrom 0 t.warps = true ∧ Table.sortedFrom 0 t.regs = true

/-- R406, R409, R412: right after reset memory and the tables are in their canonical form, bring-up is at stage 0 and not ready, nothing is resident, and no region entry lets the non-secure world reach memory. The model's choice: log 1: memory; log 6: reset values. -/
def Obligations.ResetState : Prop := Safety.memoryOk State.reset = true ∧ Table.sortedFrom 0 State.reset.warps = true ∧ Table.sortedFrom 0 State.reset.regs = true ∧ State.reset.boot.stage = 0 ∧ State.reset.boot.ready = false ∧ State.reset.boot.failed = false ∧ State.reset.warps = [] ∧
  State.reset.launches = [] ∧ State.reset.ctxs = [] ∧ ∀ pa, State.reset.regionAllows false pa = false
end

