-- ==== Sys2Proof/Laws/Exec.lean ====
section
/-! SUPPORT. The meaning of each instruction by name: what `exec` does with each constructor of `Instr`. -/

namespace Sys2Proof.Machine

theorem exec_add {s : State} {r} : exec (.add r) s = execAdd r s := rfl
theorem exec_sub {s : State} {r} : exec (.sub r) s = execSub r s := rfl
theorem exec_mul {s : State} {r} : exec (.mul r) s = execMul r s := rfl
theorem exec_mulh {s : State} {r} : exec (.mulh r) s = execMulh r s := rfl
theorem exec_mulhU {s : State} {r} : exec (.mulhU r) s = execMulhU r s := rfl
theorem exec_mad {s : State} {r} : exec (.mad r) s = execMad r s := rfl
theorem exec_div {s : State} {r} : exec (.div r) s = execDiv r s := rfl
theorem exec_divU {s : State} {r} : exec (.divU r) s = execDivU r s := rfl
theorem exec_mod {s : State} {r} : exec (.mod r) s = execMod r s := rfl
theorem exec_modU {s : State} {r} : exec (.modU r) s = execModU r s := rfl
theorem exec_min {s : State} {r} : exec (.min r) s = execMin r s := rfl
theorem exec_minU {s : State} {r} : exec (.minU r) s = execMinU r s := rfl
theorem exec_max {s : State} {r} : exec (.max r) s = execMax r s := rfl
theorem exec_maxU {s : State} {r} : exec (.maxU r) s = execMaxU r s := rfl
theorem exec_abs {s : State} {r} : exec (.abs r) s = execAbs r s := rfl
theorem exec_neg {s : State} {r} : exec (.neg r) s = execNeg r s := rfl
theorem exec_and {s : State} {r} : exec (.and r) s = execAnd r s := rfl
theorem exec_or {s : State} {r} : exec (.or r) s = execOr r s := rfl
theorem exec_xor {s : State} {r} : exec (.xor r) s = execXor r s := rfl
theorem exec_not {s : State} {r} : exec (.not r) s = execNot r s := rfl
theorem exec_shl {s : State} {r} : exec (.shl r) s = execShl r s := rfl
theorem exec_shr {s : State} {r} : exec (.shr r) s = execShr r s := rfl
theorem exec_sra {s : State} {r} : exec (.sra r) s = execSra r s := rfl
theorem exec_bfx {s : State} {r} : exec (.bfx r) s = execBfx r s := rfl
theorem exec_bfi {s : State} {r} : exec (.bfi r) s = execBfi r s := rfl
theorem exec_popc {s : State} {r} : exec (.popc r) s = execPopc r s := rfl
theorem exec_clz {s : State} {r} : exec (.clz r) s = execClz r s := rfl
theorem exec_brev {s : State} {r} : exec (.brev r) s = execBrev r s := rfl
theorem exec_lea {s : State} {r} : exec (.lea r) s = execLea r s := rfl
theorem exec_addi {s : State} {x} : exec (.addi x) s = execAddi x s := rfl
theorem exec_andi {s : State} {x} : exec (.andi x) s = execAndi x s := rfl
theorem exec_ori {s : State} {x} : exec (.ori x) s = execOri x s := rfl
theorem exec_xori {s : State} {x} : exec (.xori x) s = execXori x s := rfl
theorem exec_shli {s : State} {x} : exec (.shli x) s = execShli x s := rfl
theorem exec_lui {s : State} {x} : exec (.lui x) s = execLui x s := rfl
theorem exec_fadd {s : State} {r} : exec (.fadd r) s = execFadd r s := rfl
theorem exec_fsub {s : State} {r} : exec (.fsub r) s = execFsub r s := rfl
theorem exec_fmul {s : State} {r} : exec (.fmul r) s = execFmul r s := rfl
theorem exec_ffma {s : State} {r} : exec (.ffma r) s = execFfma r s := rfl
theorem exec_fmin {s : State} {r} : exec (.fmin r) s = execFmin r s := rfl
theorem exec_fmax {s : State} {r} : exec (.fmax r) s = execFmax r s := rfl
theorem exec_fcmp {s : State} {r} : exec (.fcmp r) s = execFcmp r s := rfl
theorem exec_fsel {s : State} {r} : exec (.fsel r) s = execFsel r s := rfl
theorem exec_frnd {s : State} {r} : exec (.frnd r) s = execFrnd r s := rfl
theorem exec_fclass {s : State} {r} : exec (.fclass r) s = execFclass r s := rfl
theorem exec_frcp {s : State} {r} : exec (.frcp r) s = execFrcp r s := rfl
theorem exec_frsq {s : State} {r} : exec (.frsq r) s = execFrsq r s := rfl
theorem exec_fsqrt {s : State} {r} : exec (.fsqrt r) s = execFsqrt r s := rfl
theorem exec_fex2 {s : State} {r} : exec (.fex2 r) s = execFex2 r s := rfl
theorem exec_flg2 {s : State} {r} : exec (.flg2 r) s = execFlg2 r s := rfl
theorem exec_fsin {s : State} {r} : exec (.fsin r) s = execFsin r s := rfl
theorem exec_fcos {s : State} {r} : exec (.fcos r) s = execFcos r s := rfl
theorem exec_dadd {s : State} {r} : exec (.dadd r) s = execDadd r s := rfl
theorem exec_dmul {s : State} {r} : exec (.dmul r) s = execDmul r s := rfl
theorem exec_dfma {s : State} {r} : exec (.dfma r) s = execDfma r s := rfl
theorem exec_cvt {s : State} {r} : exec (.cvt r) s = execCvt r s := rfl
theorem exec_cvtn {s : State} {r} : exec (.cvtn r) s = execCvtn r s := rfl
theorem exec_amax {s : State} {r} : exec (.amax r) s = execAmax r s := rfl
theorem exec_scaleq {s : State} {r} : exec (.scaleq r) s = execScaleq r s := rfl
theorem exec_pack {s : State} {r} : exec (.pack r) s = execPack r s := rfl
theorem exec_unpack {s : State} {r} : exec (.unpack r) s = execUnpack r s := rfl
theorem exec_cmpset {s : State} {r} : exec (.cmpset r) s = execCmpset r s := rfl
theorem exec_shfl {s : State} {r} : exec (.shfl r) s = execShfl r s := rfl
theorem exec_vote {s : State} {r} : exec (.vote r) s = execVote r s := rfl
theorem exec_redw {s : State} {r} : exec (.redw r) s = execRedw r s := rfl
theorem exec_scanw {s : State} {r} : exec (.scanw r) s = execScanw r s := rfl
theorem exec_matchLanes {s : State} {r} : exec (.matchLanes r) s = execMatchLanes r s := rfl
theorem exec_kset {s : State} {k} : exec (.kset k) s = execKset k s := rfl
theorem exec_kmov {s : State} {k} : exec (.kmov k) s = execKmov k s := rfl
theorem exec_kpop {s : State} {k} : exec (.kpop k) s = execKpop k s := rfl
theorem exec_join {s : State} {k} : exec (.join k) s = execJoin k s := rfl
theorem exec_leave {s : State} {k} : exec (.leave k) s = execLeave k s := rfl
theorem exec_kwait {s : State} {k} : exec (.kwait k) s = execKwait k s := rfl
theorem exec_klogAnd {s : State} {k} : exec (.klogAnd k) s = execKlogAnd k s := rfl
theorem exec_klogOr {s : State} {k} : exec (.klogOr k) s = execKlogOr k s := rfl
theorem exec_klogXor {s : State} {k} : exec (.klogXor k) s = execKlogXor k s := rfl
theorem exec_klogAndn {s : State} {k} : exec (.klogAndn k) s = execKlogAndn k s := rfl
theorem exec_prio {s : State} {x} : exec (.prio x) s = execPrio x s := rfl
theorem exec_bra {s : State} {j} : exec (.bra j) s = execBra j s := rfl
theorem exec_brc {s : State} {c} : exec (.brc c) s = execBrc c s := rfl
theorem exec_jmpi {s : State} {r} : exec (.jmpi r) s = execJmpi r s := rfl
theorem exec_callw {s : State} {r} : exec (.callw r) s = execCallw r s := rfl
theorem exec_callk {s : State} {r} : exec (.callk r) s = execCallk r s := rfl
theorem exec_retw {s : State} {r} : exec (.retw r) s = execRetw r s := rfl
theorem exec_retwB {s : State} {r} : exec (.retwB r) s = execRetwB r s := rfl
theorem exec_retk {s : State} {r} : exec (.retk r) s = execRetk r s := rfl
theorem exec_exit {s : State} {r} : exec (.exit r) s = execExit r s := rfl
theorem exec_nop {s : State} {r} : exec (.nop r) s = execNop r s := rfl
theorem exec_yield {s : State} {r} : exec (.yield r) s = execYield r s := rfl
theorem exec_yieldExpiry {s : State} {wid} : exec (.yieldExpiry wid) s = execYieldExpiry wid s := rfl
theorem exec_wbase {s : State} {r} : exec (.wbase r) s = execWbase r s := rfl
theorem exec_ld {s : State} {m} : exec (.ld m) s = execLd m s := rfl
theorem exec_st {s : State} {m} : exec (.st m) s = execSt m s := rfl
theorem exec_bteBulkCopy {s : State} {wid} : exec (.bteBulkCopy wid) s = execBteBulkCopy wid s := rfl
theorem exec_ldt {s : State} {m} : exec (.ldt m) s = execLdt m s := rfl
theorem exec_lds {s : State} {m} : exec (.lds m) s = execLds m s := rfl
theorem exec_sts {s : State} {m} : exec (.sts m) s = execSts m s := rfl
theorem exec_atomAdd {s : State} {r} : exec (.atomAdd r) s = execAtomAdd r s := rfl
theorem exec_atomMinS {s : State} {r} : exec (.atomMinS r) s = execAtomMinS r s := rfl
theorem exec_atomMaxS {s : State} {r} : exec (.atomMaxS r) s = execAtomMaxS r s := rfl
theorem exec_atomMinU {s : State} {r} : exec (.atomMinU r) s = execAtomMinU r s := rfl
theorem exec_atomMaxU {s : State} {r} : exec (.atomMaxU r) s = execAtomMaxU r s := rfl
theorem exec_atomAnd {s : State} {r} : exec (.atomAnd r) s = execAtomAnd r s := rfl
theorem exec_atomOr {s : State} {r} : exec (.atomOr r) s = execAtomOr r s := rfl
theorem exec_atomXor {s : State} {r} : exec (.atomXor r) s = execAtomXor r s := rfl
theorem exec_atomExch {s : State} {r} : exec (.atomExch r) s = execAtomExch r s := rfl
theorem exec_atomCas {s : State} {r} : exec (.atomCas r) s = execAtomCas r s := rfl
theorem exec_atomAddF32 {s : State} {r} : exec (.atomAddF32 r) s = execAtomAddF32 r s := rfl
theorem exec_red {s : State} {op} {r} : exec (.red op r) s = execRed op r s := rfl
theorem exec_atomsAdd {s : State} {r} : exec (.atomsAdd r) s = execAtomsAdd r s := rfl
theorem exec_atomsMinS {s : State} {r} : exec (.atomsMinS r) s = execAtomsMinS r s := rfl
theorem exec_atomsMaxS {s : State} {r} : exec (.atomsMaxS r) s = execAtomsMaxS r s := rfl
theorem exec_atomsMinU {s : State} {r} : exec (.atomsMinU r) s = execAtomsMinU r s := rfl
theorem exec_atomsMaxU {s : State} {r} : exec (.atomsMaxU r) s = execAtomsMaxU r s := rfl
theorem exec_atomsAnd {s : State} {r} : exec (.atomsAnd r) s = execAtomsAnd r s := rfl
theorem exec_atomsOr {s : State} {r} : exec (.atomsOr r) s = execAtomsOr r s := rfl
theorem exec_atomsXor {s : State} {r} : exec (.atomsXor r) s = execAtomsXor r s := rfl
theorem exec_atomsExch {s : State} {r} : exec (.atomsExch r) s = execAtomsExch r s := rfl
theorem exec_atomsCas {s : State} {r} : exec (.atomsCas r) s = execAtomsCas r s := rfl
theorem exec_atomsAddF32 {s : State} {r} : exec (.atomsAddF32 r) s = execAtomsAddF32 r s := rfl
theorem exec_reds {s : State} {op} {r} : exec (.reds op r) s = execReds op r s := rfl
theorem exec_fpush {s : State} {r} : exec (.fpush r) s = execFpush r s := rfl
theorem exec_fpop {s : State} {r} : exec (.fpop r) s = execFpop r s := rfl
theorem exec_pref {s : State} {r} : exec (.pref r) s = execPref r s := rfl
theorem exec_chint {s : State} {r} : exec (.chint r) s = execChint r s := rfl
theorem exec_bankcfg {s : State} {r} : exec (.bankcfg r) s = execBankcfg r s := rfl
theorem exec_bankcfgComplete {s : State} {core} {bank} : exec (.bankcfgComplete core bank) s = execBankcfgComplete core bank s := rfl
theorem exec_phase {s : State} {r} : exec (.phase r) s = execPhase r s := rfl
theorem exec_fenceo {s : State} {r} : exec (.fenceo r) s = execFenceo r s := rfl
theorem exec_fencer {s : State} {r} : exec (.fencer r) s = execFencer r s := rfl
theorem exec_publish {s : State} {r} : exec (.publish r) s = execPublish r s := rfl
theorem exec_shadowset {s : State} {r} : exec (.shadowset r) s = execShadowset r s := rfl
theorem exec_shadowsetDel {s : State} {r} : exec (.shadowsetDel r) s = execShadowsetDel r s := rfl
theorem exec_ldc {s : State} {r} : exec (.ldc r) s = execLdc r s := rfl
theorem exec_waitu {s : State} {cmp} {r} : exec (.waitu cmp r) s = execWaitu cmp r s := rfl
theorem exec_waitl {s : State} {cmp} {r} : exec (.waitl cmp r) s = execWaitl cmp r s := rfl
theorem exec_pegRegistration {s : State} {id} : exec (.pegRegistration id) s = execPegRegistration id s := rfl
theorem exec_pegRetry {s : State} {id} : exec (.pegRetry id) s = execPegRetry id s := rfl
theorem exec_homeWrite {s : State} {wid} : exec (.homeWrite wid) s = execHomeWrite wid s := rfl
theorem exec_pegTimeout {s : State} {id} : exec (.pegTimeout id) s = execPegTimeout id s := rfl
theorem exec_barr {s : State} {r} : exec (.barr r) s = execBarr r s := rfl
theorem exec_bwait {s : State} {r} : exec (.bwait r) s = execBwait r s := rfl
theorem exec_bsetm {s : State} {r} : exec (.bsetm r) s = execBsetm r s := rfl
theorem exec_tspawn {s : State} {r} : exec (.tspawn r) s = execTspawn r s := rfl
theorem exec_trange {s : State} {r} : exec (.trange r) s = execTrange r s := rfl
theorem exec_tnext {s : State} {r} : exec (.tnext r) s = execTnext r s := rfl
theorem exec_tjoin {s : State} {r} : exec (.tjoin r) s = execTjoin r s := rfl
theorem exec_tend {s : State} {r} : exec (.tend r) s = execTend r s := rfl
theorem exec_tcancel {s : State} {r} : exec (.tcancel r) s = execTcancel r s := rfl
theorem exec_tself {s : State} {r} : exec (.tself r) s = execTself r s := rfl
theorem exec_fset {s : State} {r} : exec (.fset r) s = execFset r s := rfl
theorem exec_fwait {s : State} {r} : exec (.fwait r) s = execFwait r s := rfl
theorem exec_lockw {s : State} {r} : exec (.lockw r) s = execLockw r s := rfl
theorem exec_unlock {s : State} {r} : exec (.unlock r) s = execUnlock r s := rfl
theorem exec_qput {s : State} {r} : exec (.qput r) s = execQput r s := rfl
theorem exec_qputProm {s : State} {r} : exec (.qputProm r) s = execQputProm r s := rfl
theorem exec_qputFill {s : State} {r} : exec (.qputFill r) s = execQputFill r s := rfl
theorem exec_qtake {s : State} {r} : exec (.qtake r) s = execQtake r s := rfl
theorem exec_darnerPop {s : State} {core} {launch} : exec (.darnerPop core launch) s = execDarnerPop core launch s := rfl
theorem exec_stealRequest {s : State} {core} {launch} : exec (.stealRequest core launch) s = execStealRequest core launch s := rfl
theorem exec_stealWithdraw {s : State} {core} {launch} : exec (.stealWithdraw core launch) s = execStealWithdraw core launch s := rfl
theorem exec_darnerAccessFault {s : State} : exec (.darnerAccessFault) s = execDarnerAccessFault s := rfl
theorem exec_acp {s : State} {r} : exec (.acp r) s = execAcp r s := rfl
theorem exec_acpLand {s : State} {core} {idx} : exec (.acpLand core idx) s = execAcpLand core idx s := rfl
theorem exec_acpwait {s : State} {r} : exec (.acpwait r) s = execAcpwait r s := rfl
theorem exec_tplset {s : State} {r} : exec (.tplset r) s = execTplset r s := rfl
theorem exec_swinit {s : State} {r} : exec (.swinit r) s = execSwinit r s := rfl
theorem exec_syncw {s : State} {r} : exec (.syncw r) s = execSyncw r s := rfl
theorem exec_btestat {s : State} {r} : exec (.btestat r) s = execBtestat r s := rfl
theorem exec_btestatClr {s : State} {r} : exec (.btestatClr r) s = execBtestatClr r s := rfl
theorem exec_bteRowLand {s : State} {core} {chan} {row} : exec (.bteRowLand core chan row) s = execBteRowLand core chan row s := rfl
theorem exec_gather {s : State} {r} : exec (.gather r) s = execGather r s := rfl
theorem exec_scatter {s : State} {r} : exec (.scatter r) s = execScatter r s := rfl
theorem exec_scatadd {s : State} {r} : exec (.scatadd r) s = execScatadd r s := rfl
theorem exec_gswait {s : State} {r} : exec (.gswait r) s = execGswait r s := rfl
theorem exec_gswaitDup {s : State} {r} : exec (.gswaitDup r) s = execGswaitDup r s := rfl
theorem exec_gswaitOut {s : State} {r} : exec (.gswaitOut r) s = execGswaitOut r s := rfl
theorem exec_seamRowRequest {s : State} {die} {cmd} {entry} : exec (.seamRowRequest die cmd entry) s = execSeamRowRequest die cmd entry s := rfl
theorem exec_seamEntryLand {s : State} {die} {cmd} {entry} : exec (.seamEntryLand die cmd entry) s = execSeamEntryLand die cmd entry s := rfl
theorem exec_tslice {s : State} {t} : exec (.tslice t) s = execTslice t s := rfl
theorem exec_tbind {s : State} {x} : exec (.tbind x) s = execTbind x s := rfl
theorem exec_tzero {s : State} {x} : exec (.tzero x) s = execTzero x s := rfl
theorem exec_mxlw {s : State} {x} : exec (.mxlw x) s = execMxlw x s := rfl
theorem exec_mxswap {s : State} {x} : exec (.mxswap x) s = execMxswap x s := rfl
theorem exec_mxmm {s : State} {x} : exec (.mxmm x) s = execMxmm x s := rfl
theorem exec_mxmms {s : State} {x} : exec (.mxmms x) s = execMxmms x s := rfl
theorem exec_mxep {s : State} {x} : exec (.mxep x) s = execMxep x s := rfl
theorem exec_mxsel {s : State} {x} : exec (.mxsel x) s = execMxsel x s := rfl
theorem exec_mxselRead {s : State} {x} : exec (.mxselRead x) s = execMxselRead x s := rfl
theorem exec_accld {s : State} {x} : exec (.accld x) s = execAccld x s := rfl
theorem exec_accst {s : State} {x} : exec (.accst x) s = execAccst x s := rfl
theorem exec_accz {s : State} {x} : exec (.accz x) s = execAccz x s := rfl
theorem exec_mxsave {s : State} {x} : exec (.mxsave x) s = execMxsave x s := rfl
theorem exec_mxload {s : State} {x} : exec (.mxload x) s = execMxload x s := rfl
theorem exec_pressCommandComplete {s : State} {core} : exec (.pressCommandComplete core) s = execPressCommandComplete core s := rfl
theorem exec_tpset {s : State} {k} : exec (.tpset k) s = execTpset k s := rfl
theorem exec_tplogAnd {s : State} {k} : exec (.tplogAnd k) s = execTplogAnd k s := rfl
theorem exec_tplogOr {s : State} {k} : exec (.tplogOr k) s = execTplogOr k s := rfl
theorem exec_tplogXor {s : State} {k} : exec (.tplogXor k) s = execTplogXor k s := rfl
theorem exec_tplogAndn {s : State} {k} : exec (.tplogAndn k) s = execTplogAndn k s := rfl
theorem exec_mxseq {s : State} {r} : exec (.mxseq r) s = execMxseq r s := rfl
theorem exec_mxwait {s : State} {r} : exec (.mxwait r) s = execMxwait r s := rfl
theorem exec_mxwaitOut {s : State} {r} : exec (.mxwaitOut r) s = execMxwaitOut r s := rfl
theorem exec_bmv {s : State} {r} : exec (.bmv r) s = execBmv r s := rfl
theorem exec_bfenceW {s : State} {r} : exec (.bfenceW r) s = execBfenceW r s := rfl
theorem exec_bfenceR {s : State} {r} : exec (.bfenceR r) s = execBfenceR r s := rfl
theorem exec_bmwait {s : State} {r} : exec (.bmwait r) s = execBmwait r s := rfl
theorem exec_bmwaitAll {s : State} {r} : exec (.bmwaitAll r) s = execBmwaitAll r s := rfl
theorem exec_bmwaitSeq {s : State} {r} : exec (.bmwaitSeq r) s = execBmwaitSeq r s := rfl
theorem exec_bmwaitLast {s : State} {r} : exec (.bmwaitLast r) s = execBmwaitLast r s := rfl
theorem exec_bcuCommandComplete {s : State} {wid} : exec (.bcuCommandComplete wid) s = execBcuCommandComplete wid s := rfl
theorem exec_xres {s : State} {r} : exec (.xres r) s = execXres r s := rfl
theorem exec_xresRel {s : State} {r} : exec (.xresRel r) s = execXresRel r s := rfl
theorem exec_xhit {s : State} {r} : exec (.xhit r) s = execXhit r s := rfl
theorem exec_xage {s : State} {r} : exec (.xage r) s = execXage r s := rfl
theorem exec_xageNow {s : State} {r} : exec (.xageNow r) s = execXageNow r s := rfl
theorem exec_xquery {s : State} {r} : exec (.xquery r) s = execXquery r s := rfl
theorem exec_hamperStagingComplete {s : State} {idx} : exec (.hamperStagingComplete idx) s = execHamperStagingComplete idx s := rfl
theorem exec_hamperAgeingStep {s : State} {asid} : exec (.hamperAgeingStep asid) s = execHamperAgeingStep asid s := rfl
theorem exec_trap {s : State} {r} : exec (.trap r) s = execTrap r s := rfl
theorem exec_tret {s : State} {r} : exec (.tret r) s = execTret r s := rfl
theorem exec_tretSkip {s : State} {r} : exec (.tretSkip r) s = execTretSkip r s := rfl
theorem exec_rdctl {s : State} {r} : exec (.rdctl r) s = execRdctl r s := rfl
theorem exec_wrctl {s : State} {r} : exec (.wrctl r) s = execWrctl r s := rfl
theorem exec_ctxsave {s : State} {r} : exec (.ctxsave r) s = execCtxsave r s := rfl
theorem exec_ctxload {s : State} {r} : exec (.ctxload r) s = execCtxload r s := rfl
theorem exec_ctxloadRearm {s : State} {r} : exec (.ctxloadRearm r) s = execCtxloadRearm r s := rfl
theorem exec_tlbinv {s : State} {r} : exec (.tlbinv r) s = execTlbinv r s := rfl
theorem exec_smcVersion {s : State} {r} : exec (.smcVersion r) s = execSmcVersion r s := rfl
theorem exec_smcAttest {s : State} {r} : exec (.smcAttest r) s = execSmcAttest r s := rfl
theorem exec_smcLoadKeySlot {s : State} {r} : exec (.smcLoadKeySlot r) s = execSmcLoadKeySlot r s := rfl
theorem exec_smcSetRegionEntry {s : State} {r} : exec (.smcSetRegionEntry r) s = execSmcSetRegionEntry r s := rfl
theorem exec_smcReadErrorCounters {s : State} {r} : exec (.smcReadErrorCounters r) s = execSmcReadErrorCounters r s := rfl
theorem exec_smcPowerState {s : State} {r} : exec (.smcPowerState r) s = execSmcPowerState r s := rfl
theorem exec_smcSnapshot {s : State} {r} : exec (.smcSnapshot r) s = execSmcSnapshot r s := rfl
theorem exec_smcBindFabricJob {s : State} {r} : exec (.smcBindFabricJob r) s = execSmcBindFabricJob r s := rfl
theorem exec_smcLoadSnapshot {s : State} {r} : exec (.smcLoadSnapshot r) s = execSmcLoadSnapshot r s := rfl
theorem exec_registerWritePerformed {s : State} {wid} {lane} {reg} : exec (.registerWritePerformed wid lane reg) s = execRegisterWritePerformed wid lane reg s := rfl
theorem exec_impreciseStoreFault {s : State} : exec (.impreciseStoreFault) s = execImpreciseStoreFault s := rfl
theorem exec_chunkClaim {s : State} {core} {launch} : exec (.chunkClaim core launch) s = execChunkClaim core launch s := rfl
theorem exec_warpEvictionSave {s : State} {wid} : exec (.warpEvictionSave wid) s = execWarpEvictionSave wid s := rfl
theorem exec_warpRestore {s : State} {wid} : exec (.warpRestore wid) s = execWarpRestore wid s := rfl
theorem exec_contextCreate {s : State} {asid} : exec (.contextCreate asid) s = execContextCreate asid s := rfl
theorem exec_cpServeEntry {s : State} {asid} {queue} : exec (.cpServeEntry asid queue) s = execCpServeEntry asid queue s := rfl
theorem exec_nodeKernel {s : State} {graph} : exec (.nodeKernel graph) s = execNodeKernel graph s := rfl
theorem exec_nodeTaskroot {s : State} {graph} : exec (.nodeTaskroot graph) s = execNodeTaskroot graph s := rfl
theorem exec_nodeCopy {s : State} {graph} : exec (.nodeCopy graph) s = execNodeCopy graph s := rfl
theorem exec_copyNodeComplete {s : State} {graph} : exec (.copyNodeComplete graph) s = execCopyNodeComplete graph s := rfl
theorem exec_nodeCond {s : State} {graph} : exec (.nodeCond graph) s = execNodeCond graph s := rfl
theorem exec_nodeLoop {s : State} {graph} : exec (.nodeLoop graph) s = execNodeLoop graph s := rfl
theorem exec_nodeWaitmem {s : State} {graph} : exec (.nodeWaitmem graph) s = execNodeWaitmem graph s := rfl
theorem exec_nodeSignal {s : State} {graph} : exec (.nodeSignal graph) s = execNodeSignal graph s := rfl
theorem exec_nodeEnd {s : State} {graph} : exec (.nodeEnd graph) s = execNodeEnd graph s := rfl
theorem exec_hostWrite {s : State} {pa} {data} : exec (.hostWrite pa data) s = execHostWrite pa data s := rfl
theorem exec_hostRead {s : State} {addr} : exec (.hostRead addr) s = execHostRead addr s := rfl
theorem exec_flitReceive {s : State} {link} {flit} : exec (.flitReceive link flit) s = execFlitReceive link flit s := rfl
theorem exec_linkHeartbeat {s : State} {link} : exec (.linkHeartbeat link) s = execLinkHeartbeat link s := rfl
theorem exec_moduleFailureDetect {s : State} {modId} : exec (.moduleFailureDetect modId) s = execModuleFailureDetect modId s := rfl
theorem exec_moduleReset {s : State} : exec (.moduleReset) s = execModuleReset s := rfl
theorem exec_bringupStage {s : State} {ok} {detail} : exec (.bringupStage ok detail) s = execBringupStage ok detail s := rfl
theorem exec_powerStateChange {s : State} {state} {mhz} {watts} : exec (.powerStateChange state mhz watts) s = execPowerStateChange state mhz watts s := rfl
theorem exec_warpWaitDeadline {s : State} {wid} : exec (.warpWaitDeadline wid) s = execWarpWaitDeadline wid s := rfl
theorem exec_pipeIntervalEnd {s : State} {core} {quarter} {pipe} : exec (.pipeIntervalEnd core quarter pipe) s = execPipeIntervalEnd core quarter pipe s := rfl

end Sys2Proof.Machine
end

