-- ==== Sys2Proof/Laws/Table.lean ====
section
/-! SUPPORT. Laws of sparse tables: what a read gives after each change, and that every change keeps the canonical form. -/

namespace Sys2Proof.Machine

/-! ### Reads after changes -/

@[simp] theorem Table.find?_nil {α : Type} (q : Nat) : Table.find? ([] : Table α) q = none := rfl

theorem Table.find?_cons {α : Type} (e : Nat × α) (t : Table α) (q : Nat) :
    Table.find? (e :: t) q = if q = e.1 then some e.2 else Table.find? t q := rfl

@[simp] theorem Table.find?_insert_self {α : Type} (t : Table α) (q : Nat) (v : α) : (t.insert q v).find? q = some v := by
  induction t with
  | nil => simp [Table.insert, Table.find?_cons]
  | cons e t ih =>
    obtain ⟨k, x⟩ := e
    unfold Table.insert
    split
    · simp [Table.find?_cons]
    · split
      · simp [Table.find?_cons]
      · rename_i h; simp [Table.find?_cons, h, ih]

theorem Table.find?_insert_ne {α : Type} (t : Table α) {q p : Nat} (v : α) (h : p ≠ q) : (t.insert q v).find? p = t.find? p := by
  induction t with
  | nil => simp [Table.insert, Table.find?_cons, h]
  | cons e t ih =>
    obtain ⟨k, x⟩ := e
    unfold Table.insert
    split
    · simp [Table.find?_cons, h]
    · split
      · rename_i hq; subst hq; simp [Table.find?_cons, h]
      · simp only [Table.find?_cons, ih]

theorem Table.find?_insert {α : Type} (t : Table α) (q p : Nat) (v : α) : (t.insert q v).find? p = if p = q then some v else t.find? p := by
  by_cases h : p = q
  · subst h; simp
  · simp [h, Table.find?_insert_ne]

@[simp] theorem Table.find?_erase_self {α : Type} (t : Table α) (q : Nat) : (t.erase q).find? q = none := by
  induction t with
  | nil => rfl
  | cons e t ih =>
    unfold Table.erase at ih ⊢
    by_cases h : e.1 = q
    · rw [List.filter_cons_of_neg (by simp [h])]; exact ih
    · rw [List.filter_cons_of_pos (by simp [h]), Table.find?_cons, if_neg (Ne.symm h)]; exact ih

theorem Table.find?_erase_ne {α : Type} (t : Table α) {q p : Nat} (h : p ≠ q) : (t.erase q).find? p = t.find? p := by
  induction t with
  | nil => rfl
  | cons e t ih =>
    unfold Table.erase at ih ⊢
    by_cases he : e.1 = q
    · rw [List.filter_cons_of_neg (by simp [he]), ih, Table.find?_cons, if_neg (by rw [he]; exact h)]
    · rw [List.filter_cons_of_pos (by simp [he]), Table.find?_cons, Table.find?_cons, ih]

@[simp] theorem Table.find?_modify_self {α : Type} (t : Table α) (q : Nat) (f : α → α) : (t.modify q f).find? q = (t.find? q).map f := by
  unfold Table.modify
  cases h : t.find? q with
  | none => simpa using h
  | some v => simp

theorem Table.find?_modify_ne {α : Type} (t : Table α) {q p : Nat} (f : α → α) (h : p ≠ q) : (t.modify q f).find? p = t.find? p := by
  unfold Table.modify
  cases t.find? q with
  | none => rfl
  | some v => exact Table.find?_insert_ne t (f v) h

/-- Two changes of one entry are one change. -/
theorem Table.insert_insert {α : Type} (t : Table α) (q : Nat) (u v : α) :
    Table.insert (Table.insert t q u) q v = Table.insert t q v := by
  induction t with
  | nil => simp [Table.insert]
  | cons e t ih =>
    obtain ⟨k, x⟩ := e
    rw [Table.insert, Table.insert]
    by_cases h1 : q < k
    · simp [h1, Table.insert]
    · by_cases h2 : q = k
      · simp [h2, Table.insert]
      · simp [h1, h2, Table.insert, ih]

theorem Table.modify_modify {α : Type} (t : Table α) (q : Nat) (f g : α → α) : (t.modify q f).modify q g = t.modify q (fun x => g (f x)) := by
  unfold Table.modify
  cases h : t.find? q with
  | none => simp [h]
  | some v => simp [Table.insert_insert]

/-- A mapped table keeps its keys. -/
theorem Table.find?_map {α β : Type} (t : Table α) (f : Nat → α → β) (q : Nat) :
    Table.find? (t.map (fun e => (e.1, f e.1 e.2))) q = (t.find? q).map (f q) := by
  induction t with
  | nil => rfl
  | cons e t ih =>
    simp only [List.map_cons, Table.find?_cons]
    split
    · rename_i h; simp [h]
    · exact ih

theorem Map.get_set_self {α : Type} [DecidableEq α] (d : α) (t : Table α) (q : Nat) (v : α) : Map.get d (Map.set d t q v) q = v := by
  unfold Map.get Map.set
  split <;> simp_all

theorem Map.get_set_ne {α : Type} [DecidableEq α] (d : α) (t : Table α) {q p : Nat} (v : α) (h : p ≠ q) :
    Map.get d (Map.set d t q v) p = Map.get d t p := by
  unfold Map.get Map.set
  split
  · rw [Table.find?_erase_ne t h]
  · rw [Table.find?_insert_ne t v h]

theorem Map.get_set {α : Type} [DecidableEq α] (d : α) (t : Table α) (q p : Nat) (v : α) :
    Map.get d (Map.set d t q v) p = if p = q then v else Map.get d t p := by
  by_cases h : p = q
  · subst h; simp [Map.get_set_self]
  · simp [h, Map.get_set_ne]

@[simp] theorem Map.get_nil {α : Type} (d : α) (q : Nat) : Map.get d [] q = d := rfl

/-! ### The canonical form -/

theorem Table.sortedFrom_mono {α : Type} {t : Table α} {lo hi : Nat} (h : lo ≤ hi) (ht : Table.sortedFrom hi t = true) :
    Table.sortedFrom lo t = true := by
  cases t with
  | nil => rfl
  | cons e t =>
    obtain ⟨k, x⟩ := e
    simp only [Table.sortedFrom, Bool.and_eq_true, decide_eq_true_eq] at ht ⊢
    exact ⟨le_trans h ht.1, ht.2⟩

theorem Table.sortedFrom_filter {α : Type} (t : Table α) (p : Nat × α → Bool) (lo : Nat) (ht : Table.sortedFrom lo t = true) :
    Table.sortedFrom lo (t.filter p) = true := by
  induction t generalizing lo with
  | nil => rfl
  | cons e t ih =>
    obtain ⟨k, x⟩ := e
    simp only [Table.sortedFrom, Bool.and_eq_true, decide_eq_true_eq] at ht
    by_cases hp : p (k, x) = true
    · simp only [hp, List.filter_cons_of_pos, Table.sortedFrom, Bool.and_eq_true, decide_eq_true_eq]
      exact ⟨ht.1, ih _ ht.2⟩
    · simp only [hp, Bool.false_eq_true, not_false_eq_true, List.filter_cons_of_neg]
      exact ih _ (Table.sortedFrom_mono (by omega) ht.2)

theorem Table.sortedFrom_insert {α : Type} (t : Table α) (q : Nat) (v : α) (lo : Nat) (hq : lo ≤ q) (ht : Table.sortedFrom lo t = true) :
    Table.sortedFrom lo (t.insert q v) = true := by
  induction t generalizing lo with
  | nil => simp [Table.insert, Table.sortedFrom, hq]
  | cons e t ih =>
    obtain ⟨k, x⟩ := e
    simp only [Table.sortedFrom, Bool.and_eq_true, decide_eq_true_eq] at ht
    unfold Table.insert
    split
    · rename_i h
      simp only [Table.sortedFrom, Bool.and_eq_true, decide_eq_true_eq]
      exact ⟨hq, by omega, ht.2⟩
    · split
      · rename_i h; subst h
        simp only [Table.sortedFrom, Bool.and_eq_true, decide_eq_true_eq]
        exact ht
      · simp only [Table.sortedFrom, Bool.and_eq_true, decide_eq_true_eq]
        exact ⟨ht.1, ih _ (by omega) ht.2⟩

theorem Table.mem_insert {α : Type} {t : Table α} {q : Nat} {v : α} {e : Nat × α} (h : e ∈ t.insert q v) : e = (q, v) ∨ e ∈ t := by
  induction t with
  | nil => simp [Table.insert] at h; simp [h]
  | cons x t ih =>
    obtain ⟨k, y⟩ := x
    unfold Table.insert at h
    split at h
    · simpa using h
    · split at h
      · simp only [List.mem_cons] at h ⊢; tauto
      · simp only [List.mem_cons] at h ⊢
        rcases h with h | h
        · simp [h]
        · rcases ih h with h | h <;> simp [h]

@[simp] theorem Map.wf_nil {α : Type} [DecidableEq α] (d : α) : Map.wf d [] = true := rfl

/-- Taking entries away keeps the canonical form. -/
theorem Map.wf_filter {α : Type} [DecidableEq α] (d : α) (t : Table α) (p : Nat × α → Bool) (h : Map.wf d t = true) :
    Map.wf d (t.filter p) = true := by
  unfold Map.wf at h ⊢
  simp only [Bool.and_eq_true, List.all_eq_true, decide_eq_true_eq] at h ⊢
  exact ⟨Table.sortedFrom_filter t p 0 h.1, fun e he => h.2 e (List.mem_of_mem_filter he)⟩

/-- A write keeps the canonical form. -/
theorem Map.wf_set {α : Type} [DecidableEq α] (d : α) (t : Table α) (q : Nat) (v : α) (h : Map.wf d t = true) :
    Map.wf d (Map.set d t q v) = true := by
  unfold Map.set
  split
  · exact Map.wf_filter d t _ h
  · rename_i hv
    unfold Map.wf at h ⊢
    simp only [Bool.and_eq_true, List.all_eq_true, decide_eq_true_eq] at h ⊢
    refine ⟨Table.sortedFrom_insert t q v 0 (Nat.zero_le q) h.1, fun e he => ?_⟩
    rcases Table.mem_insert he with rfl | he
    · exact hv
    · exact h.2 e he

/-- Taking a range away keeps the canonical form. -/
theorem Map.wf_eraseRange {α : Type} [DecidableEq α] (d : α) (t : Table α) (lo hi : Nat) (h : Map.wf d t = true) :
    Map.wf d (t.eraseRange lo hi) = true := Map.wf_filter d t _ h

/-- A run of writes keeps the canonical form. -/
theorem Map.wf_foldl_set {α β : Type} [DecidableEq α] (d : α) (key : β → Nat) (val : Table α → β → α) (l : List β) (t : Table α) (h : Map.wf d t = true) :
    Map.wf d (l.foldl (fun m b => Map.set d m (key b) (val m b)) t) = true := by
  induction l generalizing t with
  | nil => exact h
  | cons b l ih => exact ih _ (Map.wf_set d t (key b) (val t b) h)

end Sys2Proof.Machine
end

