-- ==== Sys2Proof/Laws/Warp.lean ====
section
/-! SUPPORT. Laws of a warp: lanes and masks, what a register holds after each write, where a lane stands after it is placed and the frontier is settled, and which parts of a warp each change leaves alone. -/

namespace Sys2Proof.Machine

/-! ### Lanes and masks -/

theorem mem_lanesOf {m : Mask} {l : Nat} : l ∈ lanesOf m ↔ l < 32 ∧ hasLane m l = true := by
  simp [lanesOf]

theorem lanesOf_nodup (m : Mask) : (lanesOf m).Nodup := List.nodup_range.filter _

theorem hasLane_lt {m : Mask} {l : Nat} (h : hasLane m l = true) : l < 32 := by
  unfold hasLane at h
  by_contra hl
  rw [BitVec.getLsbD_of_ge m l (by omega)] at h
  cases h

@[simp] theorem hasLane_zero (l : Nat) : hasLane 0#32 l = false := by simp [hasLane]

@[simp] theorem hasLane_and (a b : Mask) (l : Nat) : hasLane (a &&& b) l = (hasLane a l && hasLane b l) := by simp [hasLane]

@[simp] theorem hasLane_or (a b : Mask) (l : Nat) : hasLane (a ||| b) l = (hasLane a l || hasLane b l) := by simp [hasLane]

@[simp] theorem hasLane_xor (a b : Mask) (l : Nat) : hasLane (a ^^^ b) l = (hasLane a l != hasLane b l) := by simp [hasLane]

theorem hasLane_not (a : Mask) (l : Nat) : hasLane (~~~a) l = (decide (l < 32) && !hasLane a l) := by simp [hasLane]

theorem hasLane_andNot (a b : Mask) (l : Nat) : hasLane (a &&& ~~~b) l = (hasLane a l && !hasLane b l) := by
  rw [hasLane_and, hasLane_not]
  cases h : hasLane a l with
  | false => rfl
  | true => simp [hasLane_lt h]

theorem hasLane_laneBit (i l : Nat) : hasLane (laneBit i) l = (decide (l < 32) && decide (l = i)) := by
  unfold hasLane laneBit
  rw [BitVec.getLsbD_shiftLeft]
  by_cases h : l < 32
  · by_cases h2 : l < i
    · simp [h, h2]; omega
    · rcases Nat.lt_or_eq_of_le (Nat.le_of_not_lt h2) with h3 | h3
      · have h4 : ¬ l - i = 0 := by omega
        simp [h, h2, h4, Ne.symm (Nat.ne_of_lt h3)]
      · subst h3; simp [h]
  · simp [h]

theorem mask_eq_of_hasLane {a b : Mask} (h : ∀ l < 32, hasLane a l = hasLane b l) : a = b :=
  BitVec.eq_of_getLsbD_eq (fun i hi => h i hi)

theorem hasLane_of_ne_zero {m : Mask} (h : m ≠ 0) : ∃ l, l < 32 ∧ hasLane m l = true := by
  by_contra hc
  push Not at hc
  exact h (mask_eq_of_hasLane (fun l hl => by simpa [hasLane] using hc l hl))

theorem ne_zero_of_hasLane {m : Mask} {l : Nat} (h : hasLane m l = true) : m ≠ 0 := by
  rintro rfl; simp [hasLane] at h

theorem lanesOf_ne_nil {m : Mask} (h : m ≠ 0) : lanesOf m ≠ [] := by
  obtain ⟨l, hl, hm⟩ := hasLane_of_ne_zero h
  exact List.ne_nil_of_mem (mem_lanesOf.2 ⟨hl, hm⟩)

theorem lowest_mem {m : Mask} (h : m ≠ 0) : lowest m ∈ lanesOf m := by
  have := lanesOf_ne_nil h
  unfold lowest
  cases hl : lanesOf m with
  | nil => exact absurd hl this
  | cons a r => simp

/-- A set from a list of lanes has exactly those lanes. -/
theorem hasLane_maskOf (ls : List Nat) (l : Nat) : hasLane (maskOf ls) l = (decide (l < 32) && decide (l ∈ ls)) := by
  have key : ∀ (ls : List Nat) (m : Mask), hasLane (ls.foldl (fun m l => m ||| laneBit l) m) l = (hasLane m l || (decide (l < 32) && decide (l ∈ ls))) := by
    intro ls
    induction ls with
    | nil => intro m; simp
    | cons a r ih =>
      intro m
      rw [List.foldl_cons, ih, hasLane_or, hasLane_laneBit]
      by_cases h : l < 32 <;> by_cases h2 : l = a <;> simp [h, h2, List.mem_cons, -Bool.decide_or] <;> simp_all
  rw [maskOf, key]
  simp [hasLane]

/-- The lanes of a set give the set back. -/
theorem maskOf_lanesOf (m : Mask) : maskOf (lanesOf m) = m := by
  apply mask_eq_of_hasLane
  intro l hl
  rw [hasLane_maskOf]
  cases h : hasLane m l <;> simp [mem_lanesOf, h, hl]

/-! ### A lane's own state -/

theorem WarpCore.lane_modLane (w : WarpCore) (l i : Nat) (f : LaneState → LaneState) (hi : i < 32) :
    (w.modLane l f).lane i = if i = l then f (w.lane l) else w.lane i := by
  unfold WarpCore.modLane
  rw [WarpCore.lane]
  simp only [List.getElem?_map, List.getElem?_range hi, Option.map_some, Option.getD_some]
  by_cases h : i = l
  · subst h; simp
  · simp [h]

/-! ### What a register holds after a write (R40, R41, R47) -/

@[simp] theorem WarpCore.held?_none (w : WarpCore) (l : Nat) : w.held? l .none = 0 := rfl

theorem WarpCore.held?_putLoc_self (w : WarpCore) (l : Nat) (c : Loc) (v : Word) (hc : c ≠ .none) (hl : l < 32) :
    (w.putLoc l c v).held? l c = v := by
  cases c with
  | none => exact absurd rfl hc
  | thread n => simp [WarpCore.putLoc, WarpCore.held?, Map.get_set_self]
  | uni n => simp [WarpCore.putLoc, WarpCore.held?, Map.get_set_self]
  | fp => simp [WarpCore.putLoc, WarpCore.held?, WarpCore.lane_modLane _ _ _ _ hl]
  | sp => simp [WarpCore.putLoc, WarpCore.held?, WarpCore.lane_modLane _ _ _ _ hl]

theorem WarpCore.held?_putLoc_shared (w : WarpCore) (l i : Nat) (c : Loc) (v : Word) (hc : c.shared = true) :
    (w.putLoc l c v).held? i c = v := by
  cases c <;> simp [Loc.shared] at hc
  simp [WarpCore.putLoc, WarpCore.held?, Map.get_set_self]

theorem WarpCore.held?_putLoc_ne (w : WarpCore) (l i : Nat) (c p : Loc) (v : Word) (hl : l < 32) (hi : i < 32)
    (h : p ≠ c ∨ (c.shared = false ∧ i ≠ l)) : (w.putLoc l c v).held? i p = w.held? i p := by
  cases c with
  | none => rfl
  | thread n =>
    cases p with
    | thread k =>
      simp only [WarpCore.putLoc, WarpCore.held?]
      apply Map.get_set_ne
      rcases h with h | h
      · have : k ≠ n := fun e => h (by rw [e])
        omega
      · omega
    | none => rfl
    | uni k => rfl
    | fp => rfl
    | sp => rfl
  | uni n =>
    cases p with
    | uni k =>
      simp only [WarpCore.putLoc, WarpCore.held?]
      apply Map.get_set_ne
      rcases h with h | h
      · exact fun e => h (by rw [e])
      · simp [Loc.shared] at h
    | none => rfl
    | thread k => rfl
    | fp => rfl
    | sp => rfl
  | fp =>
    cases p with
    | fp =>
      rcases h with h | h
      · exact absurd rfl h
      · simp [WarpCore.putLoc, WarpCore.held?, WarpCore.lane_modLane _ _ _ _ hi, h.2]
    | sp =>
      simp only [WarpCore.putLoc, WarpCore.held?, WarpCore.lane_modLane _ _ _ _ hi]
      split
      · rename_i e; subst e; rfl
      · rfl
    | none => rfl
    | uni k => rfl
    | thread k => rfl
  | sp =>
    cases p with
    | sp =>
      rcases h with h | h
      · exact absurd rfl h
      · simp [WarpCore.putLoc, WarpCore.held?, WarpCore.lane_modLane _ _ _ _ hi, h.2]
    | fp =>
      simp only [WarpCore.putLoc, WarpCore.held?, WarpCore.lane_modLane _ _ _ _ hi]
      split
      · rename_i e; subst e; rfl
      · rfl
    | none => rfl
    | uni k => rfl
    | thread k => rfl

theorem WarpCore.SameButRegs.rfl' (w : WarpCore) : w.SameButRegs w := ⟨rfl, fun _ _ => rfl⟩

theorem WarpCore.SameButRegs.trans {a b c : WarpCore} (h1 : a.SameButRegs b) (h2 : b.SameButRegs c) : a.SameButRegs c := by
  refine ⟨?_, fun l hl => ?_⟩
  · have := h2.1
    have h3 := h1.1
    rw [← this] at h3
    exact h3
  · have e2 := h2.2 l hl
    have e1 := h1.2 l hl
    rw [← e2] at e1
    exact e1

theorem WarpCore.sameButRegs_putLoc (w : WarpCore) (l : Nat) (c : Loc) (v : Word) : w.SameButRegs (w.putLoc l c v) := by
  cases c with
  | none => exact .rfl' w
  | thread n => exact ⟨rfl, fun _ _ => rfl⟩
  | uni n => exact ⟨rfl, fun _ _ => rfl⟩
  | fp =>
    refine ⟨rfl, fun i hi => ?_⟩
    simp only [WarpCore.putLoc, WarpCore.lane_modLane _ _ _ _ hi]
    split
    · rename_i h; subst h; rfl
    · rfl
  | sp =>
    refine ⟨rfl, fun i hi => ?_⟩
    simp only [WarpCore.putLoc, WarpCore.lane_modLane _ _ _ _ hi]
    split
    · rename_i h; subst h; rfl
    · rfl

/-- The register write of one lane. -/
theorem WarpCore.writeLoc_spec (s : State) (w : WarpCore) (l : Nat) (c : Loc) (v : Word) (hl : l < 32) :
    w.SameButRegs (w.writeLoc s l c v) ∧ (c ≠ .none → Landed w (w.writeLoc s l c v) l c v) ∧
      (∀ i < 32, ∀ p, (p ≠ c ∨ (c.shared = false ∧ i ≠ l)) → (w.writeLoc s l c v).held? i p = w.held? i p) ∧
      (∀ i p, (p ≠ c ∨ (c.shared = false ∧ i ≠ l)) → (w.writeLoc s l c v).stale i p = w.stale i p) := by
  have general : ∀ (kept lost : Word), kept = v ∨ (w.stale l c ≠ [] ∧ kept = w.held? l c) → c ≠ .none →
      let w' : WarpCore := { w.putLoc l c kept with out := (w.putLoc l c kept).out ++ [{ lane := l, loc := c, old := lost, due := s.writeDue }] }
      w.SameButRegs w' ∧ (c ≠ .none → Landed w w' l c v) ∧
        (∀ i < 32, ∀ p, (p ≠ c ∨ (c.shared = false ∧ i ≠ l)) → w'.held? i p = w.held? i p) ∧
        (∀ i p, (p ≠ c ∨ (c.shared = false ∧ i ≠ l)) → w'.stale i p = w.stale i p) := by
    intro kept lost hk hc w'
    have hh : ∀ i p, w'.held? i p = (w.putLoc l c kept).held? i p := by
      intro i p; cases p <;> rfl
    have hs := w.sameButRegs_putLoc l c kept
    have hout : (w.putLoc l c kept).out = w.out := by cases c <;> rfl
    refine ⟨⟨hs.1, hs.2⟩, fun _ => ?_, fun i hi p hp => ?_, fun i p hp => ?_⟩
    · unfold Landed
      rw [hh, w.held?_putLoc_self l c kept hc hl]
      exact hk
    · rw [hh]; exact w.held?_putLoc_ne l i c p kept hl hi hp
    · rcases hp with hp | hp
      · cases p <;> simp [WarpCore.stale, w', hout, Ne.symm hp]
      · cases p with
        | none => rfl
        | uni n =>
          have : c ≠ .uni n := by rintro rfl; simp [Loc.shared] at hp
          simp [WarpCore.stale, w', hout, this]
        | thread n => simp [WarpCore.stale, w', hout, Ne.symm hp.2]
        | fp => simp [WarpCore.stale, w', hout, Ne.symm hp.2]
        | sp => simp [WarpCore.stale, w', hout, Ne.symm hp.2]
  by_cases hc : c = .none
  · subst hc
    refine ⟨⟨rfl, fun _ _ => rfl⟩, fun h => absurd rfl h, fun i _ p _ => ?_, fun i p hp => ?_⟩
    · cases p <;> rfl
    · cases p <;> simp [WarpCore.writeLoc, WarpCore.stale]
  · have key : ∃ kept lost, (kept = v ∨ (w.stale l c ≠ [] ∧ kept = w.held? l c)) ∧
        w.writeLoc s l c v = { w.putLoc l c kept with out := (w.putLoc l c kept).out ++ [{ lane := l, loc := c, old := lost, due := s.writeDue }] } := by
      have hw : w.writeLoc s l c v =
          (let cur := w.held? l c
           let twice := !(w.stale l c).isEmpty
           let kl : Word × Word := if twice && decide (s.pick [6, w.wid, l, c.code] 2 = 1) then (cur, v) else (v, cur)
           { w.putLoc l c kl.1 with out := (w.putLoc l c kl.1).out ++ [{ lane := l, loc := c, old := kl.2, due := s.writeDue }] }) := by
        cases c <;> first | exact absurd rfl hc | rfl
      by_cases ht : ((!(w.stale l c).isEmpty) && decide (s.pick [6, w.wid, l, c.code] 2 = 1)) = true
      · refine ⟨w.held? l c, v, .inr ⟨?_, rfl⟩, ?_⟩
        · intro he; simp [he] at ht
        · rw [hw]; simp only [ht, if_true]
      · exact ⟨v, w.held? l c, .inl rfl, by rw [hw]; simp only [ht]; rfl⟩
    obtain ⟨kept, lost, hk, e⟩ := key
    rw [e]
    exact general kept lost hk hc

/-- A run of writes of one place, one for each lane of a list. -/
theorem WarpCore.foldl_writeLoc_spec (s : State) (c : Loc) (hc : c.shared = false) (vals : List (Nat × Word)) (w : WarpCore)
    (hnd : (vals.map (·.1)).Nodup) (h32 : ∀ v ∈ vals, v.1 < 32) :
    let w' := vals.foldl (fun w v => w.writeLoc s v.1 c v.2) w
    w.SameButRegs w' ∧ (c ≠ .none → ∀ v ∈ vals, Landed w w' v.1 c v.2) ∧
      (∀ i < 32, ∀ p, (p ≠ c ∨ i ∉ vals.map (·.1)) → w'.held? i p = w.held? i p) ∧ (∀ i p, p ≠ c → w'.stale i p = w.stale i p) := by
  induction vals generalizing w with
  | nil => exact ⟨.rfl' w, fun _ v hv => by simp at hv, fun _ _ _ _ => rfl, fun _ _ _ => rfl⟩
  | cons a r ih =>
    intro w'
    have ha : a.1 < 32 := h32 a (by simp)
    obtain ⟨hs, hl, ho, hst⟩ := w.writeLoc_spec s a.1 c a.2 ha
    simp only [List.map_cons, List.nodup_cons] at hnd
    obtain ⟨ihs, ihl, iho, iht⟩ := ih (w.writeLoc s a.1 c a.2) hnd.2 (fun v hv => h32 v (by simp [hv]))
    have same : ∀ i, i ≠ a.1 → ((w.writeLoc s a.1 c a.2).stale i c = w.stale i c) := fun i hi => hst i c (.inr ⟨hc, hi⟩)
    refine ⟨hs.trans ihs, fun hn v hv => ?_, fun i hi p hp => ?_, fun i p hp => (iht i p hp).trans (hst i p (.inl hp))⟩
    · rcases List.mem_cons.1 hv with rfl | hv
      · unfold Landed
        rw [show w'.held? v.1 c = (w.writeLoc s v.1 c v.2).held? v.1 c from iho v.1 ha c (.inr hnd.1)]
        exact hl hn
      · have hne : v.1 ≠ a.1 := fun e => hnd.1 (e ▸ List.mem_map_of_mem hv)
        have := ihl hn v hv
        unfold Landed at this ⊢
        rw [same v.1 hne, ho v.1 (h32 v (by simp [hv])) c (.inr ⟨hc, hne⟩)] at this
        exact this
    · have h1 : w'.held? i p = (w.writeLoc s a.1 c a.2).held? i p := by
        refine iho i hi p ?_
        rcases hp with h | h
        · exact .inl h
        · exact .inr (fun hm => h (by simp [List.mem_cons, List.map_cons, hm]))
      rw [h1]
      refine ho i hi p ?_
      rcases hp with h | h
      · exact .inl h
      · exact .inr ⟨hc, fun e => h (by simp [e])⟩

/-- One value for each lane of a list, into one place (R47). -/
theorem WarpCore.writeLanes_spec (s : State) (c : Loc) (vals : List (Nat × Word)) (w : WarpCore)
    (hnd : (vals.map (·.1)).Nodup) (h32 : ∀ v ∈ vals, v.1 < 32) :
    let w' := w.writeLanes s c vals
    w.SameButRegs w' ∧ (c ≠ .none → c.shared = false → ∀ v ∈ vals, Landed w w' v.1 c v.2) ∧
      (c.shared = true → ∀ v r, vals = v :: r → ∀ i, Landed w w' i c v.2) ∧
      (∀ i < 32, ∀ p, (p ≠ c ∨ (c.shared = false ∧ i ∉ vals.map (·.1))) → w'.held? i p = w.held? i p) ∧
      (∀ i p, p ≠ c → w'.stale i p = w.stale i p) := by
  intro w'
  by_cases hc : c.shared = true
  · cases c <;> simp [Loc.shared] at hc
    rename_i n
    cases vals with
    | nil => exact ⟨.rfl' w, fun _ h => by simp [Loc.shared] at h, fun _ v r h => by simp at h, fun _ _ _ _ => rfl, fun _ _ _ => rfl⟩
    | cons v r =>
      have hv : v.1 < 32 := h32 v (by simp)
      obtain ⟨hs, hl, ho, ht⟩ := w.writeLoc_spec s v.1 (.uni n) v.2 hv
      refine ⟨hs, fun _ h => by simp [Loc.shared] at h, fun _ u q e i => ?_, fun i hi p hp => ?_, fun i p hp => ht i p (.inl hp)⟩
      · obtain ⟨rfl, rfl⟩ := List.cons.inj e
        have := hl (by simp)
        exact this
      · exact ho i hi p (by rcases hp with h | h; exact .inl h; simp [Loc.shared] at h)
  · have hc : c.shared = false := by simpa using hc
    have e : w' = vals.foldl (fun w v => w.writeLoc s v.1 c v.2) w := by
      cases c <;> first | rfl | simp [Loc.shared] at hc
    obtain ⟨hs, hl, ho, ht⟩ := WarpCore.foldl_writeLoc_spec s c hc vals w hnd h32
    rw [e]
    exact ⟨hs, fun hn _ => hl hn, fun h => by simp [hc] at h, fun i hi p hp => ho i hi p (hp.imp id (·.2)), ht⟩

/-! ### Where lanes stand (R60 to R65) -/

theorem hasLane_takeLanes {m : Mask} {fr : List Entry} {e : Entry} {l : Nat} (he : e ∈ takeLanes m fr) (hl : hasLane e.lanes l = true) :
    hasLane m l = false := by
  simp only [takeLanes, List.mem_filter, List.mem_map] at he
  obtain ⟨⟨x, hx, rfl⟩, _⟩ := he
  simp only [hasLane_andNot, Bool.and_eq_true, Bool.not_eq_true'] at hl
  exact hl.2

theorem WarpCore.place_entry_or_taken {w : WarpCore} {m : Mask} {prio pc : Nat} {st : EState} {e : Entry} {l : Nat}
    (he : e ∈ (w.place m prio pc st).frontier) (hl : hasLane e.lanes l = true) (hm : hasLane m l = true) :
    e.prio = prio ∧ e.pc = pc ∧ e.state = st := by
  simp only [WarpCore.place, List.mem_append] at he
  rcases he with h | h
  · rw [hasLane_takeLanes h hl] at hm; cases hm
  · split at h
    · simp at h
    · simp only [List.mem_singleton] at h
      subst h; exact ⟨rfl, rfl, rfl⟩

theorem WarpCore.place_has {w : WarpCore} {m : Mask} {prio pc : Nat} {st : EState} {l : Nat} (hm : hasLane m l = true) :
    ∃ e ∈ (w.place m prio pc st).frontier, hasLane e.lanes l = true := by
  refine ⟨{ prio := prio, pc := pc, lanes := m, state := st }, ?_, hm⟩
  have h0 : ¬ m = 0#32 := ne_zero_of_hasLane hm
  simp [WarpCore.place, h0]

/-- What a lane's entries have in common, apart from their lanes. -/
def AllEntries (P : Nat → Nat → EState → Prop) (l : Nat) (fr : List Entry) : Prop :=
  ∀ e ∈ fr, hasLane e.lanes l = true → P e.prio e.pc e.state

theorem AllEntries.addEntry {P : Nat → Nat → EState → Prop} {l : Nat} {fr : List Entry} {e : Entry} (h : AllEntries P l fr)
    (he : hasLane e.lanes l = true → P e.prio e.pc e.state) : AllEntries P l (addEntry e fr) := by
  induction fr with
  | nil =>
    intro x hx hl
    unfold Machine.addEntry at hx
    split at hx
    · simp at hx
    · simp only [List.mem_singleton] at hx
      subst hx; exact he hl
  | cons y r ih =>
    intro x hx hl
    unfold Machine.addEntry at hx
    split at hx
    · exact h x hx hl
    · split at hx
      · rename_i hm
        simp only [Bool.and_eq_true, decide_eq_true_eq] at hm
        rcases List.mem_cons.1 hx with rfl | hx
        · simp only [hasLane_or, Bool.or_eq_true] at hl
          rcases hl with hl | hl
          · exact h y (by simp) hl
          · have := he hl
            have e1 : e.state = .ready := by
              have := hm.1.1.1; unfold Entry.isReady at this; split at this <;> simp_all
            have e2 : y.state = .ready := by
              have := hm.1.1.2; unfold Entry.isReady at this; split at this <;> simp_all
            rw [hm.1.2, hm.2, e1] at this
            simpa [e2] using this
        · exact h x (by simp [hx]) hl
      · rcases List.mem_cons.1 hx with rfl | hx
        · exact h x (by simp) hl
        · exact ih (fun z hz => h z (by simp [hz])) x hx hl

theorem addEntry_has {l : Nat} {fr : List Entry} {e : Entry}
    (h : hasLane e.lanes l = true ∨ ∃ x ∈ fr, hasLane x.lanes l = true) : ∃ x ∈ addEntry e fr, hasLane x.lanes l = true := by
  induction fr with
  | nil =>
    rcases h with h | ⟨x, hx, _⟩
    · have h0 : ¬ e.lanes = 0#32 := ne_zero_of_hasLane h
      exact ⟨e, by simp [Machine.addEntry, h0], h⟩
    · simp at hx
  | cons y r ih =>
    unfold Machine.addEntry
    split
    · rename_i h0
      rcases h with h | h
      · exact absurd h0 (ne_zero_of_hasLane h)
      · exact h
    · split
      · rcases h with h | ⟨x, hx, hl⟩
        · exact ⟨{ y with lanes := y.lanes ||| e.lanes }, by simp, by simp [h]⟩
        · rcases List.mem_cons.1 hx with rfl | hx
          · exact ⟨{ x with lanes := x.lanes ||| e.lanes }, by simp, by simp [hl]⟩
          · exact ⟨x, by simp [hx], hl⟩
      · rcases h with h | ⟨x, hx, hl⟩
        · obtain ⟨x, hx, hl⟩ := ih (.inl h)
          exact ⟨x, by simp [hx], hl⟩
        · rcases List.mem_cons.1 hx with rfl | hx
          · exact ⟨x, by simp, hl⟩
          · obtain ⟨x, hx, hl⟩ := ih (.inr ⟨x, hx, hl⟩)
            exact ⟨x, by simp [hx], hl⟩

theorem AllEntries.mergeFrontier {P : Nat → Nat → EState → Prop} {l : Nat} {fr : List Entry} (h : AllEntries P l fr) :
    AllEntries P l (mergeFrontier fr) := by
  have key : ∀ (fr acc : List Entry), AllEntries P l fr → AllEntries P l acc → AllEntries P l (fr.foldl (fun acc e => Machine.addEntry e acc) acc) := by
    intro fr
    induction fr with
    | nil => exact fun _ _ h => h
    | cons e r ih => exact fun acc hf ha => ih _ (fun x hx => hf x (by simp [hx])) (ha.addEntry (hf e (by simp)))
  exact key fr [] h (fun _ hx => by simp at hx)

theorem mergeFrontier_has {l : Nat} {fr : List Entry} (h : ∃ x ∈ fr, hasLane x.lanes l = true) :
    ∃ x ∈ mergeFrontier fr, hasLane x.lanes l = true := by
  have key : ∀ (fr acc : List Entry), ((∃ x ∈ fr, hasLane x.lanes l = true) ∨ ∃ x ∈ acc, hasLane x.lanes l = true) →
      ∃ x ∈ fr.foldl (fun acc e => Machine.addEntry e acc) acc, hasLane x.lanes l = true := by
    intro fr
    induction fr with
    | nil => intro acc h; rcases h with ⟨x, hx, _⟩ | h; simp at hx; exact h
    | cons e r ih =>
      intro acc h
      refine ih _ ?_
      rcases h with ⟨x, hx, hl⟩ | h
      · rcases List.mem_cons.1 hx with rfl | hx
        · exact .inr (addEntry_has (.inl hl))
        · exact .inl ⟨x, hx, hl⟩
      · exact .inr (addEntry_has (.inr h))
  exact key fr [] (.inl h)

/-- A property of places that a KWAIT release keeps. -/
def ReleaseOk (P : Nat → Nat → EState → Prop) : Prop := ∀ p c k, P p c (.kwait k) → P p c .ready

theorem AllEntries.releaseOn {P : Nat → Nat → EState → Prop} {l n : Nat} {fr : List Entry} {t k : Mask} (hP : ReleaseOk P)
    (h : AllEntries P l fr) : AllEntries P l (releaseOn t k n fr) := by
  unfold Machine.releaseOn
  split
  · intro x hx hl
    simp only [List.mem_map] at hx
    obtain ⟨e, he, rfl⟩ := hx
    cases hst : e.state with
    | kwait m =>
      simp only [hst] at hl ⊢
      have hp : hasLane e.lanes l = true → P e.prio e.pc (.kwait m) := fun hl => hst ▸ h e he hl
      by_cases hm : m = n
      · rw [if_pos hm] at hl ⊢; exact hP _ _ _ (hp hl)
      · rw [if_neg hm] at hl ⊢; exact h e he hl
    | ready => simp only [hst] at hl ⊢; exact hst ▸ h e he hl
    | wait b t => simp only [hst] at hl ⊢; exact hst ▸ h e he hl
    | callpark => simp only [hst] at hl ⊢; exact hst ▸ h e he hl
    | trapped k => simp only [hst] at hl ⊢; exact hst ▸ h e he hl
  · exact h

theorem releaseOn_has {l n : Nat} {fr : List Entry} {t k : Mask} (h : ∃ x ∈ fr, hasLane x.lanes l = true) :
    ∃ x ∈ releaseOn t k n fr, hasLane x.lanes l = true := by
  unfold Machine.releaseOn
  split
  · obtain ⟨x, hx, hl⟩ := h
    refine ⟨_, List.mem_map.2 ⟨x, hx, rfl⟩, ?_⟩
    split
    · split <;> exact hl
    · exact hl
  · exact h

theorem WarpCore.settle_spec {w : WarpCore} {P : Nat → Nat → EState → Prop} {l : Nat} (hP : ReleaseOk P)
    (h : AllEntries P l w.frontier) (hh : ∃ x ∈ w.frontier, hasLane x.lanes l = true) :
    ∃ e, w.settle.entryOf l = some e ∧ P e.prio e.pc e.state := by
  have key : ∀ (ns : List Nat) (fr : List Entry), AllEntries P l fr → (∃ x ∈ fr, hasLane x.lanes l = true) →
      AllEntries P l (ns.foldl (fun fr n => Machine.releaseOn w.handlerMask (w.mask n) n fr) fr) ∧
      ∃ x ∈ ns.foldl (fun fr n => Machine.releaseOn w.handlerMask (w.mask n) n fr) fr, hasLane x.lanes l = true := by
    intro ns
    induction ns with
    | nil => exact fun _ a b => ⟨a, b⟩
    | cons n r ih => exact fun fr a b => ih _ (a.releaseOn hP) (releaseOn_has b)
  obtain ⟨a, b⟩ := key (List.range 12) w.frontier h hh
  have a := a.mergeFrontier
  obtain ⟨x, hx, hl⟩ := mergeFrontier_has b
  have hs : w.settle.frontier = Machine.mergeFrontier ((List.range 12).foldl (fun fr n => Machine.releaseOn w.handlerMask (w.mask n) n fr) w.frontier) := rfl
  rw [← hs] at hx a
  cases hf : w.settle.entryOf l with
  | none =>
    unfold WarpCore.entryOf at hf
    rw [List.find?_eq_none] at hf
    exact absurd hl (by simpa using hf x hx)
  | some e =>
    unfold WarpCore.entryOf at hf
    have hl := List.find?_some hf
    exact ⟨e, rfl, a e (List.mem_of_find?_eq_some hf) hl⟩

/-- Lanes placed as READY stand there after the frontier is settled. -/
theorem WarpCore.stand_place_ready (w : WarpCore) (m : Mask) (prio pc : Nat) : Stand (w.place m prio pc .ready).settle m prio pc .ready := by
  intro l _ hm
  obtain ⟨e, he, h⟩ := WarpCore.settle_spec (w := w.place m prio pc .ready) (P := fun a b st => a = prio ∧ b = pc ∧ st = .ready) (l := l)
    (fun _ _ _ h => ⟨h.1, h.2.1, rfl⟩) (fun e he hl => WarpCore.place_entry_or_taken he hl hm) (WarpCore.place_has hm)
  exact ⟨e, he, h⟩

/-- Lanes placed in a wait stand in it after the frontier is settled. -/
theorem WarpCore.stand_place_wait (w : WarpCore) (m : Mask) (prio pc : Nat) (b : Bool) (t : Wait) :
    Stand (w.place m prio pc (.wait b t)).settle m prio pc (.wait b t) := by
  intro l _ hm
  obtain ⟨e, he, h⟩ := WarpCore.settle_spec (w := w.place m prio pc (.wait b t)) (P := fun a c st => a = prio ∧ c = pc ∧ st = .wait b t) (l := l)
    (fun _ _ _ h => by simp at h) (fun e he hl => WarpCore.place_entry_or_taken he hl hm) (WarpCore.place_has hm)
  exact ⟨e, he, h⟩

/-- Settling changes the frontier alone. -/
theorem WarpCore.settle_rest (w : WarpCore) : { w.settle with frontier := w.frontier } = w := rfl

@[simp] theorem WarpCore.held?_settle (w : WarpCore) (l : Nat) (c : Loc) : w.settle.held? l c = w.held? l c := by cases c <;> rfl

@[simp] theorem WarpCore.held?_place (w : WarpCore) (m : Mask) (prio pc l : Nat) (st : EState) (c : Loc) :
    (w.place m prio pc st).held? l c = w.held? l c := by cases c <;> rfl

@[simp] theorem WarpCore.held?_raise (w : WarpCore) (f : Flags) (l : Nat) (c : Loc) : (w.raise f).held? l c = w.held? l c := by cases c <;> rfl

end Sys2Proof.Machine
end

