-- ==== Sys2Proof/Laws/Ops.lean ====
section
/-! SUPPORT. Laws of the shared operations: the frame of a meaning, how its lanes go on, and meanings that compute one result for each lane. -/

namespace Sys2Proof.Machine

/-! ### The frame of a meaning -/

theorem onWarp_of {i : Instr} {s : State} {c : Issue} {w : WarpCore} (h : Issuing s c w i) (body : Issue → WarpCore → State) :
    onWarp i s body = .next (body c w) := by
  unfold onWarp
  rw [h.cur]
  simp only [h.warp, h.window, Bool.false_eq_true, if_false]

/-! ### Changes of one warp -/

theorem State.warp?_modRun (s : State) (wid : Nat) (f : WarpCore → WarpCore) :
    (s.modRun wid f).warp? wid = (s.warp? wid).map (fun w => (f w).settle) := by
  unfold State.warp? State.modRun
  rw [Table.find?_modify_self]
  cases s.warps.find? wid <;> rfl

theorem State.warp?_modRun_ne (s : State) {wid k : Nat} (f : WarpCore → WarpCore) (h : k ≠ wid) : (s.modRun wid f).warp? k = s.warp? k := by
  unfold State.warp? State.modRun
  rw [Table.find?_modify_ne _ _ h]

theorem State.modRun_modRun (s : State) (wid : Nat) (f g : WarpCore → WarpCore) :
    (s.modRun wid f).modRun wid g = s.modRun wid (fun w => g (f w).settle) := by
  unfold State.modRun
  rw [Table.modify_modify]

theorem onlyWarp_modRun {s : State} {wid : Nat} {w : WarpCore} (f : WarpCore → WarpCore) (hw : s.warp? wid = some w) :
    OnlyWarp s { s.modRun wid f with cur := none } wid (f w).settle := by
  refine ⟨rfl, ?_, rfl, fun k hk => ?_, ?_, fun _ => rfl⟩
  · exact (State.warp?_modRun s wid f).trans (by rw [hw]; rfl)
  · exact Table.find?_modify_ne _ _ hk
  · show ((s.modRun wid f).warps.find? wid).map _ = _
    unfold State.modRun
    rw [Table.find?_modify_self]
    cases s.warps.find? wid <;> rfl

theorem maskOf_nil : maskOf [] = 0 := rfl

theorem and_not_zero (m : Mask) : m &&& ~~~(0 : Mask) = m := by
  apply mask_eq_of_hasLane; intro l hl; rw [hasLane_andNot]; simp [hasLane]

/-- An instruction without faults ends: its lanes go on. -/
theorem State.conclude_nil (s : State) (c : Issue) :
    s.conclude c [] = { s.modRun c.wid (fun w => w.place c.lanes c.prio c.next .ready) with cur := none } := by
  unfold State.conclude State.advance
  simp only [List.map_nil, maskOf_nil, and_not_zero]

/-- A change of the issuing warp, after which its lanes go on. -/
theorem State.modRun_conclude (s : State) (c : Issue) (g : WarpCore → WarpCore) :
    (s.modRun c.wid g).conclude c [] =
      { s.modRun c.wid (fun w => (g w).settle.place c.lanes c.prio c.next .ready) with cur := none } := by
  rw [State.conclude_nil, State.modRun_modRun]

/-! ### One result for each lane -/

theorem lanesOf_map_nodup (m : Mask) (f : Nat → Word) : (((lanesOf m).map (fun l => (l, f l))).map (·.1)).Nodup := by
  rw [List.map_map]
  simpa [Function.comp_def] using lanesOf_nodup m

theorem head_lanesOf {m : Mask} (h : m ≠ 0) : ∃ r, lanesOf m = lowest m :: r := by
  have := lanesOf_ne_nil h
  unfold lowest
  cases hl : lanesOf m with
  | nil => exact absurd hl this
  | cons a r => exact ⟨r, rfl⟩

theorem Loc.plus_zero (c : Loc) : c.plus 0 = c := by cases c <;> rfl

theorem WarpCore.resolve_zero (w : WarpCore) : w.resolve 120 = .none := rfl

/-- One value for each lane of a set, written into the register that a field names. -/
theorem WarpCore.writeLanes_run (s : State) (w : WarpCore) (m : Mask) (r : Nat) (f : Nat → Word) :
    let w' := w.writeLanes s (w.resolve r) ((lanesOf m).map (fun l => (l, f l)))
    w.SameButRegs w' ∧ RunHolds w w' m r 1 (fun l _ => f l) ∧ OtherRegs w w' m r 1 := by
  intro w'
  obtain ⟨hs, hl, hu, ho, _⟩ := WarpCore.writeLanes_spec s (w.resolve r) ((lanesOf m).map (fun l => (l, f l))) w
    (lanesOf_map_nodup m f) (by simp [mem_lanesOf]; omega)
  refine ⟨hs, fun _ j hj hn l hl32 hm => ?_, fun l hl32 p hp => ?_⟩
  · have hj : j = 0 := by omega
    subst hj
    rw [Loc.plus_zero] at hn ⊢
    by_cases hc : (w.resolve r).shared = true
    · rw [if_pos hc]
      obtain ⟨q, hq⟩ := head_lanesOf (ne_zero_of_hasLane hm)
      exact hu hc (lowest m, f (lowest m)) (q.map (fun l => (l, f l))) (by rw [hq]; rfl) l
    · rw [if_neg hc]
      exact hl hn (by simpa using hc) (l, f l) (List.mem_map.2 ⟨l, mem_lanesOf.2 ⟨hl32, hm⟩, rfl⟩)
  · by_cases hpn : p = .none
    · subst hpn; rfl
    refine ho l hl32 p ?_
    by_cases hpc : p = w.resolve r
    · right
      have hr : inRun w r 1 p := by
        refine ⟨fun h120 => hpn ?_, 0, by omega, ?_, hpn⟩
        · rw [hpc, h120]; rfl
        · rw [Loc.plus_zero]; exact hpc
      have hnot : ¬ hasLane m l = true ∧ ¬ p.shared = true := not_or.1 (fun h => hp ⟨hr, h⟩)
      refine ⟨?_, ?_⟩
      · rw [← hpc]; simpa using hnot.2
      · simp only [List.map_map, List.mem_map, Function.comp_apply, not_exists, not_and]
        intro x hx e
        subst e
        exact hnot.1 (mem_lanesOf.1 hx).2
    · exact .inl hpc

/-- What follows for the whole instruction: a change of registers and flags, then its lanes go on. -/
theorem regResult_of {s : State} {c : Issue} {w : WarpCore} {r n : Nat} {f : Nat → Nat → Word} {fl : Flags} (hw : s.warp? c.wid = some w)
    (g : WarpCore → WarpCore) (hs : w.SameButRegs (g w)) (hr : RunHolds w (g w) c.lanes r n f) (ho : OtherRegs w (g w) c.lanes r n) :
    RegResult s ((s.modRun c.wid (fun w => (g w).raise fl)).conclude c []) c w r n f fl := by
  rw [State.modRun_conclude]
  refine ⟨_, onlyWarp_modRun _ hw, ?_, ?_, ?_, ?_, ?_⟩
  · intro h120 j hj hn l hl hm
    have := hr h120 j hj hn l hl hm
    unfold Landed at this ⊢
    simpa using this
  · intro l hl p hp
    simpa using ho l hl p hp
  · have hf : (g w).flags = w.flags := by have := congrArg WarpCore.flags hs.1; exact this
    exact congrArg (· ||| fl) hf
  · exact ⟨congrArg (fun x : WarpCore => { x with flags := w.flags, frontier := w.frontier }) hs.1, hs.2⟩
  · exact WarpCore.stand_place_ready _ _ _ _

/-- One result for each active lane, into one register (R103). -/
theorem State.perLane_spec {s : State} {c : Issue} {w : WarpCore} (hw : s.warp? c.wid = some w) (d : Reg) (f : Nat → Word × Flags) :
    RegResult s (s.perLane c d f) c w d.toNat 1 (fun l _ => (f l).1) (gatherFlags ((lanesOf c.lanes).map (fun l => (f l).2))) := by
  have e : s.perLane c d f = (s.modRun c.wid (fun w => (w.writeLanes s (w.resolve d.toNat) ((lanesOf c.lanes).map (fun l => (l, (f l).1)))).raise
      (gatherFlags ((lanesOf c.lanes).map (fun l => (f l).2))))).conclude c [] := by
    unfold State.perLane
    simp only [List.map_map, Function.comp_def]
  rw [e]
  obtain ⟨hs, hr, ho⟩ := WarpCore.writeLanes_run s w c.lanes d.toNat (fun l => (f l).1)
  exact regResult_of hw (fun w => w.writeLanes s (w.resolve d.toNat) ((lanesOf c.lanes).map (fun l => (l, (f l).1)))) hs hr ho

/-! ### Runs of registers -/

theorem Loc.plus_inj {c : Loc} {i j : Nat} (hn : c.plus i ≠ .none) (h : c.plus i = c.plus j) : i = j := by
  cases c with
  | none => exact absurd rfl hn
  | thread k => simp [Loc.plus] at h; omega
  | uni k => simp [Loc.plus] at h; omega
  | fp =>
    simp only [Loc.plus] at h hn
    by_cases hi : i = 0 <;> by_cases hj : j = 0 <;> simp_all
  | sp =>
    simp only [Loc.plus] at h hn
    by_cases hi : i = 0 <;> by_cases hj : j = 0 <;> simp_all

theorem Loc.shared_plus (c : Loc) (j : Nat) : (c.plus j).shared = c.shared := by
  cases c with
  | none => rfl
  | thread k => rfl
  | uni k => rfl
  | fp => simp only [Loc.plus]; split <;> rfl
  | sp => simp only [Loc.plus]; split <;> rfl

/-- Writes of a run of registers, one list of values for each lane of a set. -/
theorem WarpCore.writeRun_spec (s : State) (w : WarpCore) (m : Mask) (r n : Nat) (f : Nat → List Word) (hn : ∀ l, hasLane m l = true → (f l).length = n) :
    let w' := WarpCore.writeRun s w r ((lanesOf m).map (fun l => (l, f l)))
    w.SameButRegs w' ∧ RunHolds w w' m r n (fun l j => ((f l)[j]?).getD 0) ∧ OtherRegs w w' m r n := by
  by_cases hm : m = 0
  · subst hm
    have : lanesOf 0 = [] := by decide
    simp only [this, List.map_nil, WarpCore.writeRun, List.range_zero, List.foldl_nil]
    exact ⟨.rfl' w, fun _ j _ _ l _ h => by simp [hasLane] at h, fun _ _ _ _ => rfl⟩
  obtain ⟨q, hq⟩ := head_lanesOf hm
  have hw : WarpCore.writeRun s w r ((lanesOf m).map (fun l => (l, f l))) =
      (List.range n).foldl (fun a j => WarpCore.writeLanes s a (if r = 120 then .none else (a.resolve r).plus j)
        ((lanesOf m).map (fun l => (l, ((f l)[j]?).getD 0)))) w := by
    unfold WarpCore.writeRun
    rw [← hn _ (mem_lanesOf.1 (lowest_mem hm)).2, hq]
    simp only [List.map_map, List.map_cons, Function.comp_def]
  -- the place of register `j` does not change while the run is written
  have hres : ∀ a : WarpCore, a.wbase = w.wbase → a.resolve r = w.resolve r := fun a h => by unfold WarpCore.resolve; rw [h]
  have key : ∀ k, k ≤ n →
      let w' := (List.range k).foldl (fun a j => WarpCore.writeLanes s a (if r = 120 then .none else (a.resolve r).plus j)
        ((lanesOf m).map (fun l => (l, ((f l)[j]?).getD 0)))) w
      w.SameButRegs w' ∧ RunHolds w w' m r k (fun l j => ((f l)[j]?).getD 0) ∧ OtherRegs w w' m r k ∧
        (∀ i p, (∀ j < k, p ≠ (w.resolve r).plus j ∨ r = 120) → w'.stale i p = w.stale i p) := by
    intro k
    induction k with
    | zero => exact fun _ => ⟨.rfl' w, fun _ j hj => by omega, fun _ _ _ _ => rfl, fun _ _ _ => rfl⟩
    | succ k ih =>
      intro hk
      obtain ⟨hs, hr, ho, ht⟩ := ih (by omega)
      rw [List.range_succ, List.foldl_append]
      simp only [List.foldl_cons, List.foldl_nil]
      generalize (List.range k).foldl _ w = u at hs hr ho ht ⊢
      have hu : u.resolve r = w.resolve r := hres u (by have := congrArg WarpCore.wbase hs.1; exact this)
      rw [hu]
      obtain ⟨is, il, iu, io, it⟩ := WarpCore.writeLanes_spec s (if r = 120 then .none else (w.resolve r).plus k)
        ((lanesOf m).map (fun l => (l, ((f l)[k]?).getD 0))) u (lanesOf_map_nodup m _) (by simp [mem_lanesOf]; omega)
      by_cases h120 : r = 120
      · simp only [if_pos h120] at is il iu io it ⊢
        refine ⟨hs.trans is, fun h => absurd h120 h, fun l hl p hp => ?_, fun i p hp => ?_⟩
        · by_cases hpn : p = .none
          · subst hpn; rfl
          · rw [io l hl p (.inl hpn)]
            exact ho l hl p (fun h => h.1.1 h120)
        · by_cases hpn : p = .none
          · subst hpn; rfl
          · rw [it i p hpn]; exact ht i p (fun j _ => .inr h120)
      · simp only [if_neg h120] at is il iu io it ⊢
        refine ⟨hs.trans is, fun _ j hj hjn l hl hml => ?_, fun l hl p hp => ?_, fun i p hp => ?_⟩
        · rcases Nat.lt_or_eq_of_le (Nat.lt_succ_iff.1 hj) with hjk | rfl
          · have hne : (w.resolve r).plus j ≠ (w.resolve r).plus k := fun e => by have := Loc.plus_inj hjn e; omega
            have := hr h120 j hjk hjn l hl hml
            unfold Landed at this ⊢
            rw [io l hl _ (.inl hne)]
            exact this
          · have hst : ∀ i, u.stale i ((w.resolve r).plus j) = w.stale i ((w.resolve r).plus j) := fun i =>
              ht i _ (fun i hi => .inl (fun e => by have := Loc.plus_inj hjn e; omega))
            have hho : u.held? l ((w.resolve r).plus j) = w.held? l ((w.resolve r).plus j) := ho l hl _ (by
              rintro ⟨⟨_, i, hi, e, _⟩, _⟩
              have := Loc.plus_inj hjn e; omega)
            have hland : ∀ v, Landed u (WarpCore.writeLanes s u ((w.resolve r).plus j) ((lanesOf m).map (fun l => (l, ((f l)[j]?).getD 0)))) l ((w.resolve r).plus j) v →
                Landed w (WarpCore.writeLanes s u ((w.resolve r).plus j) ((lanesOf m).map (fun l => (l, ((f l)[j]?).getD 0)))) l ((w.resolve r).plus j) v := by
              intro v h
              unfold Landed at h ⊢
              rw [hst, hho] at h
              exact h
            by_cases hc : ((w.resolve r).plus j).shared = true
            · rw [if_pos hc]
              exact hland _ (iu hc (lowest m, ((f (lowest m))[j]?).getD 0) (q.map (fun l => (l, ((f l)[j]?).getD 0))) (by rw [hq]; rfl) l)
            · rw [if_neg hc]
              exact hland _ (il hjn (by simpa using hc) (l, ((f l)[j]?).getD 0) (List.mem_map.2 ⟨l, mem_lanesOf.2 ⟨hl, hml⟩, rfl⟩))
        · by_cases hpn : p = .none
          · subst hpn; rfl
          have h1 : u.held? l p = w.held? l p := ho l hl p (by
            rintro ⟨⟨a, j, hj, e⟩, h⟩; exact hp ⟨⟨a, j, by omega, e⟩, h⟩)
          rw [← h1]
          refine io l hl p ?_
          by_cases hpc : p = (w.resolve r).plus k
          · right
            have hnot := not_or.1 (fun h => hp ⟨⟨h120, k, by omega, hpc, hpn⟩, h⟩)
            refine ⟨by rw [← hpc]; simpa using hnot.2, ?_⟩
            simp only [List.map_map, List.mem_map, Function.comp_apply, not_exists, not_and]
            intro x hx e
            subst e
            exact hnot.1 (mem_lanesOf.1 hx).2
          · exact .inl hpc
        · have hk' := (hp k (by omega)).resolve_right h120
          rw [it i p hk']
          exact ht i p (fun j hj => hp j (by omega))
  obtain ⟨a, b, c, _⟩ := key n (Nat.le_refl n)
  rw [← hw] at a b c
  exact ⟨a, b, c⟩

/-- One 64-bit result for each active lane, into a pair (R103, R106). -/
theorem State.perLanePair_spec {s : State} {c : Issue} {w : WarpCore} (hw : s.warp? c.wid = some w) (d : Reg) (f : Nat → DWord × Flags) :
    RegResult s (s.perLanePair c d f) c w d.toNat 2 (fun l j => if j = 0 then loWord (f l).1 else hiWord (f l).1)
      (gatherFlags ((lanesOf c.lanes).map (fun l => (f l).2))) := by
  have e : s.perLanePair c d f = (s.modRun c.wid (fun w => (WarpCore.writeRun s w d.toNat ((lanesOf c.lanes).map (fun l => (l, [loWord (f l).1, hiWord (f l).1])))).raise
      (gatherFlags ((lanesOf c.lanes).map (fun l => (f l).2))))).conclude c [] := by
    unfold State.perLanePair
    simp only [List.map_map, Function.comp_def]
  rw [e]
  obtain ⟨hs, hr, ho⟩ := WarpCore.writeRun_spec s w c.lanes d.toNat 2 (fun l => [loWord (f l).1, hiWord (f l).1]) (fun _ _ => rfl)
  refine regResult_of hw (fun w => WarpCore.writeRun s w d.toNat ((lanesOf c.lanes).map (fun l => (l, [loWord (f l).1, hiWord (f l).1])))) hs ?_ ho
  intro h120 j hj hn l hl hm
  have := hr h120 j hj hn l hl hm
  rcases j with _ | _ | j
  · exact this
  · exact this
  · omega

end Sys2Proof.Machine
end

