-- ==== Sys2Proof/Laws/Alu.lean ====
section
/-! SUPPORT. Laws of the meanings that compute one result for each lane: integer, floating and double forms. -/

namespace Sys2Proof.Machine

theorem gatherFlags_none (m : Mask) : gatherFlags ((lanesOf m).map (fun _ => (0 : Flags))) = 0 := by
  unfold gatherFlags
  generalize lanesOf m = l
  induction l with
  | nil => rfl
  | cons a r ih => simpa using ih

/-- Two sources and the old destination, without flags (R103, R104). -/
theorem aluR_completes {i : Instr} {r : RArgs} {s : State} {c : Issue} {w : WarpCore} (f : Word → Word → Word → Word) (he : exec i s = aluR i r s f)
    (h : Issuing s c w i) (g : Nat → Word) (hg : ∀ l, f (r.vD s w l) (r.vA s w l) (r.vB s w l) = g l) :
    Completes i s fun t => RegResult s t c w r.d.toNat 1 (fun l _ => g l) 0 := by
  refine ⟨_, he.trans (onWarp_of h _), ?_⟩
  have := State.perLane_spec h.warp r.d (fun l => (f (r.vD s w l) (r.vA s w l) (r.vB s w l), 0))
  rw [gatherFlags_none] at this
  simpa only [hg] using this

/-- One source and an immediate. -/
theorem aluI_completes {i : Instr} {a : IArgs} {s : State} {c : Issue} {w : WarpCore} (f : Word → Word) (he : exec i s = aluI i a s f)
    (h : Issuing s c w i) (g : Nat → Word) (hg : ∀ l, f (s.rd w l a.a.toNat posA) = g l) :
    Completes i s fun t => RegResult s t c w a.d.toNat 1 (fun l _ => g l) 0 := by
  refine ⟨_, he.trans (onWarp_of h _), ?_⟩
  have := State.perLane_spec h.warp a.d (fun l => (f (s.rd w l a.a.toNat posA), 0))
  rw [gatherFlags_none] at this
  simpa only [hg] using this

/-- FP32 forms, with their flags (R104). -/
theorem floatR_completes {i : Instr} {r : RArgs} {s : State} {c : Issue} {w : WarpCore} (f : Word → Word → Word → Word × Flags)
    (he : exec i s = floatR i r s f) (h : Issuing s c w i) :
    Completes i s fun t => RegResult s t c w r.d.toNat 1 (fun l _ => (f (r.vD s w l) (r.vA s w l) (r.vB s w l)).1)
      (gatherFlags ((lanesOf c.lanes).map (fun l => (f (r.vD s w l) (r.vA s w l) (r.vB s w l)).2))) :=
  ⟨_, he.trans (onWarp_of h _), State.perLane_spec h.warp r.d _⟩

/-- FP64 forms, with their flags (R127). -/
theorem doubleR_completes {i : Instr} {r : RArgs} {s : State} {c : Issue} {w : WarpCore} (f : DWord → DWord → DWord → DWord × Flags)
    (he : exec i s = doubleR i r s f) (h : Issuing s c w i) :
    Completes i s fun t => RegResult s t c w r.d.toNat 2
      (fun l j => if j = 0 then loWord (f (r.pairD s w l) (r.pairA s w l) (r.pairB s w l)).1 else hiWord (f (r.pairD s w l) (r.pairA s w l) (r.pairB s w l)).1)
      (gatherFlags ((lanesOf c.lanes).map (fun l => (f (r.pairD s w l) (r.pairA s w l) (r.pairB s w l)).2))) :=
  ⟨_, he.trans (onWarp_of h _), State.perLanePair_spec h.warp r.d _⟩

end Sys2Proof.Machine
end

