-- ==== Sys2Proof/Laws/Answers.lean ====
section
/-! SUPPORT. Which meanings answer a next state: every event always does, and every encoded instruction runs one body on the warp it issues from. -/

namespace Sys2Proof.Machine

theorem onWarp_add {s : State} {r} : ∃ body, exec (.add r) s = onWarp (.add r) s body := exec_add ▸ ⟨_, rfl⟩
theorem onWarp_sub {s : State} {r} : ∃ body, exec (.sub r) s = onWarp (.sub r) s body := exec_sub ▸ ⟨_, rfl⟩
theorem onWarp_mul {s : State} {r} : ∃ body, exec (.mul r) s = onWarp (.mul r) s body := exec_mul ▸ ⟨_, rfl⟩
theorem onWarp_mulh {s : State} {r} : ∃ body, exec (.mulh r) s = onWarp (.mulh r) s body := exec_mulh ▸ ⟨_, rfl⟩
theorem onWarp_mulhU {s : State} {r} : ∃ body, exec (.mulhU r) s = onWarp (.mulhU r) s body := exec_mulhU ▸ ⟨_, rfl⟩
theorem onWarp_mad {s : State} {r} : ∃ body, exec (.mad r) s = onWarp (.mad r) s body := exec_mad ▸ ⟨_, rfl⟩
theorem onWarp_div {s : State} {r} : ∃ body, exec (.div r) s = onWarp (.div r) s body := exec_div ▸ ⟨_, rfl⟩
theorem onWarp_divU {s : State} {r} : ∃ body, exec (.divU r) s = onWarp (.divU r) s body := exec_divU ▸ ⟨_, rfl⟩
theorem onWarp_mod {s : State} {r} : ∃ body, exec (.mod r) s = onWarp (.mod r) s body := exec_mod ▸ ⟨_, rfl⟩
theorem onWarp_modU {s : State} {r} : ∃ body, exec (.modU r) s = onWarp (.modU r) s body := exec_modU ▸ ⟨_, rfl⟩
theorem onWarp_min {s : State} {r} : ∃ body, exec (.min r) s = onWarp (.min r) s body := exec_min ▸ ⟨_, rfl⟩
theorem onWarp_minU {s : State} {r} : ∃ body, exec (.minU r) s = onWarp (.minU r) s body := exec_minU ▸ ⟨_, rfl⟩
theorem onWarp_max {s : State} {r} : ∃ body, exec (.max r) s = onWarp (.max r) s body := exec_max ▸ ⟨_, rfl⟩
theorem onWarp_maxU {s : State} {r} : ∃ body, exec (.maxU r) s = onWarp (.maxU r) s body := exec_maxU ▸ ⟨_, rfl⟩
theorem onWarp_abs {s : State} {r} : ∃ body, exec (.abs r) s = onWarp (.abs r) s body := exec_abs ▸ ⟨_, rfl⟩
theorem onWarp_neg {s : State} {r} : ∃ body, exec (.neg r) s = onWarp (.neg r) s body := exec_neg ▸ ⟨_, rfl⟩
theorem onWarp_and {s : State} {r} : ∃ body, exec (.and r) s = onWarp (.and r) s body := exec_and ▸ ⟨_, rfl⟩
theorem onWarp_or {s : State} {r} : ∃ body, exec (.or r) s = onWarp (.or r) s body := exec_or ▸ ⟨_, rfl⟩
theorem onWarp_xor {s : State} {r} : ∃ body, exec (.xor r) s = onWarp (.xor r) s body := exec_xor ▸ ⟨_, rfl⟩
theorem onWarp_not {s : State} {r} : ∃ body, exec (.not r) s = onWarp (.not r) s body := exec_not ▸ ⟨_, rfl⟩
theorem onWarp_shl {s : State} {r} : ∃ body, exec (.shl r) s = onWarp (.shl r) s body := exec_shl ▸ ⟨_, rfl⟩
theorem onWarp_shr {s : State} {r} : ∃ body, exec (.shr r) s = onWarp (.shr r) s body := exec_shr ▸ ⟨_, rfl⟩
theorem onWarp_sra {s : State} {r} : ∃ body, exec (.sra r) s = onWarp (.sra r) s body := exec_sra ▸ ⟨_, rfl⟩
theorem onWarp_bfx {s : State} {r} : ∃ body, exec (.bfx r) s = onWarp (.bfx r) s body := exec_bfx ▸ ⟨_, rfl⟩
theorem onWarp_bfi {s : State} {r} : ∃ body, exec (.bfi r) s = onWarp (.bfi r) s body := exec_bfi ▸ ⟨_, rfl⟩
theorem onWarp_popc {s : State} {r} : ∃ body, exec (.popc r) s = onWarp (.popc r) s body := exec_popc ▸ ⟨_, rfl⟩
theorem onWarp_clz {s : State} {r} : ∃ body, exec (.clz r) s = onWarp (.clz r) s body := exec_clz ▸ ⟨_, rfl⟩
theorem onWarp_brev {s : State} {r} : ∃ body, exec (.brev r) s = onWarp (.brev r) s body := exec_brev ▸ ⟨_, rfl⟩
theorem onWarp_lea {s : State} {r} : ∃ body, exec (.lea r) s = onWarp (.lea r) s body := exec_lea ▸ ⟨_, rfl⟩
theorem onWarp_addi {s : State} {x} : ∃ body, exec (.addi x) s = onWarp (.addi x) s body := exec_addi ▸ ⟨_, rfl⟩
theorem onWarp_andi {s : State} {x} : ∃ body, exec (.andi x) s = onWarp (.andi x) s body := exec_andi ▸ ⟨_, rfl⟩
theorem onWarp_ori {s : State} {x} : ∃ body, exec (.ori x) s = onWarp (.ori x) s body := exec_ori ▸ ⟨_, rfl⟩
theorem onWarp_xori {s : State} {x} : ∃ body, exec (.xori x) s = onWarp (.xori x) s body := exec_xori ▸ ⟨_, rfl⟩
theorem onWarp_shli {s : State} {x} : ∃ body, exec (.shli x) s = onWarp (.shli x) s body := exec_shli ▸ ⟨_, rfl⟩
theorem onWarp_lui {s : State} {x} : ∃ body, exec (.lui x) s = onWarp (.lui x) s body := exec_lui ▸ ⟨_, rfl⟩
theorem onWarp_fadd {s : State} {r} : ∃ body, exec (.fadd r) s = onWarp (.fadd r) s body := exec_fadd ▸ ⟨_, rfl⟩
theorem onWarp_fsub {s : State} {r} : ∃ body, exec (.fsub r) s = onWarp (.fsub r) s body := exec_fsub ▸ ⟨_, rfl⟩
theorem onWarp_fmul {s : State} {r} : ∃ body, exec (.fmul r) s = onWarp (.fmul r) s body := exec_fmul ▸ ⟨_, rfl⟩
theorem onWarp_ffma {s : State} {r} : ∃ body, exec (.ffma r) s = onWarp (.ffma r) s body := exec_ffma ▸ ⟨_, rfl⟩
theorem onWarp_fmin {s : State} {r} : ∃ body, exec (.fmin r) s = onWarp (.fmin r) s body := exec_fmin ▸ ⟨_, rfl⟩
theorem onWarp_fmax {s : State} {r} : ∃ body, exec (.fmax r) s = onWarp (.fmax r) s body := exec_fmax ▸ ⟨_, rfl⟩
theorem onWarp_fcmp {s : State} {r} : ∃ body, exec (.fcmp r) s = onWarp (.fcmp r) s body := exec_fcmp ▸ ⟨_, rfl⟩
theorem onWarp_fsel {s : State} {r} : ∃ body, exec (.fsel r) s = onWarp (.fsel r) s body := exec_fsel ▸ ⟨_, rfl⟩
theorem onWarp_frnd {s : State} {r} : ∃ body, exec (.frnd r) s = onWarp (.frnd r) s body := exec_frnd ▸ ⟨_, rfl⟩
theorem onWarp_fclass {s : State} {r} : ∃ body, exec (.fclass r) s = onWarp (.fclass r) s body := exec_fclass ▸ ⟨_, rfl⟩
theorem onWarp_frcp {s : State} {r} : ∃ body, exec (.frcp r) s = onWarp (.frcp r) s body := exec_frcp ▸ ⟨_, rfl⟩
theorem onWarp_frsq {s : State} {r} : ∃ body, exec (.frsq r) s = onWarp (.frsq r) s body := exec_frsq ▸ ⟨_, rfl⟩
theorem onWarp_fsqrt {s : State} {r} : ∃ body, exec (.fsqrt r) s = onWarp (.fsqrt r) s body := exec_fsqrt ▸ ⟨_, rfl⟩
theorem onWarp_fex2 {s : State} {r} : ∃ body, exec (.fex2 r) s = onWarp (.fex2 r) s body := exec_fex2 ▸ ⟨_, rfl⟩
theorem onWarp_flg2 {s : State} {r} : ∃ body, exec (.flg2 r) s = onWarp (.flg2 r) s body := exec_flg2 ▸ ⟨_, rfl⟩
theorem onWarp_fsin {s : State} {r} : ∃ body, exec (.fsin r) s = onWarp (.fsin r) s body := exec_fsin ▸ ⟨_, rfl⟩
theorem onWarp_fcos {s : State} {r} : ∃ body, exec (.fcos r) s = onWarp (.fcos r) s body := exec_fcos ▸ ⟨_, rfl⟩
theorem onWarp_dadd {s : State} {r} : ∃ body, exec (.dadd r) s = onWarp (.dadd r) s body := exec_dadd ▸ ⟨_, rfl⟩
theorem onWarp_dmul {s : State} {r} : ∃ body, exec (.dmul r) s = onWarp (.dmul r) s body := exec_dmul ▸ ⟨_, rfl⟩
theorem onWarp_dfma {s : State} {r} : ∃ body, exec (.dfma r) s = onWarp (.dfma r) s body := exec_dfma ▸ ⟨_, rfl⟩
theorem onWarp_cvt {s : State} {r} : ∃ body, exec (.cvt r) s = onWarp (.cvt r) s body := exec_cvt ▸ ⟨_, rfl⟩
theorem onWarp_cvtn {s : State} {r} : ∃ body, exec (.cvtn r) s = onWarp (.cvtn r) s body := exec_cvtn ▸ ⟨_, rfl⟩
theorem onWarp_amax {s : State} {r} : ∃ body, exec (.amax r) s = onWarp (.amax r) s body := exec_amax ▸ ⟨_, rfl⟩
theorem onWarp_scaleq {s : State} {r} : ∃ body, exec (.scaleq r) s = onWarp (.scaleq r) s body := exec_scaleq ▸ ⟨_, rfl⟩
theorem onWarp_pack {s : State} {r} : ∃ body, exec (.pack r) s = onWarp (.pack r) s body := exec_pack ▸ ⟨_, rfl⟩
theorem onWarp_unpack {s : State} {r} : ∃ body, exec (.unpack r) s = onWarp (.unpack r) s body := exec_unpack ▸ ⟨_, rfl⟩
theorem onWarp_cmpset {s : State} {r} : ∃ body, exec (.cmpset r) s = onWarp (.cmpset r) s body := exec_cmpset ▸ ⟨_, rfl⟩
theorem onWarp_shfl {s : State} {r} : ∃ body, exec (.shfl r) s = onWarp (.shfl r) s body := exec_shfl ▸ ⟨_, rfl⟩
theorem onWarp_vote {s : State} {r} : ∃ body, exec (.vote r) s = onWarp (.vote r) s body := exec_vote ▸ ⟨_, rfl⟩
theorem onWarp_redw {s : State} {r} : ∃ body, exec (.redw r) s = onWarp (.redw r) s body := exec_redw ▸ ⟨_, rfl⟩
theorem onWarp_scanw {s : State} {r} : ∃ body, exec (.scanw r) s = onWarp (.scanw r) s body := exec_scanw ▸ ⟨_, rfl⟩
theorem onWarp_matchLanes {s : State} {r} : ∃ body, exec (.matchLanes r) s = onWarp (.matchLanes r) s body := exec_matchLanes ▸ ⟨_, rfl⟩
theorem onWarp_kset {s : State} {k} : ∃ body, exec (.kset k) s = onWarp (.kset k) s body := exec_kset ▸ ⟨_, rfl⟩
theorem onWarp_kmov {s : State} {k} : ∃ body, exec (.kmov k) s = onWarp (.kmov k) s body := exec_kmov ▸ ⟨_, rfl⟩
theorem onWarp_kpop {s : State} {k} : ∃ body, exec (.kpop k) s = onWarp (.kpop k) s body := exec_kpop ▸ ⟨_, rfl⟩
theorem onWarp_join {s : State} {k} : ∃ body, exec (.join k) s = onWarp (.join k) s body := exec_join ▸ ⟨_, rfl⟩
theorem onWarp_leave {s : State} {k} : ∃ body, exec (.leave k) s = onWarp (.leave k) s body := exec_leave ▸ ⟨_, rfl⟩
theorem onWarp_kwait {s : State} {k} : ∃ body, exec (.kwait k) s = onWarp (.kwait k) s body := exec_kwait ▸ ⟨_, rfl⟩
theorem onWarp_klogAnd {s : State} {k} : ∃ body, exec (.klogAnd k) s = onWarp (.klogAnd k) s body := exec_klogAnd ▸ ⟨_, rfl⟩
theorem onWarp_klogOr {s : State} {k} : ∃ body, exec (.klogOr k) s = onWarp (.klogOr k) s body := exec_klogOr ▸ ⟨_, rfl⟩
theorem onWarp_klogXor {s : State} {k} : ∃ body, exec (.klogXor k) s = onWarp (.klogXor k) s body := exec_klogXor ▸ ⟨_, rfl⟩
theorem onWarp_klogAndn {s : State} {k} : ∃ body, exec (.klogAndn k) s = onWarp (.klogAndn k) s body := exec_klogAndn ▸ ⟨_, rfl⟩
theorem onWarp_prio {s : State} {x} : ∃ body, exec (.prio x) s = onWarp (.prio x) s body := exec_prio ▸ ⟨_, rfl⟩
theorem onWarp_bra {s : State} {j} : ∃ body, exec (.bra j) s = onWarp (.bra j) s body := exec_bra ▸ ⟨_, rfl⟩
theorem onWarp_brc {s : State} {c} : ∃ body, exec (.brc c) s = onWarp (.brc c) s body := exec_brc ▸ ⟨_, rfl⟩
theorem onWarp_jmpi {s : State} {r} : ∃ body, exec (.jmpi r) s = onWarp (.jmpi r) s body := exec_jmpi ▸ ⟨_, rfl⟩
theorem onWarp_callw {s : State} {r} : ∃ body, exec (.callw r) s = onWarp (.callw r) s body := exec_callw ▸ ⟨_, rfl⟩
theorem onWarp_callk {s : State} {r} : ∃ body, exec (.callk r) s = onWarp (.callk r) s body := exec_callk ▸ ⟨_, rfl⟩
theorem onWarp_retw {s : State} {r} : ∃ body, exec (.retw r) s = onWarp (.retw r) s body := exec_retw ▸ ⟨_, rfl⟩
theorem onWarp_retwB {s : State} {r} : ∃ body, exec (.retwB r) s = onWarp (.retwB r) s body := exec_retwB ▸ ⟨_, rfl⟩
theorem onWarp_retk {s : State} {r} : ∃ body, exec (.retk r) s = onWarp (.retk r) s body := exec_retk ▸ ⟨_, rfl⟩
theorem onWarp_exit {s : State} {r} : ∃ body, exec (.exit r) s = onWarp (.exit r) s body := exec_exit ▸ ⟨_, rfl⟩
theorem onWarp_nop {s : State} {r} : ∃ body, exec (.nop r) s = onWarp (.nop r) s body := exec_nop ▸ ⟨_, rfl⟩
theorem onWarp_yield {s : State} {r} : ∃ body, exec (.yield r) s = onWarp (.yield r) s body := exec_yield ▸ ⟨_, rfl⟩
theorem answers_yieldExpiry {s : State} {wid} : ∃ t, exec (.yieldExpiry wid) s = .next t := ⟨_, rfl⟩
theorem onWarp_wbase {s : State} {r} : ∃ body, exec (.wbase r) s = onWarp (.wbase r) s body := exec_wbase ▸ ⟨_, rfl⟩
theorem onWarp_ld {s : State} {m} : ∃ body, exec (.ld m) s = onWarp (.ld m) s body := exec_ld ▸ ⟨_, rfl⟩
theorem onWarp_st {s : State} {m} : ∃ body, exec (.st m) s = onWarp (.st m) s body := exec_st ▸ ⟨_, rfl⟩
theorem answers_bteBulkCopy {s : State} {wid} : ∃ t, exec (.bteBulkCopy wid) s = .next t := ⟨_, rfl⟩
theorem onWarp_ldt {s : State} {m} : ∃ body, exec (.ldt m) s = onWarp (.ldt m) s body := exec_ldt ▸ ⟨_, rfl⟩
theorem onWarp_lds {s : State} {m} : ∃ body, exec (.lds m) s = onWarp (.lds m) s body := exec_lds ▸ ⟨_, rfl⟩
theorem onWarp_sts {s : State} {m} : ∃ body, exec (.sts m) s = onWarp (.sts m) s body := exec_sts ▸ ⟨_, rfl⟩
theorem onWarp_atomAdd {s : State} {r} : ∃ body, exec (.atomAdd r) s = onWarp (.atomAdd r) s body := exec_atomAdd ▸ ⟨_, rfl⟩
theorem onWarp_atomMinS {s : State} {r} : ∃ body, exec (.atomMinS r) s = onWarp (.atomMinS r) s body := exec_atomMinS ▸ ⟨_, rfl⟩
theorem onWarp_atomMaxS {s : State} {r} : ∃ body, exec (.atomMaxS r) s = onWarp (.atomMaxS r) s body := exec_atomMaxS ▸ ⟨_, rfl⟩
theorem onWarp_atomMinU {s : State} {r} : ∃ body, exec (.atomMinU r) s = onWarp (.atomMinU r) s body := exec_atomMinU ▸ ⟨_, rfl⟩
theorem onWarp_atomMaxU {s : State} {r} : ∃ body, exec (.atomMaxU r) s = onWarp (.atomMaxU r) s body := exec_atomMaxU ▸ ⟨_, rfl⟩
theorem onWarp_atomAnd {s : State} {r} : ∃ body, exec (.atomAnd r) s = onWarp (.atomAnd r) s body := exec_atomAnd ▸ ⟨_, rfl⟩
theorem onWarp_atomOr {s : State} {r} : ∃ body, exec (.atomOr r) s = onWarp (.atomOr r) s body := exec_atomOr ▸ ⟨_, rfl⟩
theorem onWarp_atomXor {s : State} {r} : ∃ body, exec (.atomXor r) s = onWarp (.atomXor r) s body := exec_atomXor ▸ ⟨_, rfl⟩
theorem onWarp_atomExch {s : State} {r} : ∃ body, exec (.atomExch r) s = onWarp (.atomExch r) s body := exec_atomExch ▸ ⟨_, rfl⟩
theorem onWarp_atomCas {s : State} {r} : ∃ body, exec (.atomCas r) s = onWarp (.atomCas r) s body := exec_atomCas ▸ ⟨_, rfl⟩
theorem onWarp_atomAddF32 {s : State} {r} : ∃ body, exec (.atomAddF32 r) s = onWarp (.atomAddF32 r) s body := exec_atomAddF32 ▸ ⟨_, rfl⟩
theorem onWarp_red {s : State} {op} {r} : ∃ body, exec (.red op r) s = onWarp (.red op r) s body := exec_red ▸ ⟨_, rfl⟩
theorem onWarp_atomsAdd {s : State} {r} : ∃ body, exec (.atomsAdd r) s = onWarp (.atomsAdd r) s body := exec_atomsAdd ▸ ⟨_, rfl⟩
theorem onWarp_atomsMinS {s : State} {r} : ∃ body, exec (.atomsMinS r) s = onWarp (.atomsMinS r) s body := exec_atomsMinS ▸ ⟨_, rfl⟩
theorem onWarp_atomsMaxS {s : State} {r} : ∃ body, exec (.atomsMaxS r) s = onWarp (.atomsMaxS r) s body := exec_atomsMaxS ▸ ⟨_, rfl⟩
theorem onWarp_atomsMinU {s : State} {r} : ∃ body, exec (.atomsMinU r) s = onWarp (.atomsMinU r) s body := exec_atomsMinU ▸ ⟨_, rfl⟩
theorem onWarp_atomsMaxU {s : State} {r} : ∃ body, exec (.atomsMaxU r) s = onWarp (.atomsMaxU r) s body := exec_atomsMaxU ▸ ⟨_, rfl⟩
theorem onWarp_atomsAnd {s : State} {r} : ∃ body, exec (.atomsAnd r) s = onWarp (.atomsAnd r) s body := exec_atomsAnd ▸ ⟨_, rfl⟩
theorem onWarp_atomsOr {s : State} {r} : ∃ body, exec (.atomsOr r) s = onWarp (.atomsOr r) s body := exec_atomsOr ▸ ⟨_, rfl⟩
theorem onWarp_atomsXor {s : State} {r} : ∃ body, exec (.atomsXor r) s = onWarp (.atomsXor r) s body := exec_atomsXor ▸ ⟨_, rfl⟩
theorem onWarp_atomsExch {s : State} {r} : ∃ body, exec (.atomsExch r) s = onWarp (.atomsExch r) s body := exec_atomsExch ▸ ⟨_, rfl⟩
theorem onWarp_atomsCas {s : State} {r} : ∃ body, exec (.atomsCas r) s = onWarp (.atomsCas r) s body := exec_atomsCas ▸ ⟨_, rfl⟩
theorem onWarp_atomsAddF32 {s : State} {r} : ∃ body, exec (.atomsAddF32 r) s = onWarp (.atomsAddF32 r) s body := exec_atomsAddF32 ▸ ⟨_, rfl⟩
theorem onWarp_reds {s : State} {op} {r} : ∃ body, exec (.reds op r) s = onWarp (.reds op r) s body := exec_reds ▸ ⟨_, rfl⟩
theorem onWarp_fpush {s : State} {r} : ∃ body, exec (.fpush r) s = onWarp (.fpush r) s body := exec_fpush ▸ ⟨_, rfl⟩
theorem onWarp_fpop {s : State} {r} : ∃ body, exec (.fpop r) s = onWarp (.fpop r) s body := exec_fpop ▸ ⟨_, rfl⟩
theorem onWarp_pref {s : State} {r} : ∃ body, exec (.pref r) s = onWarp (.pref r) s body := exec_pref ▸ ⟨_, rfl⟩
theorem onWarp_chint {s : State} {r} : ∃ body, exec (.chint r) s = onWarp (.chint r) s body := exec_chint ▸ ⟨_, rfl⟩
theorem onWarp_bankcfg {s : State} {r} : ∃ body, exec (.bankcfg r) s = onWarp (.bankcfg r) s body := exec_bankcfg ▸ ⟨_, rfl⟩
theorem answers_bankcfgComplete {s : State} {core} {bank} : ∃ t, exec (.bankcfgComplete core bank) s = .next t := ⟨_, rfl⟩
theorem onWarp_phase {s : State} {r} : ∃ body, exec (.phase r) s = onWarp (.phase r) s body := exec_phase ▸ ⟨_, rfl⟩
theorem onWarp_fenceo {s : State} {r} : ∃ body, exec (.fenceo r) s = onWarp (.fenceo r) s body := exec_fenceo ▸ ⟨_, rfl⟩
theorem onWarp_fencer {s : State} {r} : ∃ body, exec (.fencer r) s = onWarp (.fencer r) s body := exec_fencer ▸ ⟨_, rfl⟩
theorem onWarp_publish {s : State} {r} : ∃ body, exec (.publish r) s = onWarp (.publish r) s body := exec_publish ▸ ⟨_, rfl⟩
theorem onWarp_shadowset {s : State} {r} : ∃ body, exec (.shadowset r) s = onWarp (.shadowset r) s body := exec_shadowset ▸ ⟨_, rfl⟩
theorem onWarp_shadowsetDel {s : State} {r} : ∃ body, exec (.shadowsetDel r) s = onWarp (.shadowsetDel r) s body := exec_shadowsetDel ▸ ⟨_, rfl⟩
theorem onWarp_ldc {s : State} {r} : ∃ body, exec (.ldc r) s = onWarp (.ldc r) s body := exec_ldc ▸ ⟨_, rfl⟩
theorem onWarp_waitu {s : State} {cmp} {r} : ∃ body, exec (.waitu cmp r) s = onWarp (.waitu cmp r) s body := exec_waitu ▸ ⟨_, rfl⟩
theorem onWarp_waitl {s : State} {cmp} {r} : ∃ body, exec (.waitl cmp r) s = onWarp (.waitl cmp r) s body := exec_waitl ▸ ⟨_, rfl⟩
theorem answers_pegRegistration {s : State} {id} : ∃ t, exec (.pegRegistration id) s = .next t := ⟨_, rfl⟩
theorem answers_pegRetry {s : State} {id} : ∃ t, exec (.pegRetry id) s = .next t := ⟨_, rfl⟩
theorem answers_homeWrite {s : State} {wid} : ∃ t, exec (.homeWrite wid) s = .next t := ⟨_, rfl⟩
theorem answers_pegTimeout {s : State} {id} : ∃ t, exec (.pegTimeout id) s = .next t := ⟨_, rfl⟩
theorem onWarp_barr {s : State} {r} : ∃ body, exec (.barr r) s = onWarp (.barr r) s body := exec_barr ▸ ⟨_, rfl⟩
theorem onWarp_bwait {s : State} {r} : ∃ body, exec (.bwait r) s = onWarp (.bwait r) s body := exec_bwait ▸ ⟨_, rfl⟩
theorem onWarp_bsetm {s : State} {r} : ∃ body, exec (.bsetm r) s = onWarp (.bsetm r) s body := exec_bsetm ▸ ⟨_, rfl⟩
theorem onWarp_tspawn {s : State} {r} : ∃ body, exec (.tspawn r) s = onWarp (.tspawn r) s body := exec_tspawn ▸ ⟨_, rfl⟩
theorem onWarp_trange {s : State} {r} : ∃ body, exec (.trange r) s = onWarp (.trange r) s body := exec_trange ▸ ⟨_, rfl⟩
theorem onWarp_tnext {s : State} {r} : ∃ body, exec (.tnext r) s = onWarp (.tnext r) s body := exec_tnext ▸ ⟨_, rfl⟩
theorem onWarp_tjoin {s : State} {r} : ∃ body, exec (.tjoin r) s = onWarp (.tjoin r) s body := exec_tjoin ▸ ⟨_, rfl⟩
theorem onWarp_tend {s : State} {r} : ∃ body, exec (.tend r) s = onWarp (.tend r) s body := exec_tend ▸ ⟨_, rfl⟩
theorem onWarp_tcancel {s : State} {r} : ∃ body, exec (.tcancel r) s = onWarp (.tcancel r) s body := exec_tcancel ▸ ⟨_, rfl⟩
theorem onWarp_tself {s : State} {r} : ∃ body, exec (.tself r) s = onWarp (.tself r) s body := exec_tself ▸ ⟨_, rfl⟩
theorem onWarp_fset {s : State} {r} : ∃ body, exec (.fset r) s = onWarp (.fset r) s body := exec_fset ▸ ⟨_, rfl⟩
theorem onWarp_fwait {s : State} {r} : ∃ body, exec (.fwait r) s = onWarp (.fwait r) s body := exec_fwait ▸ ⟨_, rfl⟩
theorem onWarp_lockw {s : State} {r} : ∃ body, exec (.lockw r) s = onWarp (.lockw r) s body := exec_lockw ▸ ⟨_, rfl⟩
theorem onWarp_unlock {s : State} {r} : ∃ body, exec (.unlock r) s = onWarp (.unlock r) s body := exec_unlock ▸ ⟨_, rfl⟩
theorem onWarp_qput {s : State} {r} : ∃ body, exec (.qput r) s = onWarp (.qput r) s body := exec_qput ▸ ⟨_, rfl⟩
theorem onWarp_qputProm {s : State} {r} : ∃ body, exec (.qputProm r) s = onWarp (.qputProm r) s body := exec_qputProm ▸ ⟨_, rfl⟩
theorem onWarp_qputFill {s : State} {r} : ∃ body, exec (.qputFill r) s = onWarp (.qputFill r) s body := exec_qputFill ▸ ⟨_, rfl⟩
theorem onWarp_qtake {s : State} {r} : ∃ body, exec (.qtake r) s = onWarp (.qtake r) s body := exec_qtake ▸ ⟨_, rfl⟩
theorem answers_darnerPop {s : State} {core} {launch} : ∃ t, exec (.darnerPop core launch) s = .next t := ⟨_, rfl⟩
theorem answers_stealRequest {s : State} {core} {launch} : ∃ t, exec (.stealRequest core launch) s = .next t := ⟨_, rfl⟩
theorem answers_stealWithdraw {s : State} {core} {launch} : ∃ t, exec (.stealWithdraw core launch) s = .next t := ⟨_, rfl⟩
theorem answers_darnerAccessFault {s : State} : ∃ t, exec (.darnerAccessFault) s = .next t := ⟨_, rfl⟩
theorem onWarp_acp {s : State} {r} : ∃ body, exec (.acp r) s = onWarp (.acp r) s body := exec_acp ▸ ⟨_, rfl⟩
theorem answers_acpLand {s : State} {core} {idx} : ∃ t, exec (.acpLand core idx) s = .next t := ⟨_, rfl⟩
theorem onWarp_acpwait {s : State} {r} : ∃ body, exec (.acpwait r) s = onWarp (.acpwait r) s body := exec_acpwait ▸ ⟨_, rfl⟩
theorem onWarp_tplset {s : State} {r} : ∃ body, exec (.tplset r) s = onWarp (.tplset r) s body := exec_tplset ▸ ⟨_, rfl⟩
theorem onWarp_swinit {s : State} {r} : ∃ body, exec (.swinit r) s = onWarp (.swinit r) s body := exec_swinit ▸ ⟨_, rfl⟩
theorem onWarp_syncw {s : State} {r} : ∃ body, exec (.syncw r) s = onWarp (.syncw r) s body := exec_syncw ▸ ⟨_, rfl⟩
theorem onWarp_btestat {s : State} {r} : ∃ body, exec (.btestat r) s = onWarp (.btestat r) s body := exec_btestat ▸ ⟨_, rfl⟩
theorem onWarp_btestatClr {s : State} {r} : ∃ body, exec (.btestatClr r) s = onWarp (.btestatClr r) s body := exec_btestatClr ▸ ⟨_, rfl⟩
theorem answers_bteRowLand {s : State} {core} {chan} {row} : ∃ t, exec (.bteRowLand core chan row) s = .next t := ⟨_, rfl⟩
theorem onWarp_gather {s : State} {r} : ∃ body, exec (.gather r) s = onWarp (.gather r) s body := exec_gather ▸ ⟨_, rfl⟩
theorem onWarp_scatter {s : State} {r} : ∃ body, exec (.scatter r) s = onWarp (.scatter r) s body := exec_scatter ▸ ⟨_, rfl⟩
theorem onWarp_scatadd {s : State} {r} : ∃ body, exec (.scatadd r) s = onWarp (.scatadd r) s body := exec_scatadd ▸ ⟨_, rfl⟩
theorem onWarp_gswait {s : State} {r} : ∃ body, exec (.gswait r) s = onWarp (.gswait r) s body := exec_gswait ▸ ⟨_, rfl⟩
theorem onWarp_gswaitDup {s : State} {r} : ∃ body, exec (.gswaitDup r) s = onWarp (.gswaitDup r) s body := exec_gswaitDup ▸ ⟨_, rfl⟩
theorem onWarp_gswaitOut {s : State} {r} : ∃ body, exec (.gswaitOut r) s = onWarp (.gswaitOut r) s body := exec_gswaitOut ▸ ⟨_, rfl⟩
theorem answers_seamRowRequest {s : State} {die} {cmd} {entry} : ∃ t, exec (.seamRowRequest die cmd entry) s = .next t := ⟨_, rfl⟩
theorem answers_seamEntryLand {s : State} {die} {cmd} {entry} : ∃ t, exec (.seamEntryLand die cmd entry) s = .next t := ⟨_, rfl⟩
theorem onWarp_tslice {s : State} {t} : ∃ body, exec (.tslice t) s = onWarp (.tslice t) s body := exec_tslice ▸ ⟨_, rfl⟩
theorem onWarp_tbind {s : State} {x} : ∃ body, exec (.tbind x) s = onWarp (.tbind x) s body := exec_tbind ▸ ⟨_, rfl⟩
theorem onWarp_tzero {s : State} {x} : ∃ body, exec (.tzero x) s = onWarp (.tzero x) s body := exec_tzero ▸ ⟨_, rfl⟩
theorem onWarp_mxlw {s : State} {x} : ∃ body, exec (.mxlw x) s = onWarp (.mxlw x) s body := exec_mxlw ▸ ⟨_, rfl⟩
theorem onWarp_mxswap {s : State} {x} : ∃ body, exec (.mxswap x) s = onWarp (.mxswap x) s body := exec_mxswap ▸ ⟨_, rfl⟩
theorem onWarp_mxmm {s : State} {x} : ∃ body, exec (.mxmm x) s = onWarp (.mxmm x) s body := exec_mxmm ▸ ⟨_, rfl⟩
theorem onWarp_mxmms {s : State} {x} : ∃ body, exec (.mxmms x) s = onWarp (.mxmms x) s body := exec_mxmms ▸ ⟨_, rfl⟩
theorem onWarp_mxep {s : State} {x} : ∃ body, exec (.mxep x) s = onWarp (.mxep x) s body := exec_mxep ▸ ⟨_, rfl⟩
theorem onWarp_mxsel {s : State} {x} : ∃ body, exec (.mxsel x) s = onWarp (.mxsel x) s body := exec_mxsel ▸ ⟨_, rfl⟩
theorem onWarp_mxselRead {s : State} {x} : ∃ body, exec (.mxselRead x) s = onWarp (.mxselRead x) s body := exec_mxselRead ▸ ⟨_, rfl⟩
theorem onWarp_accld {s : State} {x} : ∃ body, exec (.accld x) s = onWarp (.accld x) s body := exec_accld ▸ ⟨_, rfl⟩
theorem onWarp_accst {s : State} {x} : ∃ body, exec (.accst x) s = onWarp (.accst x) s body := exec_accst ▸ ⟨_, rfl⟩
theorem onWarp_accz {s : State} {x} : ∃ body, exec (.accz x) s = onWarp (.accz x) s body := exec_accz ▸ ⟨_, rfl⟩
theorem onWarp_mxsave {s : State} {x} : ∃ body, exec (.mxsave x) s = onWarp (.mxsave x) s body := exec_mxsave ▸ ⟨_, rfl⟩
theorem onWarp_mxload {s : State} {x} : ∃ body, exec (.mxload x) s = onWarp (.mxload x) s body := exec_mxload ▸ ⟨_, rfl⟩
theorem answers_pressCommandComplete {s : State} {core} : ∃ t, exec (.pressCommandComplete core) s = .next t := ⟨_, rfl⟩
theorem onWarp_tpset {s : State} {k} : ∃ body, exec (.tpset k) s = onWarp (.tpset k) s body := exec_tpset ▸ ⟨_, rfl⟩
theorem onWarp_tplogAnd {s : State} {k} : ∃ body, exec (.tplogAnd k) s = onWarp (.tplogAnd k) s body := exec_tplogAnd ▸ ⟨_, rfl⟩
theorem onWarp_tplogOr {s : State} {k} : ∃ body, exec (.tplogOr k) s = onWarp (.tplogOr k) s body := exec_tplogOr ▸ ⟨_, rfl⟩
theorem onWarp_tplogXor {s : State} {k} : ∃ body, exec (.tplogXor k) s = onWarp (.tplogXor k) s body := exec_tplogXor ▸ ⟨_, rfl⟩
theorem onWarp_tplogAndn {s : State} {k} : ∃ body, exec (.tplogAndn k) s = onWarp (.tplogAndn k) s body := exec_tplogAndn ▸ ⟨_, rfl⟩
theorem onWarp_mxseq {s : State} {r} : ∃ body, exec (.mxseq r) s = onWarp (.mxseq r) s body := exec_mxseq ▸ ⟨_, rfl⟩
theorem onWarp_mxwait {s : State} {r} : ∃ body, exec (.mxwait r) s = onWarp (.mxwait r) s body := exec_mxwait ▸ ⟨_, rfl⟩
theorem onWarp_mxwaitOut {s : State} {r} : ∃ body, exec (.mxwaitOut r) s = onWarp (.mxwaitOut r) s body := exec_mxwaitOut ▸ ⟨_, rfl⟩
theorem onWarp_bmv {s : State} {r} : ∃ body, exec (.bmv r) s = onWarp (.bmv r) s body := exec_bmv ▸ ⟨_, rfl⟩
theorem onWarp_bfenceW {s : State} {r} : ∃ body, exec (.bfenceW r) s = onWarp (.bfenceW r) s body := exec_bfenceW ▸ ⟨_, rfl⟩
theorem onWarp_bfenceR {s : State} {r} : ∃ body, exec (.bfenceR r) s = onWarp (.bfenceR r) s body := exec_bfenceR ▸ ⟨_, rfl⟩
theorem onWarp_bmwait {s : State} {r} : ∃ body, exec (.bmwait r) s = onWarp (.bmwait r) s body := exec_bmwait ▸ ⟨_, rfl⟩
theorem onWarp_bmwaitAll {s : State} {r} : ∃ body, exec (.bmwaitAll r) s = onWarp (.bmwaitAll r) s body := exec_bmwaitAll ▸ ⟨_, rfl⟩
theorem onWarp_bmwaitSeq {s : State} {r} : ∃ body, exec (.bmwaitSeq r) s = onWarp (.bmwaitSeq r) s body := exec_bmwaitSeq ▸ ⟨_, rfl⟩
theorem onWarp_bmwaitLast {s : State} {r} : ∃ body, exec (.bmwaitLast r) s = onWarp (.bmwaitLast r) s body := exec_bmwaitLast ▸ ⟨_, rfl⟩
theorem answers_bcuCommandComplete {s : State} {wid} : ∃ t, exec (.bcuCommandComplete wid) s = .next t := ⟨_, rfl⟩
theorem onWarp_xres {s : State} {r} : ∃ body, exec (.xres r) s = onWarp (.xres r) s body := exec_xres ▸ ⟨_, rfl⟩
theorem onWarp_xresRel {s : State} {r} : ∃ body, exec (.xresRel r) s = onWarp (.xresRel r) s body := exec_xresRel ▸ ⟨_, rfl⟩
theorem onWarp_xhit {s : State} {r} : ∃ body, exec (.xhit r) s = onWarp (.xhit r) s body := exec_xhit ▸ ⟨_, rfl⟩
theorem onWarp_xage {s : State} {r} : ∃ body, exec (.xage r) s = onWarp (.xage r) s body := exec_xage ▸ ⟨_, rfl⟩
theorem onWarp_xageNow {s : State} {r} : ∃ body, exec (.xageNow r) s = onWarp (.xageNow r) s body := exec_xageNow ▸ ⟨_, rfl⟩
theorem onWarp_xquery {s : State} {r} : ∃ body, exec (.xquery r) s = onWarp (.xquery r) s body := exec_xquery ▸ ⟨_, rfl⟩
theorem answers_hamperStagingComplete {s : State} {idx} : ∃ t, exec (.hamperStagingComplete idx) s = .next t := ⟨_, rfl⟩
theorem answers_hamperAgeingStep {s : State} {asid} : ∃ t, exec (.hamperAgeingStep asid) s = .next t := ⟨_, rfl⟩
theorem onWarp_trap {s : State} {r} : ∃ body, exec (.trap r) s = onWarp (.trap r) s body := exec_trap ▸ ⟨_, rfl⟩
theorem onWarp_tret {s : State} {r} : ∃ body, exec (.tret r) s = onWarp (.tret r) s body := exec_tret ▸ ⟨_, rfl⟩
theorem onWarp_tretSkip {s : State} {r} : ∃ body, exec (.tretSkip r) s = onWarp (.tretSkip r) s body := exec_tretSkip ▸ ⟨_, rfl⟩
theorem onWarp_rdctl {s : State} {r} : ∃ body, exec (.rdctl r) s = onWarp (.rdctl r) s body := exec_rdctl ▸ ⟨_, rfl⟩
theorem onWarp_wrctl {s : State} {r} : ∃ body, exec (.wrctl r) s = onWarp (.wrctl r) s body := exec_wrctl ▸ ⟨_, rfl⟩
theorem onWarp_ctxsave {s : State} {r} : ∃ body, exec (.ctxsave r) s = onWarp (.ctxsave r) s body := exec_ctxsave ▸ ⟨_, rfl⟩
theorem onWarp_ctxload {s : State} {r} : ∃ body, exec (.ctxload r) s = onWarp (.ctxload r) s body := exec_ctxload ▸ ⟨_, rfl⟩
theorem onWarp_ctxloadRearm {s : State} {r} : ∃ body, exec (.ctxloadRearm r) s = onWarp (.ctxloadRearm r) s body := exec_ctxloadRearm ▸ ⟨_, rfl⟩
theorem onWarp_tlbinv {s : State} {r} : ∃ body, exec (.tlbinv r) s = onWarp (.tlbinv r) s body := exec_tlbinv ▸ ⟨_, rfl⟩
theorem onWarp_smcVersion {s : State} {r} : ∃ body, exec (.smcVersion r) s = onWarp (.smcVersion r) s body := exec_smcVersion ▸ ⟨_, rfl⟩
theorem onWarp_smcAttest {s : State} {r} : ∃ body, exec (.smcAttest r) s = onWarp (.smcAttest r) s body := exec_smcAttest ▸ ⟨_, rfl⟩
theorem onWarp_smcLoadKeySlot {s : State} {r} : ∃ body, exec (.smcLoadKeySlot r) s = onWarp (.smcLoadKeySlot r) s body := exec_smcLoadKeySlot ▸ ⟨_, rfl⟩
theorem onWarp_smcSetRegionEntry {s : State} {r} : ∃ body, exec (.smcSetRegionEntry r) s = onWarp (.smcSetRegionEntry r) s body := exec_smcSetRegionEntry ▸ ⟨_, rfl⟩
theorem onWarp_smcReadErrorCounters {s : State} {r} : ∃ body, exec (.smcReadErrorCounters r) s = onWarp (.smcReadErrorCounters r) s body := exec_smcReadErrorCounters ▸ ⟨_, rfl⟩
theorem onWarp_smcPowerState {s : State} {r} : ∃ body, exec (.smcPowerState r) s = onWarp (.smcPowerState r) s body := exec_smcPowerState ▸ ⟨_, rfl⟩
theorem onWarp_smcSnapshot {s : State} {r} : ∃ body, exec (.smcSnapshot r) s = onWarp (.smcSnapshot r) s body := exec_smcSnapshot ▸ ⟨_, rfl⟩
theorem onWarp_smcBindFabricJob {s : State} {r} : ∃ body, exec (.smcBindFabricJob r) s = onWarp (.smcBindFabricJob r) s body := exec_smcBindFabricJob ▸ ⟨_, rfl⟩
theorem onWarp_smcLoadSnapshot {s : State} {r} : ∃ body, exec (.smcLoadSnapshot r) s = onWarp (.smcLoadSnapshot r) s body := exec_smcLoadSnapshot ▸ ⟨_, rfl⟩
theorem answers_registerWritePerformed {s : State} {wid} {lane} {reg} : ∃ t, exec (.registerWritePerformed wid lane reg) s = .next t := ⟨_, rfl⟩
theorem answers_impreciseStoreFault {s : State} : ∃ t, exec (.impreciseStoreFault) s = .next t := ⟨_, rfl⟩
theorem answers_chunkClaim {s : State} {core} {launch} : ∃ t, exec (.chunkClaim core launch) s = .next t := ⟨_, rfl⟩
theorem answers_warpEvictionSave {s : State} {wid} : ∃ t, exec (.warpEvictionSave wid) s = .next t := ⟨_, rfl⟩
theorem answers_warpRestore {s : State} {wid} : ∃ t, exec (.warpRestore wid) s = .next t := ⟨_, rfl⟩
theorem answers_contextCreate {s : State} {asid} : ∃ t, exec (.contextCreate asid) s = .next t := ⟨_, rfl⟩
theorem answers_cpServeEntry {s : State} {asid} {queue} : ∃ t, exec (.cpServeEntry asid queue) s = .next t := ⟨_, rfl⟩
theorem answers_nodeKernel {s : State} {graph} : ∃ t, exec (.nodeKernel graph) s = .next t := ⟨_, rfl⟩
theorem answers_nodeTaskroot {s : State} {graph} : ∃ t, exec (.nodeTaskroot graph) s = .next t := ⟨_, rfl⟩
theorem answers_nodeCopy {s : State} {graph} : ∃ t, exec (.nodeCopy graph) s = .next t := ⟨_, rfl⟩
theorem answers_copyNodeComplete {s : State} {graph} : ∃ t, exec (.copyNodeComplete graph) s = .next t := ⟨_, rfl⟩
theorem answers_nodeCond {s : State} {graph} : ∃ t, exec (.nodeCond graph) s = .next t := ⟨_, rfl⟩
theorem answers_nodeLoop {s : State} {graph} : ∃ t, exec (.nodeLoop graph) s = .next t := ⟨_, rfl⟩
theorem answers_nodeWaitmem {s : State} {graph} : ∃ t, exec (.nodeWaitmem graph) s = .next t := ⟨_, rfl⟩
theorem answers_nodeSignal {s : State} {graph} : ∃ t, exec (.nodeSignal graph) s = .next t := ⟨_, rfl⟩
theorem answers_nodeEnd {s : State} {graph} : ∃ t, exec (.nodeEnd graph) s = .next t := ⟨_, rfl⟩
theorem answers_hostWrite {s : State} {pa} {data} : ∃ t, exec (.hostWrite pa data) s = .next t := ⟨_, rfl⟩
theorem answers_hostRead {s : State} {addr} : ∃ t, exec (.hostRead addr) s = .next t := ⟨_, rfl⟩
theorem answers_flitReceive {s : State} {link} {flit} : ∃ t, exec (.flitReceive link flit) s = .next t := ⟨_, rfl⟩
theorem answers_linkHeartbeat {s : State} {link} : ∃ t, exec (.linkHeartbeat link) s = .next t := ⟨_, rfl⟩
theorem answers_moduleFailureDetect {s : State} {modId} : ∃ t, exec (.moduleFailureDetect modId) s = .next t := ⟨_, rfl⟩
theorem answers_moduleReset {s : State} : ∃ t, exec (.moduleReset) s = .next t := ⟨_, rfl⟩
theorem answers_bringupStage {s : State} {ok} {detail} : ∃ t, exec (.bringupStage ok detail) s = .next t := ⟨_, rfl⟩
theorem answers_powerStateChange {s : State} {state} {mhz} {watts} : ∃ t, exec (.powerStateChange state mhz watts) s = .next t := ⟨_, rfl⟩
theorem answers_warpWaitDeadline {s : State} {wid} : ∃ t, exec (.warpWaitDeadline wid) s = .next t := ⟨_, rfl⟩
theorem answers_pipeIntervalEnd {s : State} {core} {quarter} {pipe} : ∃ t, exec (.pipeIntervalEnd core quarter pipe) s = .next t := ⟨_, rfl⟩

end Sys2Proof.Machine
end

