-- ==== Sys2Proof/Laws/State.lean ====
section
/-! SUPPORT. What each field holds after each change of the machine and of a warp: one equation a field and change, so that no proof unfolds a record update. -/

namespace Sys2Proof.Machine

/-! ### Changes of the machine -/

@[simp] theorem State.setRun_turn (s : State) (wid : Nat) (w : WarpCore) : (s.setRun wid w).turn = s.turn := rfl
@[simp] theorem State.setRun_free (s : State) (wid : Nat) (w : WarpCore) : (s.setRun wid w).free = s.free := rfl
@[simp] theorem State.setRun_cur (s : State) (wid : Nat) (w : WarpCore) : (s.setRun wid w).cur = s.cur := rfl
@[simp] theorem State.setRun_boot (s : State) (wid : Nat) (w : WarpCore) : (s.setRun wid w).boot = s.boot := rfl
@[simp] theorem State.setRun_fw (s : State) (wid : Nat) (w : WarpCore) : (s.setRun wid w).fw = s.fw := rfl
@[simp] theorem State.setRun_ns (s : State) (wid : Nat) (w : WarpCore) : (s.setRun wid w).ns = s.ns := rfl
@[simp] theorem State.setRun_clk (s : State) (wid : Nat) (w : WarpCore) : (s.setRun wid w).clk = s.clk := rfl
@[simp] theorem State.setRun_mem (s : State) (wid : Nat) (w : WarpCore) : (s.setRun wid w).mem = s.mem := rfl
@[simp] theorem State.setRun_hist (s : State) (wid : Nat) (w : WarpCore) : (s.setRun wid w).hist = s.hist := rfl
@[simp] theorem State.setRun_seq (s : State) (wid : Nat) (w : WarpCore) : (s.setRun wid w).seq = s.seq := rfl
@[simp] theorem State.setRun_byteKeys (s : State) (wid : Nat) (w : WarpCore) : (s.setRun wid w).byteKeys = s.byteKeys := rfl
@[simp] theorem State.setRun_llc (s : State) (wid : Nat) (w : WarpCore) : (s.setRun wid w).llc = s.llc := rfl
@[simp] theorem State.setRun_l1 (s : State) (wid : Nat) (w : WarpCore) : (s.setRun wid w).l1 = s.l1 := rfl
@[simp] theorem State.setRun_uses (s : State) (wid : Nat) (w : WarpCore) : (s.setRun wid w).uses = s.uses := rfl
@[simp] theorem State.setRun_poison (s : State) (wid : Nat) (w : WarpCore) : (s.setRun wid w).poison = s.poison := rfl
@[simp] theorem State.setRun_undef (s : State) (wid : Nat) (w : WarpCore) : (s.setRun wid w).undef = s.undef := rfl
@[simp] theorem State.setRun_syncs (s : State) (wid : Nat) (w : WarpCore) : (s.setRun wid w).syncs = s.syncs := rfl
@[simp] theorem State.setRun_mixed (s : State) (wid : Nat) (w : WarpCore) : (s.setRun wid w).mixed = s.mixed := rfl
@[simp] theorem State.setRun_tlb (s : State) (wid : Nat) (w : WarpCore) : (s.setRun wid w).tlb = s.tlb := rfl
@[simp] theorem State.setRun_tlbinvs (s : State) (wid : Nat) (w : WarpCore) : (s.setRun wid w).tlbinvs = s.tlbinvs := rfl
@[simp] theorem State.setRun_cores (s : State) (wid : Nat) (w : WarpCore) : (s.setRun wid w).cores = s.cores := rfl
@[simp] theorem State.setRun_warps (s : State) (wid : Nat) (w : WarpCore) : (s.setRun wid w).warps = s.warps.modify wid (fun x => { x with run := w.settle }) := rfl
@[simp] theorem State.setRun_saved (s : State) (wid : Nat) (w : WarpCore) : (s.setRun wid w).saved = s.saved := rfl
@[simp] theorem State.setRun_evicting (s : State) (wid : Nat) (w : WarpCore) : (s.setRun wid w).evicting = s.evicting := rfl
@[simp] theorem State.setRun_bankSaves (s : State) (wid : Nat) (w : WarpCore) : (s.setRun wid w).bankSaves = s.bankSaves := rfl
@[simp] theorem State.setRun_widens (s : State) (wid : Nat) (w : WarpCore) : (s.setRun wid w).widens = s.widens := rfl
@[simp] theorem State.setRun_gathers (s : State) (wid : Nat) (w : WarpCore) : (s.setRun wid w).gathers = s.gathers := rfl
@[simp] theorem State.setRun_keyeds (s : State) (wid : Nat) (w : WarpCore) : (s.setRun wid w).keyeds = s.keyeds := rfl
@[simp] theorem State.setRun_regs (s : State) (wid : Nat) (w : WarpCore) : (s.setRun wid w).regs = s.regs := rfl
@[simp] theorem State.setRun_barriers (s : State) (wid : Nat) (w : WarpCore) : (s.setRun wid w).barriers = s.barriers := rfl
@[simp] theorem State.setRun_launches (s : State) (wid : Nat) (w : WarpCore) : (s.setRun wid w).launches = s.launches := rfl
@[simp] theorem State.setRun_nextLaunch (s : State) (wid : Nat) (w : WarpCore) : (s.setRun wid w).nextLaunch = s.nextLaunch := rfl
@[simp] theorem State.setRun_ctxs (s : State) (wid : Nat) (w : WarpCore) : (s.setRun wid w).ctxs = s.ctxs := rfl
@[simp] theorem State.setRun_graphs (s : State) (wid : Nat) (w : WarpCore) : (s.setRun wid w).graphs = s.graphs := rfl
@[simp] theorem State.setRun_seams (s : State) (wid : Nat) (w : WarpCore) : (s.setRun wid w).seams = s.seams := rfl
@[simp] theorem State.setRun_bcus (s : State) (wid : Nat) (w : WarpCore) : (s.setRun wid w).bcus = s.bcus := rfl
@[simp] theorem State.setRun_stagings (s : State) (wid : Nat) (w : WarpCore) : (s.setRun wid w).stagings = s.stagings := rfl
@[simp] theorem State.setRun_denied (s : State) (wid : Nat) (w : WarpCore) : (s.setRun wid w).denied = s.denied := rfl
@[simp] theorem State.setRun_darnerFaults (s : State) (wid : Nat) (w : WarpCore) : (s.setRun wid w).darnerFaults = s.darnerFaults := rfl
@[simp] theorem State.setRun_jobs (s : State) (wid : Nat) (w : WarpCore) : (s.setRun wid w).jobs = s.jobs := rfl
@[simp] theorem State.setRun_snapshots (s : State) (wid : Nat) (w : WarpCore) : (s.setRun wid w).snapshots = s.snapshots := rfl
@[simp] theorem State.setRun_images (s : State) (wid : Nat) (w : WarpCore) : (s.setRun wid w).images = s.images := rfl
@[simp] theorem State.setRun_links (s : State) (wid : Nat) (w : WarpCore) : (s.setRun wid w).links = s.links := rfl
@[simp] theorem State.setRun_heard (s : State) (wid : Nat) (w : WarpCore) : (s.setRun wid w).heard = s.heard := rfl
@[simp] theorem State.setRun_isolated (s : State) (wid : Nat) (w : WarpCore) : (s.setRun wid w).isolated = s.isolated := rfl
@[simp] theorem State.setRun_keys (s : State) (wid : Nat) (w : WarpCore) : (s.setRun wid w).keys = s.keys := rfl
@[simp] theorem State.setRun_keyRing (s : State) (wid : Nat) (w : WarpCore) : (s.setRun wid w).keyRing = s.keyRing := rfl
@[simp] theorem State.setRun_regions (s : State) (wid : Nat) (w : WarpCore) : (s.setRun wid w).regions = s.regions := rfl
@[simp] theorem State.setRun_counters (s : State) (wid : Nat) (w : WarpCore) : (s.setRun wid w).counters = s.counters := rfl
@[simp] theorem State.setRun_marks (s : State) (wid : Nat) (w : WarpCore) : (s.setRun wid w).marks = s.marks := rfl

@[simp] theorem State.modRun_turn (s : State) (wid : Nat) (f : WarpCore → WarpCore) : (s.modRun wid f).turn = s.turn := rfl
@[simp] theorem State.modRun_free (s : State) (wid : Nat) (f : WarpCore → WarpCore) : (s.modRun wid f).free = s.free := rfl
@[simp] theorem State.modRun_cur (s : State) (wid : Nat) (f : WarpCore → WarpCore) : (s.modRun wid f).cur = s.cur := rfl
@[simp] theorem State.modRun_boot (s : State) (wid : Nat) (f : WarpCore → WarpCore) : (s.modRun wid f).boot = s.boot := rfl
@[simp] theorem State.modRun_fw (s : State) (wid : Nat) (f : WarpCore → WarpCore) : (s.modRun wid f).fw = s.fw := rfl
@[simp] theorem State.modRun_ns (s : State) (wid : Nat) (f : WarpCore → WarpCore) : (s.modRun wid f).ns = s.ns := rfl
@[simp] theorem State.modRun_clk (s : State) (wid : Nat) (f : WarpCore → WarpCore) : (s.modRun wid f).clk = s.clk := rfl
@[simp] theorem State.modRun_mem (s : State) (wid : Nat) (f : WarpCore → WarpCore) : (s.modRun wid f).mem = s.mem := rfl
@[simp] theorem State.modRun_hist (s : State) (wid : Nat) (f : WarpCore → WarpCore) : (s.modRun wid f).hist = s.hist := rfl
@[simp] theorem State.modRun_seq (s : State) (wid : Nat) (f : WarpCore → WarpCore) : (s.modRun wid f).seq = s.seq := rfl
@[simp] theorem State.modRun_byteKeys (s : State) (wid : Nat) (f : WarpCore → WarpCore) : (s.modRun wid f).byteKeys = s.byteKeys := rfl
@[simp] theorem State.modRun_llc (s : State) (wid : Nat) (f : WarpCore → WarpCore) : (s.modRun wid f).llc = s.llc := rfl
@[simp] theorem State.modRun_l1 (s : State) (wid : Nat) (f : WarpCore → WarpCore) : (s.modRun wid f).l1 = s.l1 := rfl
@[simp] theorem State.modRun_uses (s : State) (wid : Nat) (f : WarpCore → WarpCore) : (s.modRun wid f).uses = s.uses := rfl
@[simp] theorem State.modRun_poison (s : State) (wid : Nat) (f : WarpCore → WarpCore) : (s.modRun wid f).poison = s.poison := rfl
@[simp] theorem State.modRun_undef (s : State) (wid : Nat) (f : WarpCore → WarpCore) : (s.modRun wid f).undef = s.undef := rfl
@[simp] theorem State.modRun_syncs (s : State) (wid : Nat) (f : WarpCore → WarpCore) : (s.modRun wid f).syncs = s.syncs := rfl
@[simp] theorem State.modRun_mixed (s : State) (wid : Nat) (f : WarpCore → WarpCore) : (s.modRun wid f).mixed = s.mixed := rfl
@[simp] theorem State.modRun_tlb (s : State) (wid : Nat) (f : WarpCore → WarpCore) : (s.modRun wid f).tlb = s.tlb := rfl
@[simp] theorem State.modRun_tlbinvs (s : State) (wid : Nat) (f : WarpCore → WarpCore) : (s.modRun wid f).tlbinvs = s.tlbinvs := rfl
@[simp] theorem State.modRun_cores (s : State) (wid : Nat) (f : WarpCore → WarpCore) : (s.modRun wid f).cores = s.cores := rfl
@[simp] theorem State.modRun_warps (s : State) (wid : Nat) (f : WarpCore → WarpCore) : (s.modRun wid f).warps = s.warps.modify wid (fun x => { x with run := (f x.run).settle }) := rfl
@[simp] theorem State.modRun_saved (s : State) (wid : Nat) (f : WarpCore → WarpCore) : (s.modRun wid f).saved = s.saved := rfl
@[simp] theorem State.modRun_evicting (s : State) (wid : Nat) (f : WarpCore → WarpCore) : (s.modRun wid f).evicting = s.evicting := rfl
@[simp] theorem State.modRun_bankSaves (s : State) (wid : Nat) (f : WarpCore → WarpCore) : (s.modRun wid f).bankSaves = s.bankSaves := rfl
@[simp] theorem State.modRun_widens (s : State) (wid : Nat) (f : WarpCore → WarpCore) : (s.modRun wid f).widens = s.widens := rfl
@[simp] theorem State.modRun_gathers (s : State) (wid : Nat) (f : WarpCore → WarpCore) : (s.modRun wid f).gathers = s.gathers := rfl
@[simp] theorem State.modRun_keyeds (s : State) (wid : Nat) (f : WarpCore → WarpCore) : (s.modRun wid f).keyeds = s.keyeds := rfl
@[simp] theorem State.modRun_regs (s : State) (wid : Nat) (f : WarpCore → WarpCore) : (s.modRun wid f).regs = s.regs := rfl
@[simp] theorem State.modRun_barriers (s : State) (wid : Nat) (f : WarpCore → WarpCore) : (s.modRun wid f).barriers = s.barriers := rfl
@[simp] theorem State.modRun_launches (s : State) (wid : Nat) (f : WarpCore → WarpCore) : (s.modRun wid f).launches = s.launches := rfl
@[simp] theorem State.modRun_nextLaunch (s : State) (wid : Nat) (f : WarpCore → WarpCore) : (s.modRun wid f).nextLaunch = s.nextLaunch := rfl
@[simp] theorem State.modRun_ctxs (s : State) (wid : Nat) (f : WarpCore → WarpCore) : (s.modRun wid f).ctxs = s.ctxs := rfl
@[simp] theorem State.modRun_graphs (s : State) (wid : Nat) (f : WarpCore → WarpCore) : (s.modRun wid f).graphs = s.graphs := rfl
@[simp] theorem State.modRun_seams (s : State) (wid : Nat) (f : WarpCore → WarpCore) : (s.modRun wid f).seams = s.seams := rfl
@[simp] theorem State.modRun_bcus (s : State) (wid : Nat) (f : WarpCore → WarpCore) : (s.modRun wid f).bcus = s.bcus := rfl
@[simp] theorem State.modRun_stagings (s : State) (wid : Nat) (f : WarpCore → WarpCore) : (s.modRun wid f).stagings = s.stagings := rfl
@[simp] theorem State.modRun_denied (s : State) (wid : Nat) (f : WarpCore → WarpCore) : (s.modRun wid f).denied = s.denied := rfl
@[simp] theorem State.modRun_darnerFaults (s : State) (wid : Nat) (f : WarpCore → WarpCore) : (s.modRun wid f).darnerFaults = s.darnerFaults := rfl
@[simp] theorem State.modRun_jobs (s : State) (wid : Nat) (f : WarpCore → WarpCore) : (s.modRun wid f).jobs = s.jobs := rfl
@[simp] theorem State.modRun_snapshots (s : State) (wid : Nat) (f : WarpCore → WarpCore) : (s.modRun wid f).snapshots = s.snapshots := rfl
@[simp] theorem State.modRun_images (s : State) (wid : Nat) (f : WarpCore → WarpCore) : (s.modRun wid f).images = s.images := rfl
@[simp] theorem State.modRun_links (s : State) (wid : Nat) (f : WarpCore → WarpCore) : (s.modRun wid f).links = s.links := rfl
@[simp] theorem State.modRun_heard (s : State) (wid : Nat) (f : WarpCore → WarpCore) : (s.modRun wid f).heard = s.heard := rfl
@[simp] theorem State.modRun_isolated (s : State) (wid : Nat) (f : WarpCore → WarpCore) : (s.modRun wid f).isolated = s.isolated := rfl
@[simp] theorem State.modRun_keys (s : State) (wid : Nat) (f : WarpCore → WarpCore) : (s.modRun wid f).keys = s.keys := rfl
@[simp] theorem State.modRun_keyRing (s : State) (wid : Nat) (f : WarpCore → WarpCore) : (s.modRun wid f).keyRing = s.keyRing := rfl
@[simp] theorem State.modRun_regions (s : State) (wid : Nat) (f : WarpCore → WarpCore) : (s.modRun wid f).regions = s.regions := rfl
@[simp] theorem State.modRun_counters (s : State) (wid : Nat) (f : WarpCore → WarpCore) : (s.modRun wid f).counters = s.counters := rfl
@[simp] theorem State.modRun_marks (s : State) (wid : Nat) (f : WarpCore → WarpCore) : (s.modRun wid f).marks = s.marks := rfl

@[simp] theorem State.modTok_turn (s : State) (token : Nat) (f : WarpCore → WarpCore) : (s.modTok token f).turn = s.turn := rfl
@[simp] theorem State.modTok_free (s : State) (token : Nat) (f : WarpCore → WarpCore) : (s.modTok token f).free = s.free := rfl
@[simp] theorem State.modTok_cur (s : State) (token : Nat) (f : WarpCore → WarpCore) : (s.modTok token f).cur = s.cur := rfl
@[simp] theorem State.modTok_boot (s : State) (token : Nat) (f : WarpCore → WarpCore) : (s.modTok token f).boot = s.boot := rfl
@[simp] theorem State.modTok_fw (s : State) (token : Nat) (f : WarpCore → WarpCore) : (s.modTok token f).fw = s.fw := rfl
@[simp] theorem State.modTok_ns (s : State) (token : Nat) (f : WarpCore → WarpCore) : (s.modTok token f).ns = s.ns := rfl
@[simp] theorem State.modTok_clk (s : State) (token : Nat) (f : WarpCore → WarpCore) : (s.modTok token f).clk = s.clk := rfl
@[simp] theorem State.modTok_mem (s : State) (token : Nat) (f : WarpCore → WarpCore) : (s.modTok token f).mem = s.mem := rfl
@[simp] theorem State.modTok_hist (s : State) (token : Nat) (f : WarpCore → WarpCore) : (s.modTok token f).hist = s.hist := rfl
@[simp] theorem State.modTok_seq (s : State) (token : Nat) (f : WarpCore → WarpCore) : (s.modTok token f).seq = s.seq := rfl
@[simp] theorem State.modTok_byteKeys (s : State) (token : Nat) (f : WarpCore → WarpCore) : (s.modTok token f).byteKeys = s.byteKeys := rfl
@[simp] theorem State.modTok_llc (s : State) (token : Nat) (f : WarpCore → WarpCore) : (s.modTok token f).llc = s.llc := rfl
@[simp] theorem State.modTok_l1 (s : State) (token : Nat) (f : WarpCore → WarpCore) : (s.modTok token f).l1 = s.l1 := rfl
@[simp] theorem State.modTok_uses (s : State) (token : Nat) (f : WarpCore → WarpCore) : (s.modTok token f).uses = s.uses := rfl
@[simp] theorem State.modTok_poison (s : State) (token : Nat) (f : WarpCore → WarpCore) : (s.modTok token f).poison = s.poison := rfl
@[simp] theorem State.modTok_undef (s : State) (token : Nat) (f : WarpCore → WarpCore) : (s.modTok token f).undef = s.undef := rfl
@[simp] theorem State.modTok_syncs (s : State) (token : Nat) (f : WarpCore → WarpCore) : (s.modTok token f).syncs = s.syncs := rfl
@[simp] theorem State.modTok_mixed (s : State) (token : Nat) (f : WarpCore → WarpCore) : (s.modTok token f).mixed = s.mixed := rfl
@[simp] theorem State.modTok_tlb (s : State) (token : Nat) (f : WarpCore → WarpCore) : (s.modTok token f).tlb = s.tlb := rfl
@[simp] theorem State.modTok_tlbinvs (s : State) (token : Nat) (f : WarpCore → WarpCore) : (s.modTok token f).tlbinvs = s.tlbinvs := rfl
@[simp] theorem State.modTok_cores (s : State) (token : Nat) (f : WarpCore → WarpCore) : (s.modTok token f).cores = s.cores := rfl
@[simp] theorem State.modTok_evicting (s : State) (token : Nat) (f : WarpCore → WarpCore) : (s.modTok token f).evicting = s.evicting := rfl
@[simp] theorem State.modTok_bankSaves (s : State) (token : Nat) (f : WarpCore → WarpCore) : (s.modTok token f).bankSaves = s.bankSaves := rfl
@[simp] theorem State.modTok_widens (s : State) (token : Nat) (f : WarpCore → WarpCore) : (s.modTok token f).widens = s.widens := rfl
@[simp] theorem State.modTok_gathers (s : State) (token : Nat) (f : WarpCore → WarpCore) : (s.modTok token f).gathers = s.gathers := rfl
@[simp] theorem State.modTok_keyeds (s : State) (token : Nat) (f : WarpCore → WarpCore) : (s.modTok token f).keyeds = s.keyeds := rfl
@[simp] theorem State.modTok_regs (s : State) (token : Nat) (f : WarpCore → WarpCore) : (s.modTok token f).regs = s.regs := rfl
@[simp] theorem State.modTok_barriers (s : State) (token : Nat) (f : WarpCore → WarpCore) : (s.modTok token f).barriers = s.barriers := rfl
@[simp] theorem State.modTok_launches (s : State) (token : Nat) (f : WarpCore → WarpCore) : (s.modTok token f).launches = s.launches := rfl
@[simp] theorem State.modTok_nextLaunch (s : State) (token : Nat) (f : WarpCore → WarpCore) : (s.modTok token f).nextLaunch = s.nextLaunch := rfl
@[simp] theorem State.modTok_ctxs (s : State) (token : Nat) (f : WarpCore → WarpCore) : (s.modTok token f).ctxs = s.ctxs := rfl
@[simp] theorem State.modTok_graphs (s : State) (token : Nat) (f : WarpCore → WarpCore) : (s.modTok token f).graphs = s.graphs := rfl
@[simp] theorem State.modTok_seams (s : State) (token : Nat) (f : WarpCore → WarpCore) : (s.modTok token f).seams = s.seams := rfl
@[simp] theorem State.modTok_bcus (s : State) (token : Nat) (f : WarpCore → WarpCore) : (s.modTok token f).bcus = s.bcus := rfl
@[simp] theorem State.modTok_stagings (s : State) (token : Nat) (f : WarpCore → WarpCore) : (s.modTok token f).stagings = s.stagings := rfl
@[simp] theorem State.modTok_denied (s : State) (token : Nat) (f : WarpCore → WarpCore) : (s.modTok token f).denied = s.denied := rfl
@[simp] theorem State.modTok_darnerFaults (s : State) (token : Nat) (f : WarpCore → WarpCore) : (s.modTok token f).darnerFaults = s.darnerFaults := rfl
@[simp] theorem State.modTok_jobs (s : State) (token : Nat) (f : WarpCore → WarpCore) : (s.modTok token f).jobs = s.jobs := rfl
@[simp] theorem State.modTok_snapshots (s : State) (token : Nat) (f : WarpCore → WarpCore) : (s.modTok token f).snapshots = s.snapshots := rfl
@[simp] theorem State.modTok_images (s : State) (token : Nat) (f : WarpCore → WarpCore) : (s.modTok token f).images = s.images := rfl
@[simp] theorem State.modTok_links (s : State) (token : Nat) (f : WarpCore → WarpCore) : (s.modTok token f).links = s.links := rfl
@[simp] theorem State.modTok_heard (s : State) (token : Nat) (f : WarpCore → WarpCore) : (s.modTok token f).heard = s.heard := rfl
@[simp] theorem State.modTok_isolated (s : State) (token : Nat) (f : WarpCore → WarpCore) : (s.modTok token f).isolated = s.isolated := rfl
@[simp] theorem State.modTok_keys (s : State) (token : Nat) (f : WarpCore → WarpCore) : (s.modTok token f).keys = s.keys := rfl
@[simp] theorem State.modTok_keyRing (s : State) (token : Nat) (f : WarpCore → WarpCore) : (s.modTok token f).keyRing = s.keyRing := rfl
@[simp] theorem State.modTok_regions (s : State) (token : Nat) (f : WarpCore → WarpCore) : (s.modTok token f).regions = s.regions := rfl
@[simp] theorem State.modTok_counters (s : State) (token : Nat) (f : WarpCore → WarpCore) : (s.modTok token f).counters = s.counters := rfl
@[simp] theorem State.modTok_marks (s : State) (token : Nat) (f : WarpCore → WarpCore) : (s.modTok token f).marks = s.marks := rfl

@[simp] theorem State.recordIf_turn (s : State) (wid : Nat) (which : Wait → Mask → Bool) (code : Nat) : (s.recordIf wid which code).turn = s.turn := rfl
@[simp] theorem State.recordIf_free (s : State) (wid : Nat) (which : Wait → Mask → Bool) (code : Nat) : (s.recordIf wid which code).free = s.free := rfl
@[simp] theorem State.recordIf_cur (s : State) (wid : Nat) (which : Wait → Mask → Bool) (code : Nat) : (s.recordIf wid which code).cur = s.cur := rfl
@[simp] theorem State.recordIf_boot (s : State) (wid : Nat) (which : Wait → Mask → Bool) (code : Nat) : (s.recordIf wid which code).boot = s.boot := rfl
@[simp] theorem State.recordIf_fw (s : State) (wid : Nat) (which : Wait → Mask → Bool) (code : Nat) : (s.recordIf wid which code).fw = s.fw := rfl
@[simp] theorem State.recordIf_ns (s : State) (wid : Nat) (which : Wait → Mask → Bool) (code : Nat) : (s.recordIf wid which code).ns = s.ns := rfl
@[simp] theorem State.recordIf_clk (s : State) (wid : Nat) (which : Wait → Mask → Bool) (code : Nat) : (s.recordIf wid which code).clk = s.clk := rfl
@[simp] theorem State.recordIf_mem (s : State) (wid : Nat) (which : Wait → Mask → Bool) (code : Nat) : (s.recordIf wid which code).mem = s.mem := rfl
@[simp] theorem State.recordIf_hist (s : State) (wid : Nat) (which : Wait → Mask → Bool) (code : Nat) : (s.recordIf wid which code).hist = s.hist := rfl
@[simp] theorem State.recordIf_seq (s : State) (wid : Nat) (which : Wait → Mask → Bool) (code : Nat) : (s.recordIf wid which code).seq = s.seq := rfl
@[simp] theorem State.recordIf_byteKeys (s : State) (wid : Nat) (which : Wait → Mask → Bool) (code : Nat) : (s.recordIf wid which code).byteKeys = s.byteKeys := rfl
@[simp] theorem State.recordIf_llc (s : State) (wid : Nat) (which : Wait → Mask → Bool) (code : Nat) : (s.recordIf wid which code).llc = s.llc := rfl
@[simp] theorem State.recordIf_l1 (s : State) (wid : Nat) (which : Wait → Mask → Bool) (code : Nat) : (s.recordIf wid which code).l1 = s.l1 := rfl
@[simp] theorem State.recordIf_uses (s : State) (wid : Nat) (which : Wait → Mask → Bool) (code : Nat) : (s.recordIf wid which code).uses = s.uses := rfl
@[simp] theorem State.recordIf_poison (s : State) (wid : Nat) (which : Wait → Mask → Bool) (code : Nat) : (s.recordIf wid which code).poison = s.poison := rfl
@[simp] theorem State.recordIf_undef (s : State) (wid : Nat) (which : Wait → Mask → Bool) (code : Nat) : (s.recordIf wid which code).undef = s.undef := rfl
@[simp] theorem State.recordIf_syncs (s : State) (wid : Nat) (which : Wait → Mask → Bool) (code : Nat) : (s.recordIf wid which code).syncs = s.syncs := rfl
@[simp] theorem State.recordIf_mixed (s : State) (wid : Nat) (which : Wait → Mask → Bool) (code : Nat) : (s.recordIf wid which code).mixed = s.mixed := rfl
@[simp] theorem State.recordIf_tlb (s : State) (wid : Nat) (which : Wait → Mask → Bool) (code : Nat) : (s.recordIf wid which code).tlb = s.tlb := rfl
@[simp] theorem State.recordIf_tlbinvs (s : State) (wid : Nat) (which : Wait → Mask → Bool) (code : Nat) : (s.recordIf wid which code).tlbinvs = s.tlbinvs := rfl
@[simp] theorem State.recordIf_cores (s : State) (wid : Nat) (which : Wait → Mask → Bool) (code : Nat) : (s.recordIf wid which code).cores = s.cores := rfl
@[simp] theorem State.recordIf_evicting (s : State) (wid : Nat) (which : Wait → Mask → Bool) (code : Nat) : (s.recordIf wid which code).evicting = s.evicting := rfl
@[simp] theorem State.recordIf_bankSaves (s : State) (wid : Nat) (which : Wait → Mask → Bool) (code : Nat) : (s.recordIf wid which code).bankSaves = s.bankSaves := rfl
@[simp] theorem State.recordIf_widens (s : State) (wid : Nat) (which : Wait → Mask → Bool) (code : Nat) : (s.recordIf wid which code).widens = s.widens := rfl
@[simp] theorem State.recordIf_gathers (s : State) (wid : Nat) (which : Wait → Mask → Bool) (code : Nat) : (s.recordIf wid which code).gathers = s.gathers := rfl
@[simp] theorem State.recordIf_keyeds (s : State) (wid : Nat) (which : Wait → Mask → Bool) (code : Nat) : (s.recordIf wid which code).keyeds = s.keyeds := rfl
@[simp] theorem State.recordIf_regs (s : State) (wid : Nat) (which : Wait → Mask → Bool) (code : Nat) : (s.recordIf wid which code).regs = s.regs := rfl
@[simp] theorem State.recordIf_barriers (s : State) (wid : Nat) (which : Wait → Mask → Bool) (code : Nat) : (s.recordIf wid which code).barriers = s.barriers := rfl
@[simp] theorem State.recordIf_launches (s : State) (wid : Nat) (which : Wait → Mask → Bool) (code : Nat) : (s.recordIf wid which code).launches = s.launches := rfl
@[simp] theorem State.recordIf_nextLaunch (s : State) (wid : Nat) (which : Wait → Mask → Bool) (code : Nat) : (s.recordIf wid which code).nextLaunch = s.nextLaunch := rfl
@[simp] theorem State.recordIf_ctxs (s : State) (wid : Nat) (which : Wait → Mask → Bool) (code : Nat) : (s.recordIf wid which code).ctxs = s.ctxs := rfl
@[simp] theorem State.recordIf_graphs (s : State) (wid : Nat) (which : Wait → Mask → Bool) (code : Nat) : (s.recordIf wid which code).graphs = s.graphs := rfl
@[simp] theorem State.recordIf_seams (s : State) (wid : Nat) (which : Wait → Mask → Bool) (code : Nat) : (s.recordIf wid which code).seams = s.seams := rfl
@[simp] theorem State.recordIf_bcus (s : State) (wid : Nat) (which : Wait → Mask → Bool) (code : Nat) : (s.recordIf wid which code).bcus = s.bcus := rfl
@[simp] theorem State.recordIf_stagings (s : State) (wid : Nat) (which : Wait → Mask → Bool) (code : Nat) : (s.recordIf wid which code).stagings = s.stagings := rfl
@[simp] theorem State.recordIf_denied (s : State) (wid : Nat) (which : Wait → Mask → Bool) (code : Nat) : (s.recordIf wid which code).denied = s.denied := rfl
@[simp] theorem State.recordIf_darnerFaults (s : State) (wid : Nat) (which : Wait → Mask → Bool) (code : Nat) : (s.recordIf wid which code).darnerFaults = s.darnerFaults := rfl
@[simp] theorem State.recordIf_jobs (s : State) (wid : Nat) (which : Wait → Mask → Bool) (code : Nat) : (s.recordIf wid which code).jobs = s.jobs := rfl
@[simp] theorem State.recordIf_snapshots (s : State) (wid : Nat) (which : Wait → Mask → Bool) (code : Nat) : (s.recordIf wid which code).snapshots = s.snapshots := rfl
@[simp] theorem State.recordIf_images (s : State) (wid : Nat) (which : Wait → Mask → Bool) (code : Nat) : (s.recordIf wid which code).images = s.images := rfl
@[simp] theorem State.recordIf_links (s : State) (wid : Nat) (which : Wait → Mask → Bool) (code : Nat) : (s.recordIf wid which code).links = s.links := rfl
@[simp] theorem State.recordIf_heard (s : State) (wid : Nat) (which : Wait → Mask → Bool) (code : Nat) : (s.recordIf wid which code).heard = s.heard := rfl
@[simp] theorem State.recordIf_isolated (s : State) (wid : Nat) (which : Wait → Mask → Bool) (code : Nat) : (s.recordIf wid which code).isolated = s.isolated := rfl
@[simp] theorem State.recordIf_keys (s : State) (wid : Nat) (which : Wait → Mask → Bool) (code : Nat) : (s.recordIf wid which code).keys = s.keys := rfl
@[simp] theorem State.recordIf_keyRing (s : State) (wid : Nat) (which : Wait → Mask → Bool) (code : Nat) : (s.recordIf wid which code).keyRing = s.keyRing := rfl
@[simp] theorem State.recordIf_regions (s : State) (wid : Nat) (which : Wait → Mask → Bool) (code : Nat) : (s.recordIf wid which code).regions = s.regions := rfl
@[simp] theorem State.recordIf_counters (s : State) (wid : Nat) (which : Wait → Mask → Bool) (code : Nat) : (s.recordIf wid which code).counters = s.counters := rfl
@[simp] theorem State.recordIf_marks (s : State) (wid : Nat) (which : Wait → Mask → Bool) (code : Nat) : (s.recordIf wid which code).marks = s.marks + 1 := rfl

@[simp] theorem State.widen_turn (s : State) (wid : Nat) (sc : Scope) : (s.widen wid sc).turn = s.turn := rfl
@[simp] theorem State.widen_free (s : State) (wid : Nat) (sc : Scope) : (s.widen wid sc).free = s.free := rfl
@[simp] theorem State.widen_cur (s : State) (wid : Nat) (sc : Scope) : (s.widen wid sc).cur = s.cur := rfl
@[simp] theorem State.widen_boot (s : State) (wid : Nat) (sc : Scope) : (s.widen wid sc).boot = s.boot := rfl
@[simp] theorem State.widen_fw (s : State) (wid : Nat) (sc : Scope) : (s.widen wid sc).fw = s.fw := rfl
@[simp] theorem State.widen_ns (s : State) (wid : Nat) (sc : Scope) : (s.widen wid sc).ns = s.ns := rfl
@[simp] theorem State.widen_clk (s : State) (wid : Nat) (sc : Scope) : (s.widen wid sc).clk = s.clk := rfl
@[simp] theorem State.widen_mem (s : State) (wid : Nat) (sc : Scope) : (s.widen wid sc).mem = s.mem := rfl
@[simp] theorem State.widen_hist (s : State) (wid : Nat) (sc : Scope) : (s.widen wid sc).hist = publishUp sc (s.seq + 1) (fun h => decide (h.wid = some wid)) [] [] s.hist := rfl
@[simp] theorem State.widen_seq (s : State) (wid : Nat) (sc : Scope) : (s.widen wid sc).seq = s.seq + 1 := rfl
@[simp] theorem State.widen_byteKeys (s : State) (wid : Nat) (sc : Scope) : (s.widen wid sc).byteKeys = s.byteKeys := rfl
@[simp] theorem State.widen_llc (s : State) (wid : Nat) (sc : Scope) : (s.widen wid sc).llc = s.llc := rfl
@[simp] theorem State.widen_l1 (s : State) (wid : Nat) (sc : Scope) : (s.widen wid sc).l1 = s.l1 := rfl
@[simp] theorem State.widen_uses (s : State) (wid : Nat) (sc : Scope) : (s.widen wid sc).uses = s.uses := rfl
@[simp] theorem State.widen_poison (s : State) (wid : Nat) (sc : Scope) : (s.widen wid sc).poison = s.poison := rfl
@[simp] theorem State.widen_undef (s : State) (wid : Nat) (sc : Scope) : (s.widen wid sc).undef = s.undef := rfl
@[simp] theorem State.widen_syncs (s : State) (wid : Nat) (sc : Scope) : (s.widen wid sc).syncs = s.syncs := rfl
@[simp] theorem State.widen_mixed (s : State) (wid : Nat) (sc : Scope) : (s.widen wid sc).mixed = s.mixed := rfl
@[simp] theorem State.widen_tlb (s : State) (wid : Nat) (sc : Scope) : (s.widen wid sc).tlb = s.tlb := rfl
@[simp] theorem State.widen_tlbinvs (s : State) (wid : Nat) (sc : Scope) : (s.widen wid sc).tlbinvs = s.tlbinvs := rfl
@[simp] theorem State.widen_cores (s : State) (wid : Nat) (sc : Scope) : (s.widen wid sc).cores = s.cores := rfl
@[simp] theorem State.widen_warps (s : State) (wid : Nat) (sc : Scope) : (s.widen wid sc).warps = s.warps := rfl
@[simp] theorem State.widen_saved (s : State) (wid : Nat) (sc : Scope) : (s.widen wid sc).saved = s.saved := rfl
@[simp] theorem State.widen_evicting (s : State) (wid : Nat) (sc : Scope) : (s.widen wid sc).evicting = s.evicting := rfl
@[simp] theorem State.widen_bankSaves (s : State) (wid : Nat) (sc : Scope) : (s.widen wid sc).bankSaves = s.bankSaves := rfl
@[simp] theorem State.widen_widens (s : State) (wid : Nat) (sc : Scope) : (s.widen wid sc).widens = s.widens := rfl
@[simp] theorem State.widen_gathers (s : State) (wid : Nat) (sc : Scope) : (s.widen wid sc).gathers = s.gathers := rfl
@[simp] theorem State.widen_keyeds (s : State) (wid : Nat) (sc : Scope) : (s.widen wid sc).keyeds = s.keyeds := rfl
@[simp] theorem State.widen_regs (s : State) (wid : Nat) (sc : Scope) : (s.widen wid sc).regs = s.regs := rfl
@[simp] theorem State.widen_barriers (s : State) (wid : Nat) (sc : Scope) : (s.widen wid sc).barriers = s.barriers := rfl
@[simp] theorem State.widen_launches (s : State) (wid : Nat) (sc : Scope) : (s.widen wid sc).launches = s.launches := rfl
@[simp] theorem State.widen_nextLaunch (s : State) (wid : Nat) (sc : Scope) : (s.widen wid sc).nextLaunch = s.nextLaunch := rfl
@[simp] theorem State.widen_ctxs (s : State) (wid : Nat) (sc : Scope) : (s.widen wid sc).ctxs = s.ctxs := rfl
@[simp] theorem State.widen_graphs (s : State) (wid : Nat) (sc : Scope) : (s.widen wid sc).graphs = s.graphs := rfl
@[simp] theorem State.widen_seams (s : State) (wid : Nat) (sc : Scope) : (s.widen wid sc).seams = s.seams := rfl
@[simp] theorem State.widen_bcus (s : State) (wid : Nat) (sc : Scope) : (s.widen wid sc).bcus = s.bcus := rfl
@[simp] theorem State.widen_stagings (s : State) (wid : Nat) (sc : Scope) : (s.widen wid sc).stagings = s.stagings := rfl
@[simp] theorem State.widen_denied (s : State) (wid : Nat) (sc : Scope) : (s.widen wid sc).denied = s.denied := rfl
@[simp] theorem State.widen_darnerFaults (s : State) (wid : Nat) (sc : Scope) : (s.widen wid sc).darnerFaults = s.darnerFaults := rfl
@[simp] theorem State.widen_jobs (s : State) (wid : Nat) (sc : Scope) : (s.widen wid sc).jobs = s.jobs := rfl
@[simp] theorem State.widen_snapshots (s : State) (wid : Nat) (sc : Scope) : (s.widen wid sc).snapshots = s.snapshots := rfl
@[simp] theorem State.widen_images (s : State) (wid : Nat) (sc : Scope) : (s.widen wid sc).images = s.images := rfl
@[simp] theorem State.widen_links (s : State) (wid : Nat) (sc : Scope) : (s.widen wid sc).links = s.links := rfl
@[simp] theorem State.widen_heard (s : State) (wid : Nat) (sc : Scope) : (s.widen wid sc).heard = s.heard := rfl
@[simp] theorem State.widen_isolated (s : State) (wid : Nat) (sc : Scope) : (s.widen wid sc).isolated = s.isolated := rfl
@[simp] theorem State.widen_keys (s : State) (wid : Nat) (sc : Scope) : (s.widen wid sc).keys = s.keys := rfl
@[simp] theorem State.widen_keyRing (s : State) (wid : Nat) (sc : Scope) : (s.widen wid sc).keyRing = s.keyRing := rfl
@[simp] theorem State.widen_regions (s : State) (wid : Nat) (sc : Scope) : (s.widen wid sc).regions = s.regions := rfl
@[simp] theorem State.widen_counters (s : State) (wid : Nat) (sc : Scope) : (s.widen wid sc).counters = s.counters := rfl
@[simp] theorem State.widen_marks (s : State) (wid : Nat) (sc : Scope) : (s.widen wid sc).marks = s.marks := rfl

@[simp] theorem State.modCore_turn (s : State) (core : Nat) (f : Core → Core) : (s.modCore core f).turn = s.turn := rfl
@[simp] theorem State.modCore_free (s : State) (core : Nat) (f : Core → Core) : (s.modCore core f).free = s.free := rfl
@[simp] theorem State.modCore_cur (s : State) (core : Nat) (f : Core → Core) : (s.modCore core f).cur = s.cur := rfl
@[simp] theorem State.modCore_boot (s : State) (core : Nat) (f : Core → Core) : (s.modCore core f).boot = s.boot := rfl
@[simp] theorem State.modCore_fw (s : State) (core : Nat) (f : Core → Core) : (s.modCore core f).fw = s.fw := rfl
@[simp] theorem State.modCore_ns (s : State) (core : Nat) (f : Core → Core) : (s.modCore core f).ns = s.ns := rfl
@[simp] theorem State.modCore_clk (s : State) (core : Nat) (f : Core → Core) : (s.modCore core f).clk = s.clk := rfl
@[simp] theorem State.modCore_mem (s : State) (core : Nat) (f : Core → Core) : (s.modCore core f).mem = s.mem := rfl
@[simp] theorem State.modCore_hist (s : State) (core : Nat) (f : Core → Core) : (s.modCore core f).hist = s.hist := rfl
@[simp] theorem State.modCore_seq (s : State) (core : Nat) (f : Core → Core) : (s.modCore core f).seq = s.seq := rfl
@[simp] theorem State.modCore_byteKeys (s : State) (core : Nat) (f : Core → Core) : (s.modCore core f).byteKeys = s.byteKeys := rfl
@[simp] theorem State.modCore_llc (s : State) (core : Nat) (f : Core → Core) : (s.modCore core f).llc = s.llc := rfl
@[simp] theorem State.modCore_l1 (s : State) (core : Nat) (f : Core → Core) : (s.modCore core f).l1 = s.l1 := rfl
@[simp] theorem State.modCore_uses (s : State) (core : Nat) (f : Core → Core) : (s.modCore core f).uses = s.uses := rfl
@[simp] theorem State.modCore_poison (s : State) (core : Nat) (f : Core → Core) : (s.modCore core f).poison = s.poison := rfl
@[simp] theorem State.modCore_undef (s : State) (core : Nat) (f : Core → Core) : (s.modCore core f).undef = s.undef := rfl
@[simp] theorem State.modCore_syncs (s : State) (core : Nat) (f : Core → Core) : (s.modCore core f).syncs = s.syncs := rfl
@[simp] theorem State.modCore_mixed (s : State) (core : Nat) (f : Core → Core) : (s.modCore core f).mixed = s.mixed := rfl
@[simp] theorem State.modCore_tlb (s : State) (core : Nat) (f : Core → Core) : (s.modCore core f).tlb = s.tlb := rfl
@[simp] theorem State.modCore_tlbinvs (s : State) (core : Nat) (f : Core → Core) : (s.modCore core f).tlbinvs = s.tlbinvs := rfl
@[simp] theorem State.modCore_cores (s : State) (core : Nat) (f : Core → Core) : (s.modCore core f).cores = s.cores.insert core (f (s.core core)) := rfl
@[simp] theorem State.modCore_warps (s : State) (core : Nat) (f : Core → Core) : (s.modCore core f).warps = s.warps := rfl
@[simp] theorem State.modCore_saved (s : State) (core : Nat) (f : Core → Core) : (s.modCore core f).saved = s.saved := rfl
@[simp] theorem State.modCore_evicting (s : State) (core : Nat) (f : Core → Core) : (s.modCore core f).evicting = s.evicting := rfl
@[simp] theorem State.modCore_bankSaves (s : State) (core : Nat) (f : Core → Core) : (s.modCore core f).bankSaves = s.bankSaves := rfl
@[simp] theorem State.modCore_widens (s : State) (core : Nat) (f : Core → Core) : (s.modCore core f).widens = s.widens := rfl
@[simp] theorem State.modCore_gathers (s : State) (core : Nat) (f : Core → Core) : (s.modCore core f).gathers = s.gathers := rfl
@[simp] theorem State.modCore_keyeds (s : State) (core : Nat) (f : Core → Core) : (s.modCore core f).keyeds = s.keyeds := rfl
@[simp] theorem State.modCore_regs (s : State) (core : Nat) (f : Core → Core) : (s.modCore core f).regs = s.regs := rfl
@[simp] theorem State.modCore_barriers (s : State) (core : Nat) (f : Core → Core) : (s.modCore core f).barriers = s.barriers := rfl
@[simp] theorem State.modCore_launches (s : State) (core : Nat) (f : Core → Core) : (s.modCore core f).launches = s.launches := rfl
@[simp] theorem State.modCore_nextLaunch (s : State) (core : Nat) (f : Core → Core) : (s.modCore core f).nextLaunch = s.nextLaunch := rfl
@[simp] theorem State.modCore_ctxs (s : State) (core : Nat) (f : Core → Core) : (s.modCore core f).ctxs = s.ctxs := rfl
@[simp] theorem State.modCore_graphs (s : State) (core : Nat) (f : Core → Core) : (s.modCore core f).graphs = s.graphs := rfl
@[simp] theorem State.modCore_seams (s : State) (core : Nat) (f : Core → Core) : (s.modCore core f).seams = s.seams := rfl
@[simp] theorem State.modCore_bcus (s : State) (core : Nat) (f : Core → Core) : (s.modCore core f).bcus = s.bcus := rfl
@[simp] theorem State.modCore_stagings (s : State) (core : Nat) (f : Core → Core) : (s.modCore core f).stagings = s.stagings := rfl
@[simp] theorem State.modCore_denied (s : State) (core : Nat) (f : Core → Core) : (s.modCore core f).denied = s.denied := rfl
@[simp] theorem State.modCore_darnerFaults (s : State) (core : Nat) (f : Core → Core) : (s.modCore core f).darnerFaults = s.darnerFaults := rfl
@[simp] theorem State.modCore_jobs (s : State) (core : Nat) (f : Core → Core) : (s.modCore core f).jobs = s.jobs := rfl
@[simp] theorem State.modCore_snapshots (s : State) (core : Nat) (f : Core → Core) : (s.modCore core f).snapshots = s.snapshots := rfl
@[simp] theorem State.modCore_images (s : State) (core : Nat) (f : Core → Core) : (s.modCore core f).images = s.images := rfl
@[simp] theorem State.modCore_links (s : State) (core : Nat) (f : Core → Core) : (s.modCore core f).links = s.links := rfl
@[simp] theorem State.modCore_heard (s : State) (core : Nat) (f : Core → Core) : (s.modCore core f).heard = s.heard := rfl
@[simp] theorem State.modCore_isolated (s : State) (core : Nat) (f : Core → Core) : (s.modCore core f).isolated = s.isolated := rfl
@[simp] theorem State.modCore_keys (s : State) (core : Nat) (f : Core → Core) : (s.modCore core f).keys = s.keys := rfl
@[simp] theorem State.modCore_keyRing (s : State) (core : Nat) (f : Core → Core) : (s.modCore core f).keyRing = s.keyRing := rfl
@[simp] theorem State.modCore_regions (s : State) (core : Nat) (f : Core → Core) : (s.modCore core f).regions = s.regions := rfl
@[simp] theorem State.modCore_counters (s : State) (core : Nat) (f : Core → Core) : (s.modCore core f).counters = s.counters := rfl
@[simp] theorem State.modCore_marks (s : State) (core : Nat) (f : Core → Core) : (s.modCore core f).marks = s.marks := rfl

@[simp] theorem State.modBank_turn (s : State) (core : Nat) (b : Nat) (f : Bank → Bank) : (s.modBank core b f).turn = s.turn := rfl
@[simp] theorem State.modBank_free (s : State) (core : Nat) (b : Nat) (f : Bank → Bank) : (s.modBank core b f).free = s.free := rfl
@[simp] theorem State.modBank_cur (s : State) (core : Nat) (b : Nat) (f : Bank → Bank) : (s.modBank core b f).cur = s.cur := rfl
@[simp] theorem State.modBank_boot (s : State) (core : Nat) (b : Nat) (f : Bank → Bank) : (s.modBank core b f).boot = s.boot := rfl
@[simp] theorem State.modBank_fw (s : State) (core : Nat) (b : Nat) (f : Bank → Bank) : (s.modBank core b f).fw = s.fw := rfl
@[simp] theorem State.modBank_ns (s : State) (core : Nat) (b : Nat) (f : Bank → Bank) : (s.modBank core b f).ns = s.ns := rfl
@[simp] theorem State.modBank_clk (s : State) (core : Nat) (b : Nat) (f : Bank → Bank) : (s.modBank core b f).clk = s.clk := rfl
@[simp] theorem State.modBank_mem (s : State) (core : Nat) (b : Nat) (f : Bank → Bank) : (s.modBank core b f).mem = s.mem := rfl
@[simp] theorem State.modBank_hist (s : State) (core : Nat) (b : Nat) (f : Bank → Bank) : (s.modBank core b f).hist = s.hist := rfl
@[simp] theorem State.modBank_seq (s : State) (core : Nat) (b : Nat) (f : Bank → Bank) : (s.modBank core b f).seq = s.seq := rfl
@[simp] theorem State.modBank_byteKeys (s : State) (core : Nat) (b : Nat) (f : Bank → Bank) : (s.modBank core b f).byteKeys = s.byteKeys := rfl
@[simp] theorem State.modBank_llc (s : State) (core : Nat) (b : Nat) (f : Bank → Bank) : (s.modBank core b f).llc = s.llc := rfl
@[simp] theorem State.modBank_l1 (s : State) (core : Nat) (b : Nat) (f : Bank → Bank) : (s.modBank core b f).l1 = s.l1 := rfl
@[simp] theorem State.modBank_uses (s : State) (core : Nat) (b : Nat) (f : Bank → Bank) : (s.modBank core b f).uses = s.uses := rfl
@[simp] theorem State.modBank_poison (s : State) (core : Nat) (b : Nat) (f : Bank → Bank) : (s.modBank core b f).poison = s.poison := rfl
@[simp] theorem State.modBank_undef (s : State) (core : Nat) (b : Nat) (f : Bank → Bank) : (s.modBank core b f).undef = s.undef := rfl
@[simp] theorem State.modBank_syncs (s : State) (core : Nat) (b : Nat) (f : Bank → Bank) : (s.modBank core b f).syncs = s.syncs := rfl
@[simp] theorem State.modBank_mixed (s : State) (core : Nat) (b : Nat) (f : Bank → Bank) : (s.modBank core b f).mixed = s.mixed := rfl
@[simp] theorem State.modBank_tlb (s : State) (core : Nat) (b : Nat) (f : Bank → Bank) : (s.modBank core b f).tlb = s.tlb := rfl
@[simp] theorem State.modBank_tlbinvs (s : State) (core : Nat) (b : Nat) (f : Bank → Bank) : (s.modBank core b f).tlbinvs = s.tlbinvs := rfl
@[simp] theorem State.modBank_warps (s : State) (core : Nat) (b : Nat) (f : Bank → Bank) : (s.modBank core b f).warps = s.warps := rfl
@[simp] theorem State.modBank_saved (s : State) (core : Nat) (b : Nat) (f : Bank → Bank) : (s.modBank core b f).saved = s.saved := rfl
@[simp] theorem State.modBank_evicting (s : State) (core : Nat) (b : Nat) (f : Bank → Bank) : (s.modBank core b f).evicting = s.evicting := rfl
@[simp] theorem State.modBank_bankSaves (s : State) (core : Nat) (b : Nat) (f : Bank → Bank) : (s.modBank core b f).bankSaves = s.bankSaves := rfl
@[simp] theorem State.modBank_widens (s : State) (core : Nat) (b : Nat) (f : Bank → Bank) : (s.modBank core b f).widens = s.widens := rfl
@[simp] theorem State.modBank_gathers (s : State) (core : Nat) (b : Nat) (f : Bank → Bank) : (s.modBank core b f).gathers = s.gathers := rfl
@[simp] theorem State.modBank_keyeds (s : State) (core : Nat) (b : Nat) (f : Bank → Bank) : (s.modBank core b f).keyeds = s.keyeds := rfl
@[simp] theorem State.modBank_regs (s : State) (core : Nat) (b : Nat) (f : Bank → Bank) : (s.modBank core b f).regs = s.regs := rfl
@[simp] theorem State.modBank_barriers (s : State) (core : Nat) (b : Nat) (f : Bank → Bank) : (s.modBank core b f).barriers = s.barriers := rfl
@[simp] theorem State.modBank_launches (s : State) (core : Nat) (b : Nat) (f : Bank → Bank) : (s.modBank core b f).launches = s.launches := rfl
@[simp] theorem State.modBank_nextLaunch (s : State) (core : Nat) (b : Nat) (f : Bank → Bank) : (s.modBank core b f).nextLaunch = s.nextLaunch := rfl
@[simp] theorem State.modBank_ctxs (s : State) (core : Nat) (b : Nat) (f : Bank → Bank) : (s.modBank core b f).ctxs = s.ctxs := rfl
@[simp] theorem State.modBank_graphs (s : State) (core : Nat) (b : Nat) (f : Bank → Bank) : (s.modBank core b f).graphs = s.graphs := rfl
@[simp] theorem State.modBank_seams (s : State) (core : Nat) (b : Nat) (f : Bank → Bank) : (s.modBank core b f).seams = s.seams := rfl
@[simp] theorem State.modBank_bcus (s : State) (core : Nat) (b : Nat) (f : Bank → Bank) : (s.modBank core b f).bcus = s.bcus := rfl
@[simp] theorem State.modBank_stagings (s : State) (core : Nat) (b : Nat) (f : Bank → Bank) : (s.modBank core b f).stagings = s.stagings := rfl
@[simp] theorem State.modBank_denied (s : State) (core : Nat) (b : Nat) (f : Bank → Bank) : (s.modBank core b f).denied = s.denied := rfl
@[simp] theorem State.modBank_darnerFaults (s : State) (core : Nat) (b : Nat) (f : Bank → Bank) : (s.modBank core b f).darnerFaults = s.darnerFaults := rfl
@[simp] theorem State.modBank_jobs (s : State) (core : Nat) (b : Nat) (f : Bank → Bank) : (s.modBank core b f).jobs = s.jobs := rfl
@[simp] theorem State.modBank_snapshots (s : State) (core : Nat) (b : Nat) (f : Bank → Bank) : (s.modBank core b f).snapshots = s.snapshots := rfl
@[simp] theorem State.modBank_images (s : State) (core : Nat) (b : Nat) (f : Bank → Bank) : (s.modBank core b f).images = s.images := rfl
@[simp] theorem State.modBank_links (s : State) (core : Nat) (b : Nat) (f : Bank → Bank) : (s.modBank core b f).links = s.links := rfl
@[simp] theorem State.modBank_heard (s : State) (core : Nat) (b : Nat) (f : Bank → Bank) : (s.modBank core b f).heard = s.heard := rfl
@[simp] theorem State.modBank_isolated (s : State) (core : Nat) (b : Nat) (f : Bank → Bank) : (s.modBank core b f).isolated = s.isolated := rfl
@[simp] theorem State.modBank_keys (s : State) (core : Nat) (b : Nat) (f : Bank → Bank) : (s.modBank core b f).keys = s.keys := rfl
@[simp] theorem State.modBank_keyRing (s : State) (core : Nat) (b : Nat) (f : Bank → Bank) : (s.modBank core b f).keyRing = s.keyRing := rfl
@[simp] theorem State.modBank_regions (s : State) (core : Nat) (b : Nat) (f : Bank → Bank) : (s.modBank core b f).regions = s.regions := rfl
@[simp] theorem State.modBank_counters (s : State) (core : Nat) (b : Nat) (f : Bank → Bank) : (s.modBank core b f).counters = s.counters := rfl
@[simp] theorem State.modBank_marks (s : State) (core : Nat) (b : Nat) (f : Bank → Bank) : (s.modBank core b f).marks = s.marks := rfl

@[simp] theorem State.modPress_turn (s : State) (core : Nat) (f : Press → Press) : (s.modPress core f).turn = s.turn := rfl
@[simp] theorem State.modPress_free (s : State) (core : Nat) (f : Press → Press) : (s.modPress core f).free = s.free := rfl
@[simp] theorem State.modPress_cur (s : State) (core : Nat) (f : Press → Press) : (s.modPress core f).cur = s.cur := rfl
@[simp] theorem State.modPress_boot (s : State) (core : Nat) (f : Press → Press) : (s.modPress core f).boot = s.boot := rfl
@[simp] theorem State.modPress_fw (s : State) (core : Nat) (f : Press → Press) : (s.modPress core f).fw = s.fw := rfl
@[simp] theorem State.modPress_ns (s : State) (core : Nat) (f : Press → Press) : (s.modPress core f).ns = s.ns := rfl
@[simp] theorem State.modPress_clk (s : State) (core : Nat) (f : Press → Press) : (s.modPress core f).clk = s.clk := rfl
@[simp] theorem State.modPress_mem (s : State) (core : Nat) (f : Press → Press) : (s.modPress core f).mem = s.mem := rfl
@[simp] theorem State.modPress_hist (s : State) (core : Nat) (f : Press → Press) : (s.modPress core f).hist = s.hist := rfl
@[simp] theorem State.modPress_seq (s : State) (core : Nat) (f : Press → Press) : (s.modPress core f).seq = s.seq := rfl
@[simp] theorem State.modPress_byteKeys (s : State) (core : Nat) (f : Press → Press) : (s.modPress core f).byteKeys = s.byteKeys := rfl
@[simp] theorem State.modPress_llc (s : State) (core : Nat) (f : Press → Press) : (s.modPress core f).llc = s.llc := rfl
@[simp] theorem State.modPress_l1 (s : State) (core : Nat) (f : Press → Press) : (s.modPress core f).l1 = s.l1 := rfl
@[simp] theorem State.modPress_uses (s : State) (core : Nat) (f : Press → Press) : (s.modPress core f).uses = s.uses := rfl
@[simp] theorem State.modPress_poison (s : State) (core : Nat) (f : Press → Press) : (s.modPress core f).poison = s.poison := rfl
@[simp] theorem State.modPress_undef (s : State) (core : Nat) (f : Press → Press) : (s.modPress core f).undef = s.undef := rfl
@[simp] theorem State.modPress_syncs (s : State) (core : Nat) (f : Press → Press) : (s.modPress core f).syncs = s.syncs := rfl
@[simp] theorem State.modPress_mixed (s : State) (core : Nat) (f : Press → Press) : (s.modPress core f).mixed = s.mixed := rfl
@[simp] theorem State.modPress_tlb (s : State) (core : Nat) (f : Press → Press) : (s.modPress core f).tlb = s.tlb := rfl
@[simp] theorem State.modPress_tlbinvs (s : State) (core : Nat) (f : Press → Press) : (s.modPress core f).tlbinvs = s.tlbinvs := rfl
@[simp] theorem State.modPress_warps (s : State) (core : Nat) (f : Press → Press) : (s.modPress core f).warps = s.warps := rfl
@[simp] theorem State.modPress_saved (s : State) (core : Nat) (f : Press → Press) : (s.modPress core f).saved = s.saved := rfl
@[simp] theorem State.modPress_evicting (s : State) (core : Nat) (f : Press → Press) : (s.modPress core f).evicting = s.evicting := rfl
@[simp] theorem State.modPress_bankSaves (s : State) (core : Nat) (f : Press → Press) : (s.modPress core f).bankSaves = s.bankSaves := rfl
@[simp] theorem State.modPress_widens (s : State) (core : Nat) (f : Press → Press) : (s.modPress core f).widens = s.widens := rfl
@[simp] theorem State.modPress_gathers (s : State) (core : Nat) (f : Press → Press) : (s.modPress core f).gathers = s.gathers := rfl
@[simp] theorem State.modPress_keyeds (s : State) (core : Nat) (f : Press → Press) : (s.modPress core f).keyeds = s.keyeds := rfl
@[simp] theorem State.modPress_regs (s : State) (core : Nat) (f : Press → Press) : (s.modPress core f).regs = s.regs := rfl
@[simp] theorem State.modPress_barriers (s : State) (core : Nat) (f : Press → Press) : (s.modPress core f).barriers = s.barriers := rfl
@[simp] theorem State.modPress_launches (s : State) (core : Nat) (f : Press → Press) : (s.modPress core f).launches = s.launches := rfl
@[simp] theorem State.modPress_nextLaunch (s : State) (core : Nat) (f : Press → Press) : (s.modPress core f).nextLaunch = s.nextLaunch := rfl
@[simp] theorem State.modPress_ctxs (s : State) (core : Nat) (f : Press → Press) : (s.modPress core f).ctxs = s.ctxs := rfl
@[simp] theorem State.modPress_graphs (s : State) (core : Nat) (f : Press → Press) : (s.modPress core f).graphs = s.graphs := rfl
@[simp] theorem State.modPress_seams (s : State) (core : Nat) (f : Press → Press) : (s.modPress core f).seams = s.seams := rfl
@[simp] theorem State.modPress_bcus (s : State) (core : Nat) (f : Press → Press) : (s.modPress core f).bcus = s.bcus := rfl
@[simp] theorem State.modPress_stagings (s : State) (core : Nat) (f : Press → Press) : (s.modPress core f).stagings = s.stagings := rfl
@[simp] theorem State.modPress_denied (s : State) (core : Nat) (f : Press → Press) : (s.modPress core f).denied = s.denied := rfl
@[simp] theorem State.modPress_darnerFaults (s : State) (core : Nat) (f : Press → Press) : (s.modPress core f).darnerFaults = s.darnerFaults := rfl
@[simp] theorem State.modPress_jobs (s : State) (core : Nat) (f : Press → Press) : (s.modPress core f).jobs = s.jobs := rfl
@[simp] theorem State.modPress_snapshots (s : State) (core : Nat) (f : Press → Press) : (s.modPress core f).snapshots = s.snapshots := rfl
@[simp] theorem State.modPress_images (s : State) (core : Nat) (f : Press → Press) : (s.modPress core f).images = s.images := rfl
@[simp] theorem State.modPress_links (s : State) (core : Nat) (f : Press → Press) : (s.modPress core f).links = s.links := rfl
@[simp] theorem State.modPress_heard (s : State) (core : Nat) (f : Press → Press) : (s.modPress core f).heard = s.heard := rfl
@[simp] theorem State.modPress_isolated (s : State) (core : Nat) (f : Press → Press) : (s.modPress core f).isolated = s.isolated := rfl
@[simp] theorem State.modPress_keys (s : State) (core : Nat) (f : Press → Press) : (s.modPress core f).keys = s.keys := rfl
@[simp] theorem State.modPress_keyRing (s : State) (core : Nat) (f : Press → Press) : (s.modPress core f).keyRing = s.keyRing := rfl
@[simp] theorem State.modPress_regions (s : State) (core : Nat) (f : Press → Press) : (s.modPress core f).regions = s.regions := rfl
@[simp] theorem State.modPress_counters (s : State) (core : Nat) (f : Press → Press) : (s.modPress core f).counters = s.counters := rfl
@[simp] theorem State.modPress_marks (s : State) (core : Nat) (f : Press → Press) : (s.modPress core f).marks = s.marks := rfl

@[simp] theorem State.modLaunch_turn (s : State) (id : Nat) (f : Launch → Launch) : (s.modLaunch id f).turn = s.turn := rfl
@[simp] theorem State.modLaunch_free (s : State) (id : Nat) (f : Launch → Launch) : (s.modLaunch id f).free = s.free := rfl
@[simp] theorem State.modLaunch_cur (s : State) (id : Nat) (f : Launch → Launch) : (s.modLaunch id f).cur = s.cur := rfl
@[simp] theorem State.modLaunch_boot (s : State) (id : Nat) (f : Launch → Launch) : (s.modLaunch id f).boot = s.boot := rfl
@[simp] theorem State.modLaunch_fw (s : State) (id : Nat) (f : Launch → Launch) : (s.modLaunch id f).fw = s.fw := rfl
@[simp] theorem State.modLaunch_ns (s : State) (id : Nat) (f : Launch → Launch) : (s.modLaunch id f).ns = s.ns := rfl
@[simp] theorem State.modLaunch_clk (s : State) (id : Nat) (f : Launch → Launch) : (s.modLaunch id f).clk = s.clk := rfl
@[simp] theorem State.modLaunch_mem (s : State) (id : Nat) (f : Launch → Launch) : (s.modLaunch id f).mem = s.mem := rfl
@[simp] theorem State.modLaunch_hist (s : State) (id : Nat) (f : Launch → Launch) : (s.modLaunch id f).hist = s.hist := rfl
@[simp] theorem State.modLaunch_seq (s : State) (id : Nat) (f : Launch → Launch) : (s.modLaunch id f).seq = s.seq := rfl
@[simp] theorem State.modLaunch_byteKeys (s : State) (id : Nat) (f : Launch → Launch) : (s.modLaunch id f).byteKeys = s.byteKeys := rfl
@[simp] theorem State.modLaunch_llc (s : State) (id : Nat) (f : Launch → Launch) : (s.modLaunch id f).llc = s.llc := rfl
@[simp] theorem State.modLaunch_l1 (s : State) (id : Nat) (f : Launch → Launch) : (s.modLaunch id f).l1 = s.l1 := rfl
@[simp] theorem State.modLaunch_uses (s : State) (id : Nat) (f : Launch → Launch) : (s.modLaunch id f).uses = s.uses := rfl
@[simp] theorem State.modLaunch_poison (s : State) (id : Nat) (f : Launch → Launch) : (s.modLaunch id f).poison = s.poison := rfl
@[simp] theorem State.modLaunch_undef (s : State) (id : Nat) (f : Launch → Launch) : (s.modLaunch id f).undef = s.undef := rfl
@[simp] theorem State.modLaunch_syncs (s : State) (id : Nat) (f : Launch → Launch) : (s.modLaunch id f).syncs = s.syncs := rfl
@[simp] theorem State.modLaunch_mixed (s : State) (id : Nat) (f : Launch → Launch) : (s.modLaunch id f).mixed = s.mixed := rfl
@[simp] theorem State.modLaunch_tlb (s : State) (id : Nat) (f : Launch → Launch) : (s.modLaunch id f).tlb = s.tlb := rfl
@[simp] theorem State.modLaunch_tlbinvs (s : State) (id : Nat) (f : Launch → Launch) : (s.modLaunch id f).tlbinvs = s.tlbinvs := rfl
@[simp] theorem State.modLaunch_cores (s : State) (id : Nat) (f : Launch → Launch) : (s.modLaunch id f).cores = s.cores := rfl
@[simp] theorem State.modLaunch_warps (s : State) (id : Nat) (f : Launch → Launch) : (s.modLaunch id f).warps = s.warps := rfl
@[simp] theorem State.modLaunch_saved (s : State) (id : Nat) (f : Launch → Launch) : (s.modLaunch id f).saved = s.saved := rfl
@[simp] theorem State.modLaunch_evicting (s : State) (id : Nat) (f : Launch → Launch) : (s.modLaunch id f).evicting = s.evicting := rfl
@[simp] theorem State.modLaunch_bankSaves (s : State) (id : Nat) (f : Launch → Launch) : (s.modLaunch id f).bankSaves = s.bankSaves := rfl
@[simp] theorem State.modLaunch_widens (s : State) (id : Nat) (f : Launch → Launch) : (s.modLaunch id f).widens = s.widens := rfl
@[simp] theorem State.modLaunch_gathers (s : State) (id : Nat) (f : Launch → Launch) : (s.modLaunch id f).gathers = s.gathers := rfl
@[simp] theorem State.modLaunch_keyeds (s : State) (id : Nat) (f : Launch → Launch) : (s.modLaunch id f).keyeds = s.keyeds := rfl
@[simp] theorem State.modLaunch_regs (s : State) (id : Nat) (f : Launch → Launch) : (s.modLaunch id f).regs = s.regs := rfl
@[simp] theorem State.modLaunch_barriers (s : State) (id : Nat) (f : Launch → Launch) : (s.modLaunch id f).barriers = s.barriers := rfl
@[simp] theorem State.modLaunch_launches (s : State) (id : Nat) (f : Launch → Launch) : (s.modLaunch id f).launches = s.launches.modify id f := rfl
@[simp] theorem State.modLaunch_nextLaunch (s : State) (id : Nat) (f : Launch → Launch) : (s.modLaunch id f).nextLaunch = s.nextLaunch := rfl
@[simp] theorem State.modLaunch_ctxs (s : State) (id : Nat) (f : Launch → Launch) : (s.modLaunch id f).ctxs = s.ctxs := rfl
@[simp] theorem State.modLaunch_graphs (s : State) (id : Nat) (f : Launch → Launch) : (s.modLaunch id f).graphs = s.graphs := rfl
@[simp] theorem State.modLaunch_seams (s : State) (id : Nat) (f : Launch → Launch) : (s.modLaunch id f).seams = s.seams := rfl
@[simp] theorem State.modLaunch_bcus (s : State) (id : Nat) (f : Launch → Launch) : (s.modLaunch id f).bcus = s.bcus := rfl
@[simp] theorem State.modLaunch_stagings (s : State) (id : Nat) (f : Launch → Launch) : (s.modLaunch id f).stagings = s.stagings := rfl
@[simp] theorem State.modLaunch_denied (s : State) (id : Nat) (f : Launch → Launch) : (s.modLaunch id f).denied = s.denied := rfl
@[simp] theorem State.modLaunch_darnerFaults (s : State) (id : Nat) (f : Launch → Launch) : (s.modLaunch id f).darnerFaults = s.darnerFaults := rfl
@[simp] theorem State.modLaunch_jobs (s : State) (id : Nat) (f : Launch → Launch) : (s.modLaunch id f).jobs = s.jobs := rfl
@[simp] theorem State.modLaunch_snapshots (s : State) (id : Nat) (f : Launch → Launch) : (s.modLaunch id f).snapshots = s.snapshots := rfl
@[simp] theorem State.modLaunch_images (s : State) (id : Nat) (f : Launch → Launch) : (s.modLaunch id f).images = s.images := rfl
@[simp] theorem State.modLaunch_links (s : State) (id : Nat) (f : Launch → Launch) : (s.modLaunch id f).links = s.links := rfl
@[simp] theorem State.modLaunch_heard (s : State) (id : Nat) (f : Launch → Launch) : (s.modLaunch id f).heard = s.heard := rfl
@[simp] theorem State.modLaunch_isolated (s : State) (id : Nat) (f : Launch → Launch) : (s.modLaunch id f).isolated = s.isolated := rfl
@[simp] theorem State.modLaunch_keys (s : State) (id : Nat) (f : Launch → Launch) : (s.modLaunch id f).keys = s.keys := rfl
@[simp] theorem State.modLaunch_keyRing (s : State) (id : Nat) (f : Launch → Launch) : (s.modLaunch id f).keyRing = s.keyRing := rfl
@[simp] theorem State.modLaunch_regions (s : State) (id : Nat) (f : Launch → Launch) : (s.modLaunch id f).regions = s.regions := rfl
@[simp] theorem State.modLaunch_counters (s : State) (id : Nat) (f : Launch → Launch) : (s.modLaunch id f).counters = s.counters := rfl
@[simp] theorem State.modLaunch_marks (s : State) (id : Nat) (f : Launch → Launch) : (s.modLaunch id f).marks = s.marks := rfl

@[simp] theorem State.modSeam_turn (s : State) (die : Nat) (f : Seam → Seam) : (s.modSeam die f).turn = s.turn := rfl
@[simp] theorem State.modSeam_free (s : State) (die : Nat) (f : Seam → Seam) : (s.modSeam die f).free = s.free := rfl
@[simp] theorem State.modSeam_cur (s : State) (die : Nat) (f : Seam → Seam) : (s.modSeam die f).cur = s.cur := rfl
@[simp] theorem State.modSeam_boot (s : State) (die : Nat) (f : Seam → Seam) : (s.modSeam die f).boot = s.boot := rfl
@[simp] theorem State.modSeam_fw (s : State) (die : Nat) (f : Seam → Seam) : (s.modSeam die f).fw = s.fw := rfl
@[simp] theorem State.modSeam_ns (s : State) (die : Nat) (f : Seam → Seam) : (s.modSeam die f).ns = s.ns := rfl
@[simp] theorem State.modSeam_clk (s : State) (die : Nat) (f : Seam → Seam) : (s.modSeam die f).clk = s.clk := rfl
@[simp] theorem State.modSeam_mem (s : State) (die : Nat) (f : Seam → Seam) : (s.modSeam die f).mem = s.mem := rfl
@[simp] theorem State.modSeam_hist (s : State) (die : Nat) (f : Seam → Seam) : (s.modSeam die f).hist = s.hist := rfl
@[simp] theorem State.modSeam_seq (s : State) (die : Nat) (f : Seam → Seam) : (s.modSeam die f).seq = s.seq := rfl
@[simp] theorem State.modSeam_byteKeys (s : State) (die : Nat) (f : Seam → Seam) : (s.modSeam die f).byteKeys = s.byteKeys := rfl
@[simp] theorem State.modSeam_llc (s : State) (die : Nat) (f : Seam → Seam) : (s.modSeam die f).llc = s.llc := rfl
@[simp] theorem State.modSeam_l1 (s : State) (die : Nat) (f : Seam → Seam) : (s.modSeam die f).l1 = s.l1 := rfl
@[simp] theorem State.modSeam_uses (s : State) (die : Nat) (f : Seam → Seam) : (s.modSeam die f).uses = s.uses := rfl
@[simp] theorem State.modSeam_poison (s : State) (die : Nat) (f : Seam → Seam) : (s.modSeam die f).poison = s.poison := rfl
@[simp] theorem State.modSeam_undef (s : State) (die : Nat) (f : Seam → Seam) : (s.modSeam die f).undef = s.undef := rfl
@[simp] theorem State.modSeam_syncs (s : State) (die : Nat) (f : Seam → Seam) : (s.modSeam die f).syncs = s.syncs := rfl
@[simp] theorem State.modSeam_mixed (s : State) (die : Nat) (f : Seam → Seam) : (s.modSeam die f).mixed = s.mixed := rfl
@[simp] theorem State.modSeam_tlb (s : State) (die : Nat) (f : Seam → Seam) : (s.modSeam die f).tlb = s.tlb := rfl
@[simp] theorem State.modSeam_tlbinvs (s : State) (die : Nat) (f : Seam → Seam) : (s.modSeam die f).tlbinvs = s.tlbinvs := rfl
@[simp] theorem State.modSeam_cores (s : State) (die : Nat) (f : Seam → Seam) : (s.modSeam die f).cores = s.cores := rfl
@[simp] theorem State.modSeam_warps (s : State) (die : Nat) (f : Seam → Seam) : (s.modSeam die f).warps = s.warps := rfl
@[simp] theorem State.modSeam_saved (s : State) (die : Nat) (f : Seam → Seam) : (s.modSeam die f).saved = s.saved := rfl
@[simp] theorem State.modSeam_evicting (s : State) (die : Nat) (f : Seam → Seam) : (s.modSeam die f).evicting = s.evicting := rfl
@[simp] theorem State.modSeam_bankSaves (s : State) (die : Nat) (f : Seam → Seam) : (s.modSeam die f).bankSaves = s.bankSaves := rfl
@[simp] theorem State.modSeam_widens (s : State) (die : Nat) (f : Seam → Seam) : (s.modSeam die f).widens = s.widens := rfl
@[simp] theorem State.modSeam_gathers (s : State) (die : Nat) (f : Seam → Seam) : (s.modSeam die f).gathers = s.gathers := rfl
@[simp] theorem State.modSeam_keyeds (s : State) (die : Nat) (f : Seam → Seam) : (s.modSeam die f).keyeds = s.keyeds := rfl
@[simp] theorem State.modSeam_regs (s : State) (die : Nat) (f : Seam → Seam) : (s.modSeam die f).regs = s.regs := rfl
@[simp] theorem State.modSeam_barriers (s : State) (die : Nat) (f : Seam → Seam) : (s.modSeam die f).barriers = s.barriers := rfl
@[simp] theorem State.modSeam_launches (s : State) (die : Nat) (f : Seam → Seam) : (s.modSeam die f).launches = s.launches := rfl
@[simp] theorem State.modSeam_nextLaunch (s : State) (die : Nat) (f : Seam → Seam) : (s.modSeam die f).nextLaunch = s.nextLaunch := rfl
@[simp] theorem State.modSeam_ctxs (s : State) (die : Nat) (f : Seam → Seam) : (s.modSeam die f).ctxs = s.ctxs := rfl
@[simp] theorem State.modSeam_graphs (s : State) (die : Nat) (f : Seam → Seam) : (s.modSeam die f).graphs = s.graphs := rfl
@[simp] theorem State.modSeam_seams (s : State) (die : Nat) (f : Seam → Seam) : (s.modSeam die f).seams = s.seams.insert die (f (s.seam die)) := rfl
@[simp] theorem State.modSeam_bcus (s : State) (die : Nat) (f : Seam → Seam) : (s.modSeam die f).bcus = s.bcus := rfl
@[simp] theorem State.modSeam_stagings (s : State) (die : Nat) (f : Seam → Seam) : (s.modSeam die f).stagings = s.stagings := rfl
@[simp] theorem State.modSeam_denied (s : State) (die : Nat) (f : Seam → Seam) : (s.modSeam die f).denied = s.denied := rfl
@[simp] theorem State.modSeam_darnerFaults (s : State) (die : Nat) (f : Seam → Seam) : (s.modSeam die f).darnerFaults = s.darnerFaults := rfl
@[simp] theorem State.modSeam_jobs (s : State) (die : Nat) (f : Seam → Seam) : (s.modSeam die f).jobs = s.jobs := rfl
@[simp] theorem State.modSeam_snapshots (s : State) (die : Nat) (f : Seam → Seam) : (s.modSeam die f).snapshots = s.snapshots := rfl
@[simp] theorem State.modSeam_images (s : State) (die : Nat) (f : Seam → Seam) : (s.modSeam die f).images = s.images := rfl
@[simp] theorem State.modSeam_links (s : State) (die : Nat) (f : Seam → Seam) : (s.modSeam die f).links = s.links := rfl
@[simp] theorem State.modSeam_heard (s : State) (die : Nat) (f : Seam → Seam) : (s.modSeam die f).heard = s.heard := rfl
@[simp] theorem State.modSeam_isolated (s : State) (die : Nat) (f : Seam → Seam) : (s.modSeam die f).isolated = s.isolated := rfl
@[simp] theorem State.modSeam_keys (s : State) (die : Nat) (f : Seam → Seam) : (s.modSeam die f).keys = s.keys := rfl
@[simp] theorem State.modSeam_keyRing (s : State) (die : Nat) (f : Seam → Seam) : (s.modSeam die f).keyRing = s.keyRing := rfl
@[simp] theorem State.modSeam_regions (s : State) (die : Nat) (f : Seam → Seam) : (s.modSeam die f).regions = s.regions := rfl
@[simp] theorem State.modSeam_counters (s : State) (die : Nat) (f : Seam → Seam) : (s.modSeam die f).counters = s.counters := rfl
@[simp] theorem State.modSeam_marks (s : State) (die : Nat) (f : Seam → Seam) : (s.modSeam die f).marks = s.marks := rfl

@[simp] theorem State.count_turn (s : State) (die : Nat) (k : Nat) (n : Nat) : (s.count die k n).turn = s.turn := rfl
@[simp] theorem State.count_free (s : State) (die : Nat) (k : Nat) (n : Nat) : (s.count die k n).free = s.free := rfl
@[simp] theorem State.count_cur (s : State) (die : Nat) (k : Nat) (n : Nat) : (s.count die k n).cur = s.cur := rfl
@[simp] theorem State.count_boot (s : State) (die : Nat) (k : Nat) (n : Nat) : (s.count die k n).boot = s.boot := rfl
@[simp] theorem State.count_fw (s : State) (die : Nat) (k : Nat) (n : Nat) : (s.count die k n).fw = s.fw := rfl
@[simp] theorem State.count_ns (s : State) (die : Nat) (k : Nat) (n : Nat) : (s.count die k n).ns = s.ns := rfl
@[simp] theorem State.count_clk (s : State) (die : Nat) (k : Nat) (n : Nat) : (s.count die k n).clk = s.clk := rfl
@[simp] theorem State.count_mem (s : State) (die : Nat) (k : Nat) (n : Nat) : (s.count die k n).mem = s.mem := rfl
@[simp] theorem State.count_hist (s : State) (die : Nat) (k : Nat) (n : Nat) : (s.count die k n).hist = s.hist := rfl
@[simp] theorem State.count_seq (s : State) (die : Nat) (k : Nat) (n : Nat) : (s.count die k n).seq = s.seq := rfl
@[simp] theorem State.count_byteKeys (s : State) (die : Nat) (k : Nat) (n : Nat) : (s.count die k n).byteKeys = s.byteKeys := rfl
@[simp] theorem State.count_llc (s : State) (die : Nat) (k : Nat) (n : Nat) : (s.count die k n).llc = s.llc := rfl
@[simp] theorem State.count_l1 (s : State) (die : Nat) (k : Nat) (n : Nat) : (s.count die k n).l1 = s.l1 := rfl
@[simp] theorem State.count_uses (s : State) (die : Nat) (k : Nat) (n : Nat) : (s.count die k n).uses = s.uses := rfl
@[simp] theorem State.count_poison (s : State) (die : Nat) (k : Nat) (n : Nat) : (s.count die k n).poison = s.poison := rfl
@[simp] theorem State.count_undef (s : State) (die : Nat) (k : Nat) (n : Nat) : (s.count die k n).undef = s.undef := rfl
@[simp] theorem State.count_syncs (s : State) (die : Nat) (k : Nat) (n : Nat) : (s.count die k n).syncs = s.syncs := rfl
@[simp] theorem State.count_mixed (s : State) (die : Nat) (k : Nat) (n : Nat) : (s.count die k n).mixed = s.mixed := rfl
@[simp] theorem State.count_tlb (s : State) (die : Nat) (k : Nat) (n : Nat) : (s.count die k n).tlb = s.tlb := rfl
@[simp] theorem State.count_tlbinvs (s : State) (die : Nat) (k : Nat) (n : Nat) : (s.count die k n).tlbinvs = s.tlbinvs := rfl
@[simp] theorem State.count_cores (s : State) (die : Nat) (k : Nat) (n : Nat) : (s.count die k n).cores = s.cores := rfl
@[simp] theorem State.count_warps (s : State) (die : Nat) (k : Nat) (n : Nat) : (s.count die k n).warps = s.warps := rfl
@[simp] theorem State.count_saved (s : State) (die : Nat) (k : Nat) (n : Nat) : (s.count die k n).saved = s.saved := rfl
@[simp] theorem State.count_evicting (s : State) (die : Nat) (k : Nat) (n : Nat) : (s.count die k n).evicting = s.evicting := rfl
@[simp] theorem State.count_bankSaves (s : State) (die : Nat) (k : Nat) (n : Nat) : (s.count die k n).bankSaves = s.bankSaves := rfl
@[simp] theorem State.count_widens (s : State) (die : Nat) (k : Nat) (n : Nat) : (s.count die k n).widens = s.widens := rfl
@[simp] theorem State.count_gathers (s : State) (die : Nat) (k : Nat) (n : Nat) : (s.count die k n).gathers = s.gathers := rfl
@[simp] theorem State.count_keyeds (s : State) (die : Nat) (k : Nat) (n : Nat) : (s.count die k n).keyeds = s.keyeds := rfl
@[simp] theorem State.count_regs (s : State) (die : Nat) (k : Nat) (n : Nat) : (s.count die k n).regs = s.regs := rfl
@[simp] theorem State.count_barriers (s : State) (die : Nat) (k : Nat) (n : Nat) : (s.count die k n).barriers = s.barriers := rfl
@[simp] theorem State.count_launches (s : State) (die : Nat) (k : Nat) (n : Nat) : (s.count die k n).launches = s.launches := rfl
@[simp] theorem State.count_nextLaunch (s : State) (die : Nat) (k : Nat) (n : Nat) : (s.count die k n).nextLaunch = s.nextLaunch := rfl
@[simp] theorem State.count_ctxs (s : State) (die : Nat) (k : Nat) (n : Nat) : (s.count die k n).ctxs = s.ctxs := rfl
@[simp] theorem State.count_graphs (s : State) (die : Nat) (k : Nat) (n : Nat) : (s.count die k n).graphs = s.graphs := rfl
@[simp] theorem State.count_seams (s : State) (die : Nat) (k : Nat) (n : Nat) : (s.count die k n).seams = s.seams := rfl
@[simp] theorem State.count_bcus (s : State) (die : Nat) (k : Nat) (n : Nat) : (s.count die k n).bcus = s.bcus := rfl
@[simp] theorem State.count_stagings (s : State) (die : Nat) (k : Nat) (n : Nat) : (s.count die k n).stagings = s.stagings := rfl
@[simp] theorem State.count_denied (s : State) (die : Nat) (k : Nat) (n : Nat) : (s.count die k n).denied = s.denied := rfl
@[simp] theorem State.count_darnerFaults (s : State) (die : Nat) (k : Nat) (n : Nat) : (s.count die k n).darnerFaults = s.darnerFaults := rfl
@[simp] theorem State.count_jobs (s : State) (die : Nat) (k : Nat) (n : Nat) : (s.count die k n).jobs = s.jobs := rfl
@[simp] theorem State.count_snapshots (s : State) (die : Nat) (k : Nat) (n : Nat) : (s.count die k n).snapshots = s.snapshots := rfl
@[simp] theorem State.count_images (s : State) (die : Nat) (k : Nat) (n : Nat) : (s.count die k n).images = s.images := rfl
@[simp] theorem State.count_links (s : State) (die : Nat) (k : Nat) (n : Nat) : (s.count die k n).links = s.links := rfl
@[simp] theorem State.count_heard (s : State) (die : Nat) (k : Nat) (n : Nat) : (s.count die k n).heard = s.heard := rfl
@[simp] theorem State.count_isolated (s : State) (die : Nat) (k : Nat) (n : Nat) : (s.count die k n).isolated = s.isolated := rfl
@[simp] theorem State.count_keys (s : State) (die : Nat) (k : Nat) (n : Nat) : (s.count die k n).keys = s.keys := rfl
@[simp] theorem State.count_keyRing (s : State) (die : Nat) (k : Nat) (n : Nat) : (s.count die k n).keyRing = s.keyRing := rfl
@[simp] theorem State.count_regions (s : State) (die : Nat) (k : Nat) (n : Nat) : (s.count die k n).regions = s.regions := rfl
@[simp] theorem State.count_marks (s : State) (die : Nat) (k : Nat) (n : Nat) : (s.count die k n).marks = s.marks := rfl

/-! ### Changes of a warp -/

@[simp] theorem WarpCore.modLane_core (w : WarpCore) (l : Nat) (f : LaneState → LaneState) : (w.modLane l f).core = w.core := rfl
@[simp] theorem WarpCore.modLane_slot (w : WarpCore) (l : Nat) (f : LaneState → LaneState) : (w.modLane l f).slot = w.slot := rfl
@[simp] theorem WarpCore.modLane_launch (w : WarpCore) (l : Nat) (f : LaneState → LaneState) : (w.modLane l f).launch = w.launch := rfl
@[simp] theorem WarpCore.modLane_rank (w : WarpCore) (l : Nat) (f : LaneState → LaneState) : (w.modLane l f).rank = w.rank := rfl
@[simp] theorem WarpCore.modLane_gen (w : WarpCore) (l : Nat) (f : LaneState → LaneState) : (w.modLane l f).gen = w.gen := rfl
@[simp] theorem WarpCore.modLane_alloc (w : WarpCore) (l : Nat) (f : LaneState → LaneState) : (w.modLane l f).alloc = w.alloc := rfl
@[simp] theorem WarpCore.modLane_live (w : WarpCore) (l : Nat) (f : LaneState → LaneState) : (w.modLane l f).live = w.live := rfl
@[simp] theorem WarpCore.modLane_frontier (w : WarpCore) (l : Nat) (f : LaneState → LaneState) : (w.modLane l f).frontier = w.frontier := rfl
@[simp] theorem WarpCore.modLane_regs (w : WarpCore) (l : Nat) (f : LaneState → LaneState) : (w.modLane l f).regs = w.regs := rfl
@[simp] theorem WarpCore.modLane_w (w : WarpCore) (l : Nat) (f : LaneState → LaneState) : (w.modLane l f).w = w.w := rfl
@[simp] theorem WarpCore.modLane_k (w : WarpCore) (l : Nat) (f : LaneState → LaneState) : (w.modLane l f).k = w.k := rfl
@[simp] theorem WarpCore.modLane_x (w : WarpCore) (l : Nat) (f : LaneState → LaneState) : (w.modLane l f).x = w.x := rfl
@[simp] theorem WarpCore.modLane_q (w : WarpCore) (l : Nat) (f : LaneState → LaneState) : (w.modLane l f).q = w.q := rfl
@[simp] theorem WarpCore.modLane_flags (w : WarpCore) (l : Nat) (f : LaneState → LaneState) : (w.modLane l f).flags = w.flags := rfl
@[simp] theorem WarpCore.modLane_srng (w : WarpCore) (l : Nat) (f : LaneState → LaneState) : (w.modLane l f).srng = w.srng := rfl
@[simp] theorem WarpCore.modLane_drop (w : WarpCore) (l : Nat) (f : LaneState → LaneState) : (w.modLane l f).drop = w.drop := rfl
@[simp] theorem WarpCore.modLane_trapvec (w : WarpCore) (l : Nat) (f : LaneState → LaneState) : (w.modLane l f).trapvec = w.trapvec := rfl
@[simp] theorem WarpCore.modLane_wbase (w : WarpCore) (l : Nat) (f : LaneState → LaneState) : (w.modLane l f).wbase = w.wbase := rfl
@[simp] theorem WarpCore.modLane_out (w : WarpCore) (l : Nat) (f : LaneState → LaneState) : (w.modLane l f).out = w.out := rfl
@[simp] theorem WarpCore.modLane_held (w : WarpCore) (l : Nat) (f : LaneState → LaneState) : (w.modLane l f).held = w.held := rfl
@[simp] theorem WarpCore.modLane_drained (w : WarpCore) (l : Nat) (f : LaneState → LaneState) : (w.modLane l f).drained = w.drained := rfl
@[simp] theorem WarpCore.modLane_yieldTo (w : WarpCore) (l : Nat) (f : LaneState → LaneState) : (w.modLane l f).yieldTo = w.yieldTo := rfl
@[simp] theorem WarpCore.modLane_stores (w : WarpCore) (l : Nat) (f : LaneState → LaneState) : (w.modLane l f).stores = w.stores := rfl
@[simp] theorem WarpCore.modLane_refresh (w : WarpCore) (l : Nat) (f : LaneState → LaneState) : (w.modLane l f).refresh = w.refresh := rfl
@[simp] theorem WarpCore.modLane_reads (w : WarpCore) (l : Nat) (f : LaneState → LaneState) : (w.modLane l f).reads = w.reads := rfl
@[simp] theorem WarpCore.modLane_owed (w : WarpCore) (l : Nat) (f : LaneState → LaneState) : (w.modLane l f).owed = w.owed := rfl
@[simp] theorem WarpCore.modLane_tags (w : WarpCore) (l : Nat) (f : LaneState → LaneState) : (w.modLane l f).tags = w.tags := rfl
@[simp] theorem WarpCore.modLane_bcuLast (w : WarpCore) (l : Nat) (f : LaneState → LaneState) : (w.modLane l f).bcuLast = w.bcuLast := rfl
@[simp] theorem WarpCore.modLane_bcuSeq (w : WarpCore) (l : Nat) (f : LaneState → LaneState) : (w.modLane l f).bcuSeq = w.bcuSeq := rfl
@[simp] theorem WarpCore.modLane_fenced (w : WarpCore) (l : Nat) (f : LaneState → LaneState) : (w.modLane l f).fenced = w.fenced := rfl
@[simp] theorem WarpCore.modLane_seamOut (w : WarpCore) (l : Nat) (f : LaneState → LaneState) : (w.modLane l f).seamOut = w.seamOut := rfl
@[simp] theorem WarpCore.modLane_handler (w : WarpCore) (l : Nat) (f : LaneState → LaneState) : (w.modLane l f).handler = w.handler := rfl
@[simp] theorem WarpCore.modLane_subs (w : WarpCore) (l : Nat) (f : LaneState → LaneState) : (w.modLane l f).subs = w.subs := rfl
@[simp] theorem WarpCore.modLane_nextSub (w : WarpCore) (l : Nat) (f : LaneState → LaneState) : (w.modLane l f).nextSub = w.nextSub := rfl
@[simp] theorem WarpCore.modLane_due (w : WarpCore) (l : Nat) (f : LaneState → LaneState) : (w.modLane l f).due = w.due := rfl
@[simp] theorem WarpCore.modLane_task (w : WarpCore) (l : Nat) (f : LaneState → LaneState) : (w.modLane l f).task = w.task := rfl
@[simp] theorem WarpCore.modLane_job (w : WarpCore) (l : Nat) (f : LaneState → LaneState) : (w.modLane l f).job = w.job := rfl
@[simp] theorem WarpCore.modLane_depth (w : WarpCore) (l : Nat) (f : LaneState → LaneState) : (w.modLane l f).depth = w.depth := rfl

@[simp] theorem WarpCore.setMask_core (w : WarpCore) (n : Nat) (v : Mask) : (w.setMask n v).core = w.core := rfl
@[simp] theorem WarpCore.setMask_slot (w : WarpCore) (n : Nat) (v : Mask) : (w.setMask n v).slot = w.slot := rfl
@[simp] theorem WarpCore.setMask_launch (w : WarpCore) (n : Nat) (v : Mask) : (w.setMask n v).launch = w.launch := rfl
@[simp] theorem WarpCore.setMask_rank (w : WarpCore) (n : Nat) (v : Mask) : (w.setMask n v).rank = w.rank := rfl
@[simp] theorem WarpCore.setMask_gen (w : WarpCore) (n : Nat) (v : Mask) : (w.setMask n v).gen = w.gen := rfl
@[simp] theorem WarpCore.setMask_alloc (w : WarpCore) (n : Nat) (v : Mask) : (w.setMask n v).alloc = w.alloc := rfl
@[simp] theorem WarpCore.setMask_live (w : WarpCore) (n : Nat) (v : Mask) : (w.setMask n v).live = w.live := rfl
@[simp] theorem WarpCore.setMask_frontier (w : WarpCore) (n : Nat) (v : Mask) : (w.setMask n v).frontier = w.frontier := rfl
@[simp] theorem WarpCore.setMask_regs (w : WarpCore) (n : Nat) (v : Mask) : (w.setMask n v).regs = w.regs := rfl
@[simp] theorem WarpCore.setMask_w (w : WarpCore) (n : Nat) (v : Mask) : (w.setMask n v).w = w.w := rfl
@[simp] theorem WarpCore.setMask_k (w : WarpCore) (n : Nat) (v : Mask) : (w.setMask n v).k = Map.set 0 w.k n (v &&& w.live) := rfl
@[simp] theorem WarpCore.setMask_x (w : WarpCore) (n : Nat) (v : Mask) : (w.setMask n v).x = w.x := rfl
@[simp] theorem WarpCore.setMask_q (w : WarpCore) (n : Nat) (v : Mask) : (w.setMask n v).q = w.q := rfl
@[simp] theorem WarpCore.setMask_lanes (w : WarpCore) (n : Nat) (v : Mask) : (w.setMask n v).lanes = w.lanes := rfl
@[simp] theorem WarpCore.setMask_flags (w : WarpCore) (n : Nat) (v : Mask) : (w.setMask n v).flags = w.flags := rfl
@[simp] theorem WarpCore.setMask_srng (w : WarpCore) (n : Nat) (v : Mask) : (w.setMask n v).srng = w.srng := rfl
@[simp] theorem WarpCore.setMask_drop (w : WarpCore) (n : Nat) (v : Mask) : (w.setMask n v).drop = w.drop := rfl
@[simp] theorem WarpCore.setMask_trapvec (w : WarpCore) (n : Nat) (v : Mask) : (w.setMask n v).trapvec = w.trapvec := rfl
@[simp] theorem WarpCore.setMask_wbase (w : WarpCore) (n : Nat) (v : Mask) : (w.setMask n v).wbase = w.wbase := rfl
@[simp] theorem WarpCore.setMask_out (w : WarpCore) (n : Nat) (v : Mask) : (w.setMask n v).out = w.out := rfl
@[simp] theorem WarpCore.setMask_held (w : WarpCore) (n : Nat) (v : Mask) : (w.setMask n v).held = w.held := rfl
@[simp] theorem WarpCore.setMask_drained (w : WarpCore) (n : Nat) (v : Mask) : (w.setMask n v).drained = w.drained := rfl
@[simp] theorem WarpCore.setMask_yieldTo (w : WarpCore) (n : Nat) (v : Mask) : (w.setMask n v).yieldTo = w.yieldTo := rfl
@[simp] theorem WarpCore.setMask_stores (w : WarpCore) (n : Nat) (v : Mask) : (w.setMask n v).stores = w.stores := rfl
@[simp] theorem WarpCore.setMask_refresh (w : WarpCore) (n : Nat) (v : Mask) : (w.setMask n v).refresh = w.refresh := rfl
@[simp] theorem WarpCore.setMask_reads (w : WarpCore) (n : Nat) (v : Mask) : (w.setMask n v).reads = w.reads := rfl
@[simp] theorem WarpCore.setMask_owed (w : WarpCore) (n : Nat) (v : Mask) : (w.setMask n v).owed = w.owed := rfl
@[simp] theorem WarpCore.setMask_tags (w : WarpCore) (n : Nat) (v : Mask) : (w.setMask n v).tags = w.tags := rfl
@[simp] theorem WarpCore.setMask_bcuLast (w : WarpCore) (n : Nat) (v : Mask) : (w.setMask n v).bcuLast = w.bcuLast := rfl
@[simp] theorem WarpCore.setMask_bcuSeq (w : WarpCore) (n : Nat) (v : Mask) : (w.setMask n v).bcuSeq = w.bcuSeq := rfl
@[simp] theorem WarpCore.setMask_fenced (w : WarpCore) (n : Nat) (v : Mask) : (w.setMask n v).fenced = w.fenced := rfl
@[simp] theorem WarpCore.setMask_seamOut (w : WarpCore) (n : Nat) (v : Mask) : (w.setMask n v).seamOut = w.seamOut := rfl
@[simp] theorem WarpCore.setMask_handler (w : WarpCore) (n : Nat) (v : Mask) : (w.setMask n v).handler = w.handler := rfl
@[simp] theorem WarpCore.setMask_subs (w : WarpCore) (n : Nat) (v : Mask) : (w.setMask n v).subs = w.subs := rfl
@[simp] theorem WarpCore.setMask_nextSub (w : WarpCore) (n : Nat) (v : Mask) : (w.setMask n v).nextSub = w.nextSub := rfl
@[simp] theorem WarpCore.setMask_due (w : WarpCore) (n : Nat) (v : Mask) : (w.setMask n v).due = w.due := rfl
@[simp] theorem WarpCore.setMask_task (w : WarpCore) (n : Nat) (v : Mask) : (w.setMask n v).task = w.task := rfl
@[simp] theorem WarpCore.setMask_job (w : WarpCore) (n : Nat) (v : Mask) : (w.setMask n v).job = w.job := rfl
@[simp] theorem WarpCore.setMask_depth (w : WarpCore) (n : Nat) (v : Mask) : (w.setMask n v).depth = w.depth := rfl

@[simp] theorem WarpCore.settle_core (w : WarpCore)  : (w.settle).core = w.core := rfl
@[simp] theorem WarpCore.settle_slot (w : WarpCore)  : (w.settle).slot = w.slot := rfl
@[simp] theorem WarpCore.settle_launch (w : WarpCore)  : (w.settle).launch = w.launch := rfl
@[simp] theorem WarpCore.settle_rank (w : WarpCore)  : (w.settle).rank = w.rank := rfl
@[simp] theorem WarpCore.settle_gen (w : WarpCore)  : (w.settle).gen = w.gen := rfl
@[simp] theorem WarpCore.settle_alloc (w : WarpCore)  : (w.settle).alloc = w.alloc := rfl
@[simp] theorem WarpCore.settle_live (w : WarpCore)  : (w.settle).live = w.live := rfl
@[simp] theorem WarpCore.settle_regs (w : WarpCore)  : (w.settle).regs = w.regs := rfl
@[simp] theorem WarpCore.settle_w (w : WarpCore)  : (w.settle).w = w.w := rfl
@[simp] theorem WarpCore.settle_k (w : WarpCore)  : (w.settle).k = w.k := rfl
@[simp] theorem WarpCore.settle_x (w : WarpCore)  : (w.settle).x = w.x := rfl
@[simp] theorem WarpCore.settle_q (w : WarpCore)  : (w.settle).q = w.q := rfl
@[simp] theorem WarpCore.settle_lanes (w : WarpCore)  : (w.settle).lanes = w.lanes := rfl
@[simp] theorem WarpCore.settle_flags (w : WarpCore)  : (w.settle).flags = w.flags := rfl
@[simp] theorem WarpCore.settle_srng (w : WarpCore)  : (w.settle).srng = w.srng := rfl
@[simp] theorem WarpCore.settle_drop (w : WarpCore)  : (w.settle).drop = w.drop := rfl
@[simp] theorem WarpCore.settle_trapvec (w : WarpCore)  : (w.settle).trapvec = w.trapvec := rfl
@[simp] theorem WarpCore.settle_wbase (w : WarpCore)  : (w.settle).wbase = w.wbase := rfl
@[simp] theorem WarpCore.settle_out (w : WarpCore)  : (w.settle).out = w.out := rfl
@[simp] theorem WarpCore.settle_held (w : WarpCore)  : (w.settle).held = w.held := rfl
@[simp] theorem WarpCore.settle_drained (w : WarpCore)  : (w.settle).drained = w.drained := rfl
@[simp] theorem WarpCore.settle_yieldTo (w : WarpCore)  : (w.settle).yieldTo = w.yieldTo := rfl
@[simp] theorem WarpCore.settle_stores (w : WarpCore)  : (w.settle).stores = w.stores := rfl
@[simp] theorem WarpCore.settle_refresh (w : WarpCore)  : (w.settle).refresh = w.refresh := rfl
@[simp] theorem WarpCore.settle_reads (w : WarpCore)  : (w.settle).reads = w.reads := rfl
@[simp] theorem WarpCore.settle_owed (w : WarpCore)  : (w.settle).owed = w.owed := rfl
@[simp] theorem WarpCore.settle_tags (w : WarpCore)  : (w.settle).tags = w.tags := rfl
@[simp] theorem WarpCore.settle_bcuLast (w : WarpCore)  : (w.settle).bcuLast = w.bcuLast := rfl
@[simp] theorem WarpCore.settle_bcuSeq (w : WarpCore)  : (w.settle).bcuSeq = w.bcuSeq := rfl
@[simp] theorem WarpCore.settle_fenced (w : WarpCore)  : (w.settle).fenced = w.fenced := rfl
@[simp] theorem WarpCore.settle_seamOut (w : WarpCore)  : (w.settle).seamOut = w.seamOut := rfl
@[simp] theorem WarpCore.settle_handler (w : WarpCore)  : (w.settle).handler = w.handler := rfl
@[simp] theorem WarpCore.settle_subs (w : WarpCore)  : (w.settle).subs = w.subs := rfl
@[simp] theorem WarpCore.settle_nextSub (w : WarpCore)  : (w.settle).nextSub = w.nextSub := rfl
@[simp] theorem WarpCore.settle_due (w : WarpCore)  : (w.settle).due = w.due := rfl
@[simp] theorem WarpCore.settle_task (w : WarpCore)  : (w.settle).task = w.task := rfl
@[simp] theorem WarpCore.settle_job (w : WarpCore)  : (w.settle).job = w.job := rfl
@[simp] theorem WarpCore.settle_depth (w : WarpCore)  : (w.settle).depth = w.depth := rfl

@[simp] theorem WarpCore.place_core (w : WarpCore) (m : Mask) (prio : Nat) (pc : Nat) (st : EState) : (w.place m prio pc st).core = w.core := rfl
@[simp] theorem WarpCore.place_slot (w : WarpCore) (m : Mask) (prio : Nat) (pc : Nat) (st : EState) : (w.place m prio pc st).slot = w.slot := rfl
@[simp] theorem WarpCore.place_launch (w : WarpCore) (m : Mask) (prio : Nat) (pc : Nat) (st : EState) : (w.place m prio pc st).launch = w.launch := rfl
@[simp] theorem WarpCore.place_rank (w : WarpCore) (m : Mask) (prio : Nat) (pc : Nat) (st : EState) : (w.place m prio pc st).rank = w.rank := rfl
@[simp] theorem WarpCore.place_gen (w : WarpCore) (m : Mask) (prio : Nat) (pc : Nat) (st : EState) : (w.place m prio pc st).gen = w.gen := rfl
@[simp] theorem WarpCore.place_alloc (w : WarpCore) (m : Mask) (prio : Nat) (pc : Nat) (st : EState) : (w.place m prio pc st).alloc = w.alloc := rfl
@[simp] theorem WarpCore.place_live (w : WarpCore) (m : Mask) (prio : Nat) (pc : Nat) (st : EState) : (w.place m prio pc st).live = w.live := rfl
@[simp] theorem WarpCore.place_frontier (w : WarpCore) (m : Mask) (prio : Nat) (pc : Nat) (st : EState) : (w.place m prio pc st).frontier = takeLanes m w.frontier ++ (if m = 0 then [] else [{ prio := prio, pc := pc, lanes := m, state := st }]) := rfl
@[simp] theorem WarpCore.place_regs (w : WarpCore) (m : Mask) (prio : Nat) (pc : Nat) (st : EState) : (w.place m prio pc st).regs = w.regs := rfl
@[simp] theorem WarpCore.place_w (w : WarpCore) (m : Mask) (prio : Nat) (pc : Nat) (st : EState) : (w.place m prio pc st).w = w.w := rfl
@[simp] theorem WarpCore.place_k (w : WarpCore) (m : Mask) (prio : Nat) (pc : Nat) (st : EState) : (w.place m prio pc st).k = w.k := rfl
@[simp] theorem WarpCore.place_x (w : WarpCore) (m : Mask) (prio : Nat) (pc : Nat) (st : EState) : (w.place m prio pc st).x = w.x := rfl
@[simp] theorem WarpCore.place_q (w : WarpCore) (m : Mask) (prio : Nat) (pc : Nat) (st : EState) : (w.place m prio pc st).q = w.q := rfl
@[simp] theorem WarpCore.place_lanes (w : WarpCore) (m : Mask) (prio : Nat) (pc : Nat) (st : EState) : (w.place m prio pc st).lanes = w.lanes := rfl
@[simp] theorem WarpCore.place_flags (w : WarpCore) (m : Mask) (prio : Nat) (pc : Nat) (st : EState) : (w.place m prio pc st).flags = w.flags := rfl
@[simp] theorem WarpCore.place_srng (w : WarpCore) (m : Mask) (prio : Nat) (pc : Nat) (st : EState) : (w.place m prio pc st).srng = w.srng := rfl
@[simp] theorem WarpCore.place_drop (w : WarpCore) (m : Mask) (prio : Nat) (pc : Nat) (st : EState) : (w.place m prio pc st).drop = w.drop := rfl
@[simp] theorem WarpCore.place_trapvec (w : WarpCore) (m : Mask) (prio : Nat) (pc : Nat) (st : EState) : (w.place m prio pc st).trapvec = w.trapvec := rfl
@[simp] theorem WarpCore.place_wbase (w : WarpCore) (m : Mask) (prio : Nat) (pc : Nat) (st : EState) : (w.place m prio pc st).wbase = w.wbase := rfl
@[simp] theorem WarpCore.place_out (w : WarpCore) (m : Mask) (prio : Nat) (pc : Nat) (st : EState) : (w.place m prio pc st).out = w.out := rfl
@[simp] theorem WarpCore.place_held (w : WarpCore) (m : Mask) (prio : Nat) (pc : Nat) (st : EState) : (w.place m prio pc st).held = w.held := rfl
@[simp] theorem WarpCore.place_drained (w : WarpCore) (m : Mask) (prio : Nat) (pc : Nat) (st : EState) : (w.place m prio pc st).drained = w.drained := rfl
@[simp] theorem WarpCore.place_yieldTo (w : WarpCore) (m : Mask) (prio : Nat) (pc : Nat) (st : EState) : (w.place m prio pc st).yieldTo = w.yieldTo := rfl
@[simp] theorem WarpCore.place_stores (w : WarpCore) (m : Mask) (prio : Nat) (pc : Nat) (st : EState) : (w.place m prio pc st).stores = w.stores := rfl
@[simp] theorem WarpCore.place_refresh (w : WarpCore) (m : Mask) (prio : Nat) (pc : Nat) (st : EState) : (w.place m prio pc st).refresh = w.refresh := rfl
@[simp] theorem WarpCore.place_reads (w : WarpCore) (m : Mask) (prio : Nat) (pc : Nat) (st : EState) : (w.place m prio pc st).reads = w.reads := rfl
@[simp] theorem WarpCore.place_owed (w : WarpCore) (m : Mask) (prio : Nat) (pc : Nat) (st : EState) : (w.place m prio pc st).owed = w.owed := rfl
@[simp] theorem WarpCore.place_tags (w : WarpCore) (m : Mask) (prio : Nat) (pc : Nat) (st : EState) : (w.place m prio pc st).tags = w.tags := rfl
@[simp] theorem WarpCore.place_bcuLast (w : WarpCore) (m : Mask) (prio : Nat) (pc : Nat) (st : EState) : (w.place m prio pc st).bcuLast = w.bcuLast := rfl
@[simp] theorem WarpCore.place_bcuSeq (w : WarpCore) (m : Mask) (prio : Nat) (pc : Nat) (st : EState) : (w.place m prio pc st).bcuSeq = w.bcuSeq := rfl
@[simp] theorem WarpCore.place_fenced (w : WarpCore) (m : Mask) (prio : Nat) (pc : Nat) (st : EState) : (w.place m prio pc st).fenced = w.fenced := rfl
@[simp] theorem WarpCore.place_seamOut (w : WarpCore) (m : Mask) (prio : Nat) (pc : Nat) (st : EState) : (w.place m prio pc st).seamOut = w.seamOut := rfl
@[simp] theorem WarpCore.place_handler (w : WarpCore) (m : Mask) (prio : Nat) (pc : Nat) (st : EState) : (w.place m prio pc st).handler = w.handler := rfl
@[simp] theorem WarpCore.place_subs (w : WarpCore) (m : Mask) (prio : Nat) (pc : Nat) (st : EState) : (w.place m prio pc st).subs = w.subs := rfl
@[simp] theorem WarpCore.place_nextSub (w : WarpCore) (m : Mask) (prio : Nat) (pc : Nat) (st : EState) : (w.place m prio pc st).nextSub = w.nextSub := rfl
@[simp] theorem WarpCore.place_due (w : WarpCore) (m : Mask) (prio : Nat) (pc : Nat) (st : EState) : (w.place m prio pc st).due = w.due := rfl
@[simp] theorem WarpCore.place_task (w : WarpCore) (m : Mask) (prio : Nat) (pc : Nat) (st : EState) : (w.place m prio pc st).task = w.task := rfl
@[simp] theorem WarpCore.place_job (w : WarpCore) (m : Mask) (prio : Nat) (pc : Nat) (st : EState) : (w.place m prio pc st).job = w.job := rfl
@[simp] theorem WarpCore.place_depth (w : WarpCore) (m : Mask) (prio : Nat) (pc : Nat) (st : EState) : (w.place m prio pc st).depth = w.depth := rfl

@[simp] theorem WarpCore.drainRegs_core (w : WarpCore)  : (w.drainRegs).core = w.core := rfl
@[simp] theorem WarpCore.drainRegs_slot (w : WarpCore)  : (w.drainRegs).slot = w.slot := rfl
@[simp] theorem WarpCore.drainRegs_launch (w : WarpCore)  : (w.drainRegs).launch = w.launch := rfl
@[simp] theorem WarpCore.drainRegs_rank (w : WarpCore)  : (w.drainRegs).rank = w.rank := rfl
@[simp] theorem WarpCore.drainRegs_gen (w : WarpCore)  : (w.drainRegs).gen = w.gen := rfl
@[simp] theorem WarpCore.drainRegs_alloc (w : WarpCore)  : (w.drainRegs).alloc = w.alloc := rfl
@[simp] theorem WarpCore.drainRegs_live (w : WarpCore)  : (w.drainRegs).live = w.live := rfl
@[simp] theorem WarpCore.drainRegs_frontier (w : WarpCore)  : (w.drainRegs).frontier = w.frontier := rfl
@[simp] theorem WarpCore.drainRegs_regs (w : WarpCore)  : (w.drainRegs).regs = w.regs := rfl
@[simp] theorem WarpCore.drainRegs_w (w : WarpCore)  : (w.drainRegs).w = w.w := rfl
@[simp] theorem WarpCore.drainRegs_k (w : WarpCore)  : (w.drainRegs).k = w.k := rfl
@[simp] theorem WarpCore.drainRegs_x (w : WarpCore)  : (w.drainRegs).x = w.x := rfl
@[simp] theorem WarpCore.drainRegs_q (w : WarpCore)  : (w.drainRegs).q = w.q := rfl
@[simp] theorem WarpCore.drainRegs_lanes (w : WarpCore)  : (w.drainRegs).lanes = w.lanes := rfl
@[simp] theorem WarpCore.drainRegs_flags (w : WarpCore)  : (w.drainRegs).flags = w.flags := rfl
@[simp] theorem WarpCore.drainRegs_srng (w : WarpCore)  : (w.drainRegs).srng = w.srng := rfl
@[simp] theorem WarpCore.drainRegs_drop (w : WarpCore)  : (w.drainRegs).drop = w.drop := rfl
@[simp] theorem WarpCore.drainRegs_trapvec (w : WarpCore)  : (w.drainRegs).trapvec = w.trapvec := rfl
@[simp] theorem WarpCore.drainRegs_wbase (w : WarpCore)  : (w.drainRegs).wbase = w.wbase := rfl
@[simp] theorem WarpCore.drainRegs_out (w : WarpCore)  : (w.drainRegs).out = [] := rfl
@[simp] theorem WarpCore.drainRegs_held (w : WarpCore)  : (w.drainRegs).held = w.held := rfl
@[simp] theorem WarpCore.drainRegs_drained (w : WarpCore)  : (w.drainRegs).drained = w.out.foldl (fun n o => max n o.due) w.drained := rfl
@[simp] theorem WarpCore.drainRegs_yieldTo (w : WarpCore)  : (w.drainRegs).yieldTo = w.yieldTo := rfl
@[simp] theorem WarpCore.drainRegs_stores (w : WarpCore)  : (w.drainRegs).stores = w.stores := rfl
@[simp] theorem WarpCore.drainRegs_refresh (w : WarpCore)  : (w.drainRegs).refresh = w.refresh := rfl
@[simp] theorem WarpCore.drainRegs_reads (w : WarpCore)  : (w.drainRegs).reads = w.reads := rfl
@[simp] theorem WarpCore.drainRegs_owed (w : WarpCore)  : (w.drainRegs).owed = w.owed := rfl
@[simp] theorem WarpCore.drainRegs_tags (w : WarpCore)  : (w.drainRegs).tags = w.tags := rfl
@[simp] theorem WarpCore.drainRegs_bcuLast (w : WarpCore)  : (w.drainRegs).bcuLast = w.bcuLast := rfl
@[simp] theorem WarpCore.drainRegs_bcuSeq (w : WarpCore)  : (w.drainRegs).bcuSeq = w.bcuSeq := rfl
@[simp] theorem WarpCore.drainRegs_fenced (w : WarpCore)  : (w.drainRegs).fenced = w.fenced := rfl
@[simp] theorem WarpCore.drainRegs_seamOut (w : WarpCore)  : (w.drainRegs).seamOut = w.seamOut := rfl
@[simp] theorem WarpCore.drainRegs_handler (w : WarpCore)  : (w.drainRegs).handler = w.handler := rfl
@[simp] theorem WarpCore.drainRegs_subs (w : WarpCore)  : (w.drainRegs).subs = w.subs := rfl
@[simp] theorem WarpCore.drainRegs_nextSub (w : WarpCore)  : (w.drainRegs).nextSub = w.nextSub := rfl
@[simp] theorem WarpCore.drainRegs_due (w : WarpCore)  : (w.drainRegs).due = w.due := rfl
@[simp] theorem WarpCore.drainRegs_task (w : WarpCore)  : (w.drainRegs).task = w.task := rfl
@[simp] theorem WarpCore.drainRegs_job (w : WarpCore)  : (w.drainRegs).job = w.job := rfl
@[simp] theorem WarpCore.drainRegs_depth (w : WarpCore)  : (w.drainRegs).depth = w.depth := rfl

@[simp] theorem WarpCore.raise_core (w : WarpCore) (f : Flags) : (w.raise f).core = w.core := rfl
@[simp] theorem WarpCore.raise_slot (w : WarpCore) (f : Flags) : (w.raise f).slot = w.slot := rfl
@[simp] theorem WarpCore.raise_launch (w : WarpCore) (f : Flags) : (w.raise f).launch = w.launch := rfl
@[simp] theorem WarpCore.raise_rank (w : WarpCore) (f : Flags) : (w.raise f).rank = w.rank := rfl
@[simp] theorem WarpCore.raise_gen (w : WarpCore) (f : Flags) : (w.raise f).gen = w.gen := rfl
@[simp] theorem WarpCore.raise_alloc (w : WarpCore) (f : Flags) : (w.raise f).alloc = w.alloc := rfl
@[simp] theorem WarpCore.raise_live (w : WarpCore) (f : Flags) : (w.raise f).live = w.live := rfl
@[simp] theorem WarpCore.raise_frontier (w : WarpCore) (f : Flags) : (w.raise f).frontier = w.frontier := rfl
@[simp] theorem WarpCore.raise_regs (w : WarpCore) (f : Flags) : (w.raise f).regs = w.regs := rfl
@[simp] theorem WarpCore.raise_w (w : WarpCore) (f : Flags) : (w.raise f).w = w.w := rfl
@[simp] theorem WarpCore.raise_k (w : WarpCore) (f : Flags) : (w.raise f).k = w.k := rfl
@[simp] theorem WarpCore.raise_x (w : WarpCore) (f : Flags) : (w.raise f).x = w.x := rfl
@[simp] theorem WarpCore.raise_q (w : WarpCore) (f : Flags) : (w.raise f).q = w.q := rfl
@[simp] theorem WarpCore.raise_lanes (w : WarpCore) (f : Flags) : (w.raise f).lanes = w.lanes := rfl
@[simp] theorem WarpCore.raise_flags (w : WarpCore) (f : Flags) : (w.raise f).flags = w.flags ||| f := rfl
@[simp] theorem WarpCore.raise_srng (w : WarpCore) (f : Flags) : (w.raise f).srng = w.srng := rfl
@[simp] theorem WarpCore.raise_drop (w : WarpCore) (f : Flags) : (w.raise f).drop = w.drop := rfl
@[simp] theorem WarpCore.raise_trapvec (w : WarpCore) (f : Flags) : (w.raise f).trapvec = w.trapvec := rfl
@[simp] theorem WarpCore.raise_wbase (w : WarpCore) (f : Flags) : (w.raise f).wbase = w.wbase := rfl
@[simp] theorem WarpCore.raise_out (w : WarpCore) (f : Flags) : (w.raise f).out = w.out := rfl
@[simp] theorem WarpCore.raise_held (w : WarpCore) (f : Flags) : (w.raise f).held = w.held := rfl
@[simp] theorem WarpCore.raise_drained (w : WarpCore) (f : Flags) : (w.raise f).drained = w.drained := rfl
@[simp] theorem WarpCore.raise_yieldTo (w : WarpCore) (f : Flags) : (w.raise f).yieldTo = w.yieldTo := rfl
@[simp] theorem WarpCore.raise_stores (w : WarpCore) (f : Flags) : (w.raise f).stores = w.stores := rfl
@[simp] theorem WarpCore.raise_refresh (w : WarpCore) (f : Flags) : (w.raise f).refresh = w.refresh := rfl
@[simp] theorem WarpCore.raise_reads (w : WarpCore) (f : Flags) : (w.raise f).reads = w.reads := rfl
@[simp] theorem WarpCore.raise_owed (w : WarpCore) (f : Flags) : (w.raise f).owed = w.owed := rfl
@[simp] theorem WarpCore.raise_tags (w : WarpCore) (f : Flags) : (w.raise f).tags = w.tags := rfl
@[simp] theorem WarpCore.raise_bcuLast (w : WarpCore) (f : Flags) : (w.raise f).bcuLast = w.bcuLast := rfl
@[simp] theorem WarpCore.raise_bcuSeq (w : WarpCore) (f : Flags) : (w.raise f).bcuSeq = w.bcuSeq := rfl
@[simp] theorem WarpCore.raise_fenced (w : WarpCore) (f : Flags) : (w.raise f).fenced = w.fenced := rfl
@[simp] theorem WarpCore.raise_seamOut (w : WarpCore) (f : Flags) : (w.raise f).seamOut = w.seamOut := rfl
@[simp] theorem WarpCore.raise_handler (w : WarpCore) (f : Flags) : (w.raise f).handler = w.handler := rfl
@[simp] theorem WarpCore.raise_subs (w : WarpCore) (f : Flags) : (w.raise f).subs = w.subs := rfl
@[simp] theorem WarpCore.raise_nextSub (w : WarpCore) (f : Flags) : (w.raise f).nextSub = w.nextSub := rfl
@[simp] theorem WarpCore.raise_due (w : WarpCore) (f : Flags) : (w.raise f).due = w.due := rfl
@[simp] theorem WarpCore.raise_task (w : WarpCore) (f : Flags) : (w.raise f).task = w.task := rfl
@[simp] theorem WarpCore.raise_job (w : WarpCore) (f : Flags) : (w.raise f).job = w.job := rfl
@[simp] theorem WarpCore.raise_depth (w : WarpCore) (f : Flags) : (w.raise f).depth = w.depth := rfl

@[simp] theorem WarpCore.markDrop_core (w : WarpCore) (b : Bool) : (w.markDrop b).core = w.core := rfl
@[simp] theorem WarpCore.markDrop_slot (w : WarpCore) (b : Bool) : (w.markDrop b).slot = w.slot := rfl
@[simp] theorem WarpCore.markDrop_launch (w : WarpCore) (b : Bool) : (w.markDrop b).launch = w.launch := rfl
@[simp] theorem WarpCore.markDrop_rank (w : WarpCore) (b : Bool) : (w.markDrop b).rank = w.rank := rfl
@[simp] theorem WarpCore.markDrop_gen (w : WarpCore) (b : Bool) : (w.markDrop b).gen = w.gen := rfl
@[simp] theorem WarpCore.markDrop_alloc (w : WarpCore) (b : Bool) : (w.markDrop b).alloc = w.alloc := rfl
@[simp] theorem WarpCore.markDrop_live (w : WarpCore) (b : Bool) : (w.markDrop b).live = w.live := rfl
@[simp] theorem WarpCore.markDrop_frontier (w : WarpCore) (b : Bool) : (w.markDrop b).frontier = w.frontier := rfl
@[simp] theorem WarpCore.markDrop_regs (w : WarpCore) (b : Bool) : (w.markDrop b).regs = w.regs := rfl
@[simp] theorem WarpCore.markDrop_w (w : WarpCore) (b : Bool) : (w.markDrop b).w = w.w := rfl
@[simp] theorem WarpCore.markDrop_k (w : WarpCore) (b : Bool) : (w.markDrop b).k = w.k := rfl
@[simp] theorem WarpCore.markDrop_x (w : WarpCore) (b : Bool) : (w.markDrop b).x = w.x := rfl
@[simp] theorem WarpCore.markDrop_q (w : WarpCore) (b : Bool) : (w.markDrop b).q = w.q := rfl
@[simp] theorem WarpCore.markDrop_lanes (w : WarpCore) (b : Bool) : (w.markDrop b).lanes = w.lanes := rfl
@[simp] theorem WarpCore.markDrop_flags (w : WarpCore) (b : Bool) : (w.markDrop b).flags = w.flags := rfl
@[simp] theorem WarpCore.markDrop_srng (w : WarpCore) (b : Bool) : (w.markDrop b).srng = w.srng := rfl
@[simp] theorem WarpCore.markDrop_drop (w : WarpCore) (b : Bool) : (w.markDrop b).drop = (w.drop || b) := rfl
@[simp] theorem WarpCore.markDrop_trapvec (w : WarpCore) (b : Bool) : (w.markDrop b).trapvec = w.trapvec := rfl
@[simp] theorem WarpCore.markDrop_wbase (w : WarpCore) (b : Bool) : (w.markDrop b).wbase = w.wbase := rfl
@[simp] theorem WarpCore.markDrop_out (w : WarpCore) (b : Bool) : (w.markDrop b).out = w.out := rfl
@[simp] theorem WarpCore.markDrop_held (w : WarpCore) (b : Bool) : (w.markDrop b).held = w.held := rfl
@[simp] theorem WarpCore.markDrop_drained (w : WarpCore) (b : Bool) : (w.markDrop b).drained = w.drained := rfl
@[simp] theorem WarpCore.markDrop_yieldTo (w : WarpCore) (b : Bool) : (w.markDrop b).yieldTo = w.yieldTo := rfl
@[simp] theorem WarpCore.markDrop_stores (w : WarpCore) (b : Bool) : (w.markDrop b).stores = w.stores := rfl
@[simp] theorem WarpCore.markDrop_refresh (w : WarpCore) (b : Bool) : (w.markDrop b).refresh = w.refresh := rfl
@[simp] theorem WarpCore.markDrop_reads (w : WarpCore) (b : Bool) : (w.markDrop b).reads = w.reads := rfl
@[simp] theorem WarpCore.markDrop_owed (w : WarpCore) (b : Bool) : (w.markDrop b).owed = w.owed := rfl
@[simp] theorem WarpCore.markDrop_tags (w : WarpCore) (b : Bool) : (w.markDrop b).tags = w.tags := rfl
@[simp] theorem WarpCore.markDrop_bcuLast (w : WarpCore) (b : Bool) : (w.markDrop b).bcuLast = w.bcuLast := rfl
@[simp] theorem WarpCore.markDrop_bcuSeq (w : WarpCore) (b : Bool) : (w.markDrop b).bcuSeq = w.bcuSeq := rfl
@[simp] theorem WarpCore.markDrop_fenced (w : WarpCore) (b : Bool) : (w.markDrop b).fenced = w.fenced := rfl
@[simp] theorem WarpCore.markDrop_seamOut (w : WarpCore) (b : Bool) : (w.markDrop b).seamOut = w.seamOut := rfl
@[simp] theorem WarpCore.markDrop_handler (w : WarpCore) (b : Bool) : (w.markDrop b).handler = w.handler := rfl
@[simp] theorem WarpCore.markDrop_subs (w : WarpCore) (b : Bool) : (w.markDrop b).subs = w.subs := rfl
@[simp] theorem WarpCore.markDrop_nextSub (w : WarpCore) (b : Bool) : (w.markDrop b).nextSub = w.nextSub := rfl
@[simp] theorem WarpCore.markDrop_due (w : WarpCore) (b : Bool) : (w.markDrop b).due = w.due := rfl
@[simp] theorem WarpCore.markDrop_task (w : WarpCore) (b : Bool) : (w.markDrop b).task = w.task := rfl
@[simp] theorem WarpCore.markDrop_job (w : WarpCore) (b : Bool) : (w.markDrop b).job = w.job := rfl
@[simp] theorem WarpCore.markDrop_depth (w : WarpCore) (b : Bool) : (w.markDrop b).depth = w.depth := rfl

end Sys2Proof.Machine
end

