-- ==== Sys2Proof/Laws/Memory.lean ====
section
/-! SUPPORT. Laws of memory: what a byte reads as after a write, and that each operation that changes memory keeps its canonical form. -/

namespace Sys2Proof.Machine

/-! ### Read after write -/

theorem Memory.byte_write_below (m : Memory) (data : List Byte) {k a : Nat} (h : a < k) : (m.write k data).byte a = m.byte a := by
  induction data generalizing m k with
  | nil => rfl
  | cons b r ih =>
    rw [Memory.write, ih _ (Nat.lt_succ_of_lt h)]
    exact Map.get_set_ne 0 m b (Nat.ne_of_lt h)

/-- A byte outside those written reads as before. -/
theorem Memory.byte_write_outside (m : Memory) (data : List Byte) {k a : Nat} (h : a < k ∨ k + data.length ≤ a) :
    (m.write k data).byte a = m.byte a := by
  rcases h with h | h
  · exact m.byte_write_below data h
  · induction data generalizing m k with
    | nil => rfl
    | cons b r ih =>
      simp only [List.length_cons] at h
      rw [Memory.write, ih _ (by omega)]
      exact Map.get_set_ne 0 m b (by omega)

/-- A byte written reads as written. -/
theorem Memory.byte_write (m : Memory) (data : List Byte) (k i : Nat) (b : Byte) (h : data[i]? = some b) : (m.write k data).byte (k + i) = b := by
  induction data generalizing m k i with
  | nil => simp at h
  | cons c r ih =>
    rw [Memory.write]
    cases i with
    | zero =>
      rw [Memory.byte_write_below _ _ (by omega)]
      simp only [List.getElem?_cons_zero, Option.some.injEq] at h
      simp [Memory.byte, Map.get_set_self, h]
    | succ j =>
      rw [show k + (j + 1) = k + 1 + j by omega]
      exact ih _ _ _ (by simpa using h)

/-! ### The canonical form -/

theorem Memory.wf_write (m : Memory) (k : Nat) (data : List Byte) (h : m.wf = true) : (m.write k data).wf = true := by
  induction data generalizing m k with
  | nil => exact h
  | cons b r ih => exact ih _ _ (Map.wf_set 0 m k b h)

theorem State.wf_rekey (s : State) (okey k n : Nat) (h : s.mem.wf = true) : (s.rekey okey k n).mem.wf = true := by
  unfold State.rekey
  dsimp only
  split
  · exact Map.wf_foldl_set 0 (fun x => x) (fun _ x => s.underKey okey x (s.mem.byte x)) (keysFrom k n) s.mem h
  · exact h

theorem State.wf_scrub (s : State) (x : Nat) (h : s.mem.wf = true) : (s.scrub x).mem.wf = true := by
  unfold State.scrub
  dsimp only
  split
  · exact h
  · exact Map.wf_foldl_set 0 (fun x => x) (fun _ y => s.freeBits [61, y] 8) _ s.mem h

theorem State.wf_foldl {β : Type} (f : State → β → State) (hf : ∀ s b, s.mem.wf = true → (f s b).mem.wf = true) (l : List β) (s : State)
    (h : s.mem.wf = true) : (l.foldl f s).mem.wf = true := by
  induction l generalizing s with
  | nil => exact h
  | cons b l ih => exact ih _ (hf s b h)

@[simp] theorem State.endReg_mem (s : State) (id code : Nat) : (s.endReg id code).mem = s.mem := by
  unfold State.endReg
  split
  · rfl
  · split <;> rfl

theorem State.mem_foldl {β : Type} (f : State → β → State) (hf : ∀ s b, (f s b).mem = s.mem) (l : List β) (s : State) : (l.foldl f s).mem = s.mem := by
  induction l generalizing s with
  | nil => rfl
  | cons b l ih => exact (ih _).trans (hf s b)

@[simp] theorem State.reevaluateOwners_mem (s : State) (k n : Nat) : (s.reevaluateOwners k n).mem = s.mem := by
  unfold State.reevaluateOwners
  refine State.mem_foldl _ (fun s e => ?_) _ s
  split
  · exact s.endReg_mem _ _
  · rfl

@[simp] theorem State.reevaluate_mem (s : State) (k n : Nat) : (s.reevaluate k n).mem = s.mem := by
  unfold State.reevaluate
  refine (State.reevaluateOwners_mem _ k n).trans ((State.mem_foldl _ (fun s (e : Nat × Registration) => s.endReg_mem e.1 1) _ _).trans ?_)
  split <;> rfl

@[simp] theorem State.recall_mem (s : State) (p : Party) (k n : Nat) : (s.recall p k n).mem = s.mem := by
  unfold State.recall
  dsimp only
  split <;> rfl

theorem State.wf_homeWrite (s : State) (b : Writer) (sc : Scope) (a : Option Scope) (okey k : Nat) (data : List Byte) (h : s.mem.wf = true) :
    (s.homeWrite b sc a okey k data).mem.wf = true := by
  unfold State.homeWrite
  split
  · exact h
  · simp only [State.reevaluate_mem]
    apply Memory.wf_write
    refine State.wf_foldl _ (fun s x hs => s.wf_scrub x hs) _ _ ?_
    exact State.wf_foldl _ (fun s x hs => by simpa using hs) _ _ (s.wf_rekey okey k data.length h)

theorem State.wf_resetGroups (s : State) (base count : Nat) (h : s.mem.wf = true) : (s.resetGroups base count).mem.wf = true :=
  State.wf_foldl _ (fun s (e : Nat × Barrier) hs => State.wf_homeWrite { s with barriers := s.barriers.erase e.1 } _ _ _ _ _ _ hs) _ _ h

theorem State.wf_engineWrite (s : State) (core : Option Nat) (okey k : Nat) (data : List Byte) (h : s.mem.wf = true) :
    (s.engineWrite core okey k data).mem.wf = true := s.wf_homeWrite _ _ _ _ _ _ h

theorem State.wf_zeroBank (s : State) (core b : Nat) (h : s.mem.wf = true) : (s.zeroBank core b).mem.wf = true :=
  Map.wf_eraseRange 0 s.mem _ _ h

theorem State.wf_moveBank (s : State) (lo dest : Nat) (h : s.mem.wf = true) : (s.moveBank lo dest).mem.wf = true :=
by
  unfold State.moveBank
  exact Map.wf_foldl_set 0 _ (fun _ (e : Nat × Byte) => e.2) _ _ (Map.wf_eraseRange 0 _ _ _ (Map.wf_eraseRange 0 _ _ _ h))

theorem State.wf_dropSaves (s : State) (h : s.mem.wf = true) : s.dropSaves.mem.wf = true :=
by
  unfold State.dropSaves
  refine State.wf_foldl _ (fun s x hs => ?_) _ _ h
  exact Map.wf_eraseRange 0 s.mem _ _ hs

theorem State.wf_loadFrames (s : State) (x : Snapshot) (h : s.mem.wf = true) : (s.loadFrames x).mem.wf = true :=
by
  unfold State.loadFrames
  exact Map.wf_foldl_set 0 _ (fun _ (e : Nat × Byte) => e.2) _ _ (Memory.wf_write _ _ _ (Memory.wf_write _ _ _ (Map.wf_filter 0 s.mem _ h)))

theorem wf_fetchMemory (m : Memory) (root : Nat) (code : List Byte) (h : m.wf = true) : (fetchMemory m root code).wf = true :=
  Memory.wf_write _ _ _ (Memory.wf_write _ _ _ (Memory.wf_write _ _ _ (Memory.wf_write _ _ _ h)))

theorem State.wf_withFetchWord (s : State) (nbits w : Nat) (h : s.mem.wf = true) : (s.withFetchWord nbits w).mem.wf = true :=
  wf_fetchMemory _ _ _ h

/-- MODULE_RESET sets the generation words to 0 and takes scratchpad bytes away. -/
theorem wf_execModuleReset (s t : State) (h : s.mem.wf = true) (ht : execModuleReset s = .next t) : t.mem.wf = true := by
  cases ht
  exact Map.wf_filter 0 _ _ (s.wf_resetGroups 0 1024 h)

theorem State.wf_reset_mem : State.reset.mem.wf = true := rfl

end Sys2Proof.Machine
end

