-- ==== Sys2Proof/Laws/PerInstr.lean ====
section
/-! SUPPORT. Laws of each instruction as syntax. Family `Sys2Proof.Laws.MachineWords`: an instruction is written as at most two words of 32 bits (Table 3-1). -/

namespace Sys2Proof.Laws.MachineWords

/-- At most two words, each of 32 bits. -/
def Fit (ws : List Nat) : Prop := ws.length ≤ 2 ∧ ∀ x ∈ ws, x < 2 ^ 32

/-- The words of an instruction fit. -/
def Statement (i : Instr) : Prop := Fit (encode i)

theorem none_fit : Fit [] := ⟨by decide, by simp⟩

theorem one_fit {w : Nat} (h : w < 2 ^ 32) : Fit [w] := ⟨by simp, by simpa using h⟩

theorem sw_lt (b : Bool) : swBit b = 0 ∨ swBit b = 2 ^ 31 := by cases b <;> simp [swBit]

theorem ext_fit {px : Option (BitVec 25)} {w : Nat} (h : w < 2 ^ 32) : Fit (withExt px w) := by
  cases px with
  | none => exact one_fit h
  | some p =>
    have hp := p.isLt
    refine ⟨by simp [withExt], ?_⟩
    simp only [withExt, List.mem_cons, List.not_mem_nil, or_false, forall_eq_or_imp, forall_eq, extWord]
    omega

theorem r_fit {maj f : Nat} (hm : maj < 64) (hf : f < 16) (r : RArgs) : Fit (rWords maj f r) := by
  have h1 := r.d.isLt; have h2 := r.a.isLt; have h3 := r.b.isLt
  refine ext_fit ?_
  rcases sw_lt r.sw with h | h <;> omega

theorem i_fit {maj : Nat} (hm : maj < 64) (r : IArgs) : Fit (iWords maj r) := by
  have h1 := r.d.isLt; have h2 := r.a.isLt; have h3 := r.imm.isLt
  refine ext_fit ?_
  rcases sw_lt r.sw with h | h <;> omega

theorem j_fit (r : JArgs) : Fit (jWords r) := by
  have h1 := r.prio.isLt; have h2 := r.off.isLt
  refine ext_fit ?_
  rcases sw_lt r.sw with h | h <;> omega

theorem c_fit (r : CArgs) : Fit (cWords r) := by
  have h1 := r.prio.isLt; have h2 := r.cond.isLt; have h3 := r.off.isLt
  refine ext_fit ?_
  rcases sw_lt r.sw with h | h <;> omega

theorem m_fit {maj : Nat} (hm : maj < 64) (r : MArgs) : Fit (mWords maj r) := by
  have h1 := r.d.isLt; have h2 := r.a.isLt; have h3 := r.size.isLt; have h4 := r.hint.isLt; have h5 := r.off.isLt
  refine ext_fit ?_
  rcases sw_lt r.sw with h | h <;> omega

theorem k_fit {maj f : Nat} (hm : maj < 64) (hf : f < 64) (r : KArgs) : Fit (kWords maj f r) := by
  have h1 := r.kd.isLt; have h2 := r.ka.isLt; have h3 := r.kb.isLt; have h4 := r.r.isLt
  refine one_fit ?_
  rcases sw_lt r.sw with h | h <;> omega

theorem t_fit (r : TArgs) : Fit (tWords r) := by
  have h1 := r.tile.isLt; have h2 := r.idx.isLt; have h3 := r.imm.isLt; have h4 := r.reg.isLt
  have h5 : r.col.toNat < 2 := by cases r.col <;> decide
  have h6 : r.wr.toNat < 2 := by cases r.wr <;> decide
  refine ext_fit ?_
  rcases sw_lt r.sw with h | h <;> omega

theorem x_fit {f : Nat} (hf : f < 16) (r : XArgs) : Fit (xWords f r) := by
  have h1 := r.xd.isLt; have h2 := r.xa.isLt; have h3 := r.xb.isLt; have h4 := r.q.isLt; have h5 := r.h.isLt; have h8 := r.payload.isLt
  have h6 : r.hold.toNat < 2 := by cases r.hold <;> decide
  have h7 : r.rsv.toNat < 2 := by cases r.rsv <;> decide
  refine ⟨by simp [xWords], ?_⟩
  simp only [xWords, List.mem_cons, List.not_mem_nil, or_false, forall_eq_or_imp, forall_eq]
  rcases sw_lt r.sw with h | h <;> omega

theorem add {x} : Statement (.add x) := r_fit (by decide) (by decide) _
theorem sub {x} : Statement (.sub x) := r_fit (by decide) (by decide) _
theorem mul {x} : Statement (.mul x) := r_fit (by decide) (by decide) _
theorem mulh {x} : Statement (.mulh x) := r_fit (by decide) (by decide) _
theorem mulhU {x} : Statement (.mulhU x) := r_fit (by decide) (by decide) _
theorem mad {x} : Statement (.mad x) := r_fit (by decide) (by decide) _
theorem div {x} : Statement (.div x) := r_fit (by decide) (by decide) _
theorem divU {x} : Statement (.divU x) := r_fit (by decide) (by decide) _
theorem mod {x} : Statement (.mod x) := r_fit (by decide) (by decide) _
theorem modU {x} : Statement (.modU x) := r_fit (by decide) (by decide) _
theorem min {x} : Statement (.min x) := r_fit (by decide) (by decide) _
theorem minU {x} : Statement (.minU x) := r_fit (by decide) (by decide) _
theorem max {x} : Statement (.max x) := r_fit (by decide) (by decide) _
theorem maxU {x} : Statement (.maxU x) := r_fit (by decide) (by decide) _
theorem abs {x} : Statement (.abs x) := r_fit (by decide) (by decide) _
theorem neg {x} : Statement (.neg x) := r_fit (by decide) (by decide) _
theorem and {x} : Statement (.and x) := r_fit (by decide) (by decide) _
theorem or {x} : Statement (.or x) := r_fit (by decide) (by decide) _
theorem xor {x} : Statement (.xor x) := r_fit (by decide) (by decide) _
theorem not {x} : Statement (.not x) := r_fit (by decide) (by decide) _
theorem shl {x} : Statement (.shl x) := r_fit (by decide) (by decide) _
theorem shr {x} : Statement (.shr x) := r_fit (by decide) (by decide) _
theorem sra {x} : Statement (.sra x) := r_fit (by decide) (by decide) _
theorem bfx {x} : Statement (.bfx x) := r_fit (by decide) (by decide) _
theorem bfi {x} : Statement (.bfi x) := r_fit (by decide) (by decide) _
theorem popc {x} : Statement (.popc x) := r_fit (by decide) (by decide) _
theorem clz {x} : Statement (.clz x) := r_fit (by decide) (by decide) _
theorem brev {x} : Statement (.brev x) := r_fit (by decide) (by decide) _
theorem lea {x} : Statement (.lea x) := r_fit (by decide) (by decide) _
theorem addi {x} : Statement (.addi x) := i_fit (by decide) _
theorem andi {x} : Statement (.andi x) := i_fit (by decide) _
theorem ori {x} : Statement (.ori x) := i_fit (by decide) _
theorem xori {x} : Statement (.xori x) := i_fit (by decide) _
theorem shli {x} : Statement (.shli x) := i_fit (by decide) _
theorem lui {x} : Statement (.lui x) := i_fit (by decide) _
theorem fadd {x} : Statement (.fadd x) := r_fit (by decide) (by decide) _
theorem fsub {x} : Statement (.fsub x) := r_fit (by decide) (by decide) _
theorem fmul {x} : Statement (.fmul x) := r_fit (by decide) (by decide) _
theorem ffma {x} : Statement (.ffma x) := r_fit (by decide) (by decide) _
theorem fmin {x} : Statement (.fmin x) := r_fit (by decide) (by decide) _
theorem fmax {x} : Statement (.fmax x) := r_fit (by decide) (by decide) _
theorem fcmp {x} : Statement (.fcmp x) := r_fit (by decide) (by decide) _
theorem fsel {x} : Statement (.fsel x) := r_fit (by decide) (by decide) _
theorem frnd {x} : Statement (.frnd x) := r_fit (by decide) (by decide) _
theorem fclass {x} : Statement (.fclass x) := r_fit (by decide) (by decide) _
theorem frcp {x} : Statement (.frcp x) := r_fit (by decide) (by decide) _
theorem frsq {x} : Statement (.frsq x) := r_fit (by decide) (by decide) _
theorem fsqrt {x} : Statement (.fsqrt x) := r_fit (by decide) (by decide) _
theorem fex2 {x} : Statement (.fex2 x) := r_fit (by decide) (by decide) _
theorem flg2 {x} : Statement (.flg2 x) := r_fit (by decide) (by decide) _
theorem fsin {x} : Statement (.fsin x) := r_fit (by decide) (by decide) _
theorem fcos {x} : Statement (.fcos x) := r_fit (by decide) (by decide) _
theorem dadd {x} : Statement (.dadd x) := r_fit (by decide) (by decide) _
theorem dmul {x} : Statement (.dmul x) := r_fit (by decide) (by decide) _
theorem dfma {x} : Statement (.dfma x) := r_fit (by decide) (by decide) _
theorem cvt {x} : Statement (.cvt x) := r_fit (by decide) (by decide) _
theorem cvtn {x} : Statement (.cvtn x) := r_fit (by decide) (by decide) _
theorem amax {x} : Statement (.amax x) := r_fit (by decide) (by decide) _
theorem scaleq {x} : Statement (.scaleq x) := r_fit (by decide) (by decide) _
theorem pack {x} : Statement (.pack x) := r_fit (by decide) (by decide) _
theorem unpack {x} : Statement (.unpack x) := r_fit (by decide) (by decide) _
theorem cmpset {x} : Statement (.cmpset x) := r_fit (by decide) (by decide) _
theorem shfl {x} : Statement (.shfl x) := r_fit (by decide) (by decide) _
theorem vote {x} : Statement (.vote x) := r_fit (by decide) (by decide) _
theorem redw {x} : Statement (.redw x) := r_fit (by decide) (by decide) _
theorem scanw {x} : Statement (.scanw x) := r_fit (by decide) (by decide) _
theorem matchLanes {x} : Statement (.matchLanes x) := r_fit (by decide) (by decide) _
theorem kset {x} : Statement (.kset x) := k_fit (by decide) (by decide) _
theorem kmov {x} : Statement (.kmov x) := k_fit (by decide) (by decide) _
theorem kpop {x} : Statement (.kpop x) := k_fit (by decide) (by decide) _
theorem join {x} : Statement (.join x) := k_fit (by decide) (by decide) _
theorem leave {x} : Statement (.leave x) := k_fit (by decide) (by decide) _
theorem kwait {x} : Statement (.kwait x) := k_fit (by decide) (by decide) _
theorem klogAnd {x} : Statement (.klogAnd x) := k_fit (by decide) (by decide) _
theorem klogOr {x} : Statement (.klogOr x) := k_fit (by decide) (by decide) _
theorem klogXor {x} : Statement (.klogXor x) := k_fit (by decide) (by decide) _
theorem klogAndn {x} : Statement (.klogAndn x) := k_fit (by decide) (by decide) _
theorem prio {x} : Statement (.prio x) := i_fit (by decide) _
theorem bra {x} : Statement (.bra x) := j_fit _
theorem brc {x} : Statement (.brc x) := c_fit _
theorem jmpi {x} : Statement (.jmpi x) := r_fit (by decide) (by decide) _
theorem callw {x} : Statement (.callw x) := r_fit (by decide) (by decide) _
theorem callk {x} : Statement (.callk x) := r_fit (by decide) (by decide) _
theorem retw {x} : Statement (.retw x) := r_fit (by decide) (by decide) _
theorem retwB {x} : Statement (.retwB x) := r_fit (by decide) (by decide) _
theorem retk {x} : Statement (.retk x) := r_fit (by decide) (by decide) _
theorem exit {x} : Statement (.exit x) := r_fit (by decide) (by decide) _
theorem nop {x} : Statement (.nop x) := r_fit (by decide) (by decide) _
theorem yield {x} : Statement (.yield x) := r_fit (by decide) (by decide) _
theorem yieldExpiry {x} : Statement (.yieldExpiry x) := none_fit
theorem wbase {x} : Statement (.wbase x) := r_fit (by decide) (by decide) _
theorem ld {x} : Statement (.ld x) := m_fit (by decide) _
theorem st {x} : Statement (.st x) := m_fit (by decide) _
theorem bteBulkCopy {x} : Statement (.bteBulkCopy x) := none_fit
theorem ldt {x} : Statement (.ldt x) := m_fit (by decide) _
theorem lds {x} : Statement (.lds x) := m_fit (by decide) _
theorem sts {x} : Statement (.sts x) := m_fit (by decide) _
theorem atomAdd {x} : Statement (.atomAdd x) := r_fit (by decide) (by decide) _
theorem atomMinS {x} : Statement (.atomMinS x) := r_fit (by decide) (by decide) _
theorem atomMaxS {x} : Statement (.atomMaxS x) := r_fit (by decide) (by decide) _
theorem atomMinU {x} : Statement (.atomMinU x) := r_fit (by decide) (by decide) _
theorem atomMaxU {x} : Statement (.atomMaxU x) := r_fit (by decide) (by decide) _
theorem atomAnd {x} : Statement (.atomAnd x) := r_fit (by decide) (by decide) _
theorem atomOr {x} : Statement (.atomOr x) := r_fit (by decide) (by decide) _
theorem atomXor {x} : Statement (.atomXor x) := r_fit (by decide) (by decide) _
theorem atomExch {x} : Statement (.atomExch x) := r_fit (by decide) (by decide) _
theorem atomCas {x} : Statement (.atomCas x) := r_fit (by decide) (by decide) _
theorem atomAddF32 {x} : Statement (.atomAddF32 x) := r_fit (by decide) (by decide) _
theorem red {x y} : Statement (.red x y) := r_fit (by decide) (BitVec.isLt _) _
theorem atomsAdd {x} : Statement (.atomsAdd x) := r_fit (by decide) (by decide) _
theorem atomsMinS {x} : Statement (.atomsMinS x) := r_fit (by decide) (by decide) _
theorem atomsMaxS {x} : Statement (.atomsMaxS x) := r_fit (by decide) (by decide) _
theorem atomsMinU {x} : Statement (.atomsMinU x) := r_fit (by decide) (by decide) _
theorem atomsMaxU {x} : Statement (.atomsMaxU x) := r_fit (by decide) (by decide) _
theorem atomsAnd {x} : Statement (.atomsAnd x) := r_fit (by decide) (by decide) _
theorem atomsOr {x} : Statement (.atomsOr x) := r_fit (by decide) (by decide) _
theorem atomsXor {x} : Statement (.atomsXor x) := r_fit (by decide) (by decide) _
theorem atomsExch {x} : Statement (.atomsExch x) := r_fit (by decide) (by decide) _
theorem atomsCas {x} : Statement (.atomsCas x) := r_fit (by decide) (by decide) _
theorem atomsAddF32 {x} : Statement (.atomsAddF32 x) := r_fit (by decide) (by decide) _
theorem reds {x y} : Statement (.reds x y) := r_fit (by decide) (BitVec.isLt _) _
theorem fpush {x} : Statement (.fpush x) := r_fit (by decide) (by decide) _
theorem fpop {x} : Statement (.fpop x) := r_fit (by decide) (by decide) _
theorem pref {x} : Statement (.pref x) := r_fit (by decide) (by decide) _
theorem chint {x} : Statement (.chint x) := r_fit (by decide) (by decide) _
theorem bankcfg {x} : Statement (.bankcfg x) := r_fit (by decide) (by decide) _
theorem bankcfgComplete {x y} : Statement (.bankcfgComplete x y) := none_fit
theorem phase {x} : Statement (.phase x) := r_fit (by decide) (by decide) _
theorem fenceo {x} : Statement (.fenceo x) := r_fit (by decide) (by decide) _
theorem fencer {x} : Statement (.fencer x) := r_fit (by decide) (by decide) _
theorem publish {x} : Statement (.publish x) := r_fit (by decide) (by decide) _
theorem shadowset {x} : Statement (.shadowset x) := r_fit (by decide) (by decide) _
theorem shadowsetDel {x} : Statement (.shadowsetDel x) := r_fit (by decide) (by decide) _
theorem ldc {x} : Statement (.ldc x) := r_fit (by decide) (by decide) _
theorem waitu {x y} : Statement (.waitu x y) := r_fit (by decide) (Nat.lt_trans (BitVec.isLt _) (by decide)) _
theorem waitl {x y} : Statement (.waitl x y) := r_fit (by decide) (Nat.lt_trans (BitVec.isLt _) (by decide)) _
theorem pegRegistration {x} : Statement (.pegRegistration x) := none_fit
theorem pegRetry {x} : Statement (.pegRetry x) := none_fit
theorem homeWrite {x} : Statement (.homeWrite x) := none_fit
theorem pegTimeout {x} : Statement (.pegTimeout x) := none_fit
theorem barr {x} : Statement (.barr x) := r_fit (by decide) (by decide) _
theorem bwait {x} : Statement (.bwait x) := r_fit (by decide) (by decide) _
theorem bsetm {x} : Statement (.bsetm x) := r_fit (by decide) (by decide) _
theorem tspawn {x} : Statement (.tspawn x) := r_fit (by decide) (by decide) _
theorem trange {x} : Statement (.trange x) := r_fit (by decide) (by decide) _
theorem tnext {x} : Statement (.tnext x) := r_fit (by decide) (by decide) _
theorem tjoin {x} : Statement (.tjoin x) := r_fit (by decide) (by decide) _
theorem tend {x} : Statement (.tend x) := r_fit (by decide) (by decide) _
theorem tcancel {x} : Statement (.tcancel x) := r_fit (by decide) (by decide) _
theorem tself {x} : Statement (.tself x) := r_fit (by decide) (by decide) _
theorem fset {x} : Statement (.fset x) := r_fit (by decide) (by decide) _
theorem fwait {x} : Statement (.fwait x) := r_fit (by decide) (by decide) _
theorem lockw {x} : Statement (.lockw x) := r_fit (by decide) (by decide) _
theorem unlock {x} : Statement (.unlock x) := r_fit (by decide) (by decide) _
theorem qput {x} : Statement (.qput x) := r_fit (by decide) (by decide) _
theorem qputProm {x} : Statement (.qputProm x) := r_fit (by decide) (by decide) _
theorem qputFill {x} : Statement (.qputFill x) := r_fit (by decide) (by decide) _
theorem qtake {x} : Statement (.qtake x) := r_fit (by decide) (by decide) _
theorem darnerPop {x y} : Statement (.darnerPop x y) := none_fit
theorem stealRequest {x y} : Statement (.stealRequest x y) := none_fit
theorem stealWithdraw {x y} : Statement (.stealWithdraw x y) := none_fit
theorem darnerAccessFault : Statement .darnerAccessFault := none_fit
theorem acp {x} : Statement (.acp x) := r_fit (by decide) (by decide) _
theorem acpLand {x y} : Statement (.acpLand x y) := none_fit
theorem acpwait {x} : Statement (.acpwait x) := r_fit (by decide) (by decide) _
theorem tplset {x} : Statement (.tplset x) := r_fit (by decide) (by decide) _
theorem swinit {x} : Statement (.swinit x) := r_fit (by decide) (by decide) _
theorem syncw {x} : Statement (.syncw x) := r_fit (by decide) (by decide) _
theorem btestat {x} : Statement (.btestat x) := r_fit (by decide) (by decide) _
theorem btestatClr {x} : Statement (.btestatClr x) := r_fit (by decide) (by decide) _
theorem bteRowLand {x y z} : Statement (.bteRowLand x y z) := none_fit
theorem gather {x} : Statement (.gather x) := r_fit (by decide) (by decide) _
theorem scatter {x} : Statement (.scatter x) := r_fit (by decide) (by decide) _
theorem scatadd {x} : Statement (.scatadd x) := r_fit (by decide) (by decide) _
theorem gswait {x} : Statement (.gswait x) := r_fit (by decide) (by decide) _
theorem gswaitDup {x} : Statement (.gswaitDup x) := r_fit (by decide) (by decide) _
theorem gswaitOut {x} : Statement (.gswaitOut x) := r_fit (by decide) (by decide) _
theorem seamRowRequest {x y z} : Statement (.seamRowRequest x y z) := none_fit
theorem seamEntryLand {x y z} : Statement (.seamEntryLand x y z) := none_fit
theorem tslice {x} : Statement (.tslice x) := t_fit _
theorem tbind {x} : Statement (.tbind x) := x_fit (by decide) _
theorem tzero {x} : Statement (.tzero x) := x_fit (by decide) _
theorem mxlw {x} : Statement (.mxlw x) := x_fit (by decide) _
theorem mxswap {x} : Statement (.mxswap x) := x_fit (by decide) _
theorem mxmm {x} : Statement (.mxmm x) := x_fit (by decide) _
theorem mxmms {x} : Statement (.mxmms x) := x_fit (by decide) _
theorem mxep {x} : Statement (.mxep x) := x_fit (by decide) _
theorem mxsel {x} : Statement (.mxsel x) := x_fit (by decide) _
theorem mxselRead {x} : Statement (.mxselRead x) := x_fit (by decide) _
theorem accld {x} : Statement (.accld x) := x_fit (by decide) _
theorem accst {x} : Statement (.accst x) := x_fit (by decide) _
theorem accz {x} : Statement (.accz x) := x_fit (by decide) _
theorem mxsave {x} : Statement (.mxsave x) := x_fit (by decide) _
theorem mxload {x} : Statement (.mxload x) := x_fit (by decide) _
theorem pressCommandComplete {x} : Statement (.pressCommandComplete x) := none_fit
theorem tpset {x} : Statement (.tpset x) := k_fit (by decide) (by decide) _
theorem tplogAnd {x} : Statement (.tplogAnd x) := k_fit (by decide) (by decide) _
theorem tplogOr {x} : Statement (.tplogOr x) := k_fit (by decide) (by decide) _
theorem tplogXor {x} : Statement (.tplogXor x) := k_fit (by decide) (by decide) _
theorem tplogAndn {x} : Statement (.tplogAndn x) := k_fit (by decide) (by decide) _
theorem mxseq {x} : Statement (.mxseq x) := r_fit (by decide) (by decide) _
theorem mxwait {x} : Statement (.mxwait x) := r_fit (by decide) (by decide) _
theorem mxwaitOut {x} : Statement (.mxwaitOut x) := r_fit (by decide) (by decide) _
theorem bmv {x} : Statement (.bmv x) := r_fit (by decide) (by decide) _
theorem bfenceW {x} : Statement (.bfenceW x) := r_fit (by decide) (by decide) _
theorem bfenceR {x} : Statement (.bfenceR x) := r_fit (by decide) (by decide) _
theorem bmwait {x} : Statement (.bmwait x) := r_fit (by decide) (by decide) _
theorem bmwaitAll {x} : Statement (.bmwaitAll x) := r_fit (by decide) (by decide) _
theorem bmwaitSeq {x} : Statement (.bmwaitSeq x) := r_fit (by decide) (by decide) _
theorem bmwaitLast {x} : Statement (.bmwaitLast x) := r_fit (by decide) (by decide) _
theorem bcuCommandComplete {x} : Statement (.bcuCommandComplete x) := none_fit
theorem xres {x} : Statement (.xres x) := r_fit (by decide) (by decide) _
theorem xresRel {x} : Statement (.xresRel x) := r_fit (by decide) (by decide) _
theorem xhit {x} : Statement (.xhit x) := r_fit (by decide) (by decide) _
theorem xage {x} : Statement (.xage x) := r_fit (by decide) (by decide) _
theorem xageNow {x} : Statement (.xageNow x) := r_fit (by decide) (by decide) _
theorem xquery {x} : Statement (.xquery x) := r_fit (by decide) (by decide) _
theorem hamperStagingComplete {x} : Statement (.hamperStagingComplete x) := none_fit
theorem hamperAgeingStep {x} : Statement (.hamperAgeingStep x) := none_fit
theorem trap {x} : Statement (.trap x) := r_fit (by decide) (by decide) _
theorem tret {x} : Statement (.tret x) := r_fit (by decide) (by decide) _
theorem tretSkip {x} : Statement (.tretSkip x) := r_fit (by decide) (by decide) _
theorem rdctl {x} : Statement (.rdctl x) := r_fit (by decide) (by decide) _
theorem wrctl {x} : Statement (.wrctl x) := r_fit (by decide) (by decide) _
theorem ctxsave {x} : Statement (.ctxsave x) := r_fit (by decide) (by decide) _
theorem ctxload {x} : Statement (.ctxload x) := r_fit (by decide) (by decide) _
theorem ctxloadRearm {x} : Statement (.ctxloadRearm x) := r_fit (by decide) (by decide) _
theorem tlbinv {x} : Statement (.tlbinv x) := r_fit (by decide) (by decide) _
theorem smcVersion {x} : Statement (.smcVersion x) := r_fit (by decide) (by decide) _
theorem smcAttest {x} : Statement (.smcAttest x) := r_fit (by decide) (by decide) _
theorem smcLoadKeySlot {x} : Statement (.smcLoadKeySlot x) := r_fit (by decide) (by decide) _
theorem smcSetRegionEntry {x} : Statement (.smcSetRegionEntry x) := r_fit (by decide) (by decide) _
theorem smcReadErrorCounters {x} : Statement (.smcReadErrorCounters x) := r_fit (by decide) (by decide) _
theorem smcPowerState {x} : Statement (.smcPowerState x) := r_fit (by decide) (by decide) _
theorem smcSnapshot {x} : Statement (.smcSnapshot x) := r_fit (by decide) (by decide) _
theorem smcBindFabricJob {x} : Statement (.smcBindFabricJob x) := r_fit (by decide) (by decide) _
theorem smcLoadSnapshot {x} : Statement (.smcLoadSnapshot x) := r_fit (by decide) (by decide) _
theorem registerWritePerformed {x y z} : Statement (.registerWritePerformed x y z) := none_fit
theorem impreciseStoreFault : Statement .impreciseStoreFault := none_fit
theorem chunkClaim {x y} : Statement (.chunkClaim x y) := none_fit
theorem warpEvictionSave {x} : Statement (.warpEvictionSave x) := none_fit
theorem warpRestore {x} : Statement (.warpRestore x) := none_fit
theorem contextCreate {x} : Statement (.contextCreate x) := none_fit
theorem cpServeEntry {x y} : Statement (.cpServeEntry x y) := none_fit
theorem nodeKernel {x} : Statement (.nodeKernel x) := none_fit
theorem nodeTaskroot {x} : Statement (.nodeTaskroot x) := none_fit
theorem nodeCopy {x} : Statement (.nodeCopy x) := none_fit
theorem copyNodeComplete {x} : Statement (.copyNodeComplete x) := none_fit
theorem nodeCond {x} : Statement (.nodeCond x) := none_fit
theorem nodeLoop {x} : Statement (.nodeLoop x) := none_fit
theorem nodeWaitmem {x} : Statement (.nodeWaitmem x) := none_fit
theorem nodeSignal {x} : Statement (.nodeSignal x) := none_fit
theorem nodeEnd {x} : Statement (.nodeEnd x) := none_fit
theorem hostWrite {x y} : Statement (.hostWrite x y) := none_fit
theorem hostRead {x} : Statement (.hostRead x) := none_fit
theorem flitReceive {x y} : Statement (.flitReceive x y) := none_fit
theorem linkHeartbeat {x} : Statement (.linkHeartbeat x) := none_fit
theorem moduleFailureDetect {x} : Statement (.moduleFailureDetect x) := none_fit
theorem moduleReset : Statement .moduleReset := none_fit
theorem bringupStage {x y} : Statement (.bringupStage x y) := none_fit
theorem powerStateChange {x y z} : Statement (.powerStateChange x y z) := none_fit
theorem warpWaitDeadline {x} : Statement (.warpWaitDeadline x) := none_fit
theorem pipeIntervalEnd {x y z} : Statement (.pipeIntervalEnd x y z) := none_fit

end Sys2Proof.Laws.MachineWords
end

