-- ==== Sys2Proof/Laws/Traps.lean ====
section
/-! SUPPORT. What taking a precise fault does, case by case (R261, R381 to R383), and when a meaning does not run its body. -/

namespace Sys2Proof.Machine

/-- The sub-warp that a fault of these lanes forms. -/
def trapSub (w : WarpCore) (c : Issue) (lanes : Mask) (t : Trap) : SubWarp :=
  { num := w.nextSub, lanes := lanes, pc := c.pc, trap := t, insn := c.insn, pair := c.pair, wide := decide (c.len = 8) }

/-- The lanes of a fault parked as one TRAPPED entry. -/
def State.parkTrap (s : State) (w : WarpCore) (c : Issue) (lanes : Mask) : State :=
  s.modRun c.wid (fun v => { (v.drainRegs.place lanes c.prio c.pc (.trapped w.nextSub)) with nextSub := v.nextSub + 1 })

theorem State.takeTrap_none {s : State} {c : Issue} (h : s.warp? c.wid = none) (lanes : Mask) (t : Trap) : s.takeTrap c lanes t = s := by
  unfold State.takeTrap; rw [h]

/-- In an adopted task the fault is charged to the task. -/
theorem State.takeTrap_adopted {s : State} {c : Issue} {w : WarpCore} (h : s.warp? c.wid = some w) (hd : 0 < w.depth) (lanes : Mask) (t : Trap) :
    s.takeTrap c lanes t = s.adoptedFault c.wid (trapSub w c lanes t) := by
  unfold State.takeTrap trapSub; rw [h]; simp [hd]

/-- With no handler active and a trap vector, the handler starts. -/
theorem State.takeTrap_starts {s : State} {c : Issue} {w : WarpCore} (h : s.warp? c.wid = some w) (hd : w.depth = 0) (hh : w.handler = none)
    (hv : ¬ w.trapvec = 0) (lanes : Mask) (t : Trap) :
    s.takeTrap c lanes t = (s.parkTrap w c lanes).startHandler c.wid (trapSub w c lanes t) := by
  unfold State.takeTrap trapSub State.parkTrap
  rw [h]
  simp only [hd, hh, Nat.lt_irrefl, if_false, if_neg hv]

/-- With no handler active and no trap vector, the fault goes to the queue. -/
theorem State.takeTrap_queues {s : State} {c : Issue} {w : WarpCore} (h : s.warp? c.wid = some w) (hd : w.depth = 0) (hh : w.handler = none)
    (hv : w.trapvec = 0) (lanes : Mask) (t : Trap) :
    s.takeTrap c lanes t = (s.parkTrap w c lanes).faultToQueue c.wid (trapSub w c lanes t) lanes false := by
  unfold State.takeTrap trapSub State.parkTrap
  rw [h]
  simp only [hd, hh, Nat.lt_irrefl, if_false, if_pos hv]

/-- Behind an active handler whose lane is not among them, the lanes wait their turn. -/
theorem State.takeTrap_waits {s : State} {c : Issue} {w : WarpCore} {a : Handler} (h : s.warp? c.wid = some w) (hd : w.depth = 0)
    (hh : w.handler = some a) (lanes : Mask) (hl : hasLane lanes a.lane = false) (t : Trap) :
    s.takeTrap c lanes t =
      (s.parkTrap w c lanes).modRun c.wid (fun v => { v with subs := v.subs ++ [trapSub w c lanes t] }) := by
  unfold State.takeTrap trapSub State.parkTrap
  rw [h]
  simp only [hd, hh, hl, Nat.lt_irrefl, if_false, Bool.false_eq_true]

/-- Without an instruction in progress a meaning of an encoded instruction stops. -/
theorem onWarp_idle {i : Instr} {s : State} (h : s.cur = none) (body : Issue → WarpCore → State) : onWarp i s body = .fault .noIssue := by
  unfold onWarp; rw [h]

/-- A register field outside the window traps every active lane (R46, R47). -/
theorem onWarp_window {i : Instr} {s : State} {c : Issue} {w : WarpCore} (hc : s.cur = some c) (hw : s.warp? c.wid = some w)
    (h : w.windowFails i = true) (body : Issue → WarpCore → State) : onWarp i s body = .next (s.trapAll c (trapOf .window 0)) := by
  unfold onWarp; rw [hc]; simp [hw, h]

/-- An instruction none of whose lanes faults takes no trap. -/
theorem State.conclude_of_nil (s : State) (c : Issue) : s.conclude c [] = { s.advance c (c.lanes &&& ~~~(0 : Mask)) with cur := none } := rfl

/-- An instruction with faults: the others go on, and these trap with the lowest one's cause. -/
theorem State.conclude_cons (s : State) (c : Issue) (f : Nat × Trap) (r : List (Nat × Trap)) :
    s.conclude c (f :: r) =
      ({ s.advance c (c.lanes &&& ~~~(maskOf (f.1 :: r.map (·.1)))) with cur := none } : State).takeTrap c (maskOf (f.1 :: r.map (·.1))) f.2 := rfl

end Sys2Proof.Machine
end

