-- ==== Sys2Proof/Tests/Slice0.lean ====
section
/-! SUPPORT. Tests: terms that `WellFormed` refuses, a decoded word for every encoded instruction, small runs with results taken from the spec, and for each statement a state that meets its hypotheses. -/

set_option maxRecDepth 100000
set_option Elab.async false

namespace Sys2Proof.Tests

open Sys2Proof Sys2Proof.Machine

/-! ### Helpers -/

/-- R-format operands without an extension word. -/
def rr (d a b : Nat) : RArgs := { sw := false, d := BitVec.ofNat 7 d, a := BitVec.ofNat 7 a, b := BitVec.ofNat 7 b, px := none }
/-- R-format operands with the payload of an extension word. -/
def rp (d a b p : Nat) : RArgs := { rr d a b with px := some (BitVec.ofNat 25 p) }
/-- I-format operands. -/
def ii (d a imm : Nat) : IArgs := { sw := false, d := BitVec.ofNat 7 d, a := BitVec.ofNat 7 a, imm := BitVec.ofNat 11 imm, px := none }
/-- M-format operands. -/
def mm (d a size hint off : Nat) : MArgs :=
  { sw := false, d := BitVec.ofNat 7 d, a := BitVec.ofNat 7 a, size := BitVec.ofNat 3 size, hint := BitVec.ofNat 2 hint, off := BitVec.ofNat 6 off, px := none }
/-- K-format operands. -/
def kk (kd ka kb r : Nat) : KArgs := { sw := false, kd := BitVec.ofNat 4 kd, ka := BitVec.ofNat 4 ka, kb := BitVec.ofNat 4 kb, r := BitVec.ofNat 7 r }
/-- X-format operands: no hold flags, predicate 0 bit 0 unless the payload's top bits say otherwise. -/
def xx (xd xa xb payload : Nat) : XArgs :=
  { sw := false, xd := BitVec.ofNat 4 xd, xa := BitVec.ofNat 4 xa, xb := BitVec.ofNat 4 xb, q := 0, hold := false, h := 0, rsv := false, payload := BitVec.ofNat 32 payload }

/-! ### What `WellFormed` refuses (R43 to R49, R53, R105, R106, R192, R300, R312) -/

/-- The check refuses it with ILLEGAL_OP. -/
def illegal (i : Instr) : Bool := !i.wellFormed && decide (i.check = some .illegalOp)
/-- The check refuses it with RESERVED_FIELD. -/
def reserved (i : Instr) : Bool := !i.wellFormed && decide (i.check = some .reservedField)
/-- The fields pass, but they name another constructor. -/
def misnamed (i : Instr) : Bool := !i.wellFormed && decide (i.check = none)

theorem test_wf_good : (Instr.add (rr 3 1 2)).wellFormed = true ∧ (Instr.ld (mm 6 4 4 0 4)).wellFormed = true ∧
    (Instr.fadd (rp 3 1 2 4)).wellFormed = true ∧ (Instr.tbind (xx 3 8 0 0)).wellFormed = true := by decide +kernel
theorem test_wf_readonly_dst : [121, 122, 123, 124, 127].all (fun d => illegal (.add (rr d 1 2))) = true := by decide +kernel
/-- R48: a store's D field too. -/
theorem test_wf_stored_special : [121, 122, 123, 124, 127].all (fun d => illegal (.st (mm d 4 4 0 0)) && illegal (.sts (mm d 4 4 0 0)) && illegal (.acp (rr d 2 3)) &&
    illegal (.gather (rr d 2 4)) && illegal (.scatter (rr d 2 4)) && illegal (.scatadd (rr d 2 4)) && illegal (.shadowset (rr d 2 4))) = true ∧
    (Instr.st (mm 125 4 4 0 0)).wellFormed = true := by decide +kernel
theorem test_wf_pair_dst : [121, 125, 126].all (fun d => illegal (.dadd (rr d 2 4))) = true := by decide +kernel
theorem test_wf_quad_dst : illegal (.ld (mm 127 4 6 0 0)) = true := by decide +kernel
theorem test_wf_odd_pair : reserved (.dadd (rr 3 2 4)) = true ∧ reserved (.dadd (rr 2 5 4)) = true ∧ reserved (.dadd (rr 2 4 7)) = true := by decide +kernel
theorem test_wf_unaligned_quad : reserved (.bsetm (rr 0 1 2)) = true ∧ reserved (.st (mm 2 4 6 0 0)) = true ∧ reserved (.ld (mm 6 4 6 0 0)) = true := by decide +kernel
theorem test_wf_unused_field : reserved (.neg (rr 3 1 2)) = true ∧ reserved (.nop (rr 1 0 0)) = true ∧ reserved (.lui (ii 3 1 5)) = true := by decide +kernel
theorem test_wf_sub_illegal : illegal (.fadd (rp 3 1 2 5)) = true ∧ illegal (.cmpset (rp 3 1 2 10)) = true := by decide +kernel
theorem test_wf_sub_unused : reserved (.add (rp 3 1 2 1)) = true := by decide +kernel
theorem test_wf_format_illegal : illegal (.cvt (rp 3 1 0 (0x31 * 16 + 4 * 1024))) = true ∧ illegal (.scaleq (rp 3 1 0 (1 * 1024))) = true := by decide +kernel
theorem test_wf_format_unused : reserved (.add (rp 3 1 2 16)) = true ∧ reserved (.add (rp 3 1 2 1024)) = true := by decide +kernel
theorem test_wf_payload_high : reserved (.fadd (rp 3 1 2 65536)) = true ∧ reserved (.addi { ii 3 1 0 with px := some (BitVec.ofNat 25 (2 ^ 21)) }) = true := by decide +kernel
theorem test_wf_no_ext : reserved (.gather (rp 1 2 4 0)) = true ∧ reserved (.trap (rp 0 0 1 0)) = true := by decide +kernel
theorem test_wf_shli : reserved (.shli (ii 3 1 32)) = true := by decide +kernel
theorem test_wf_size : illegal (.ld (mm 6 4 7 0 0)) = true ∧ illegal (.st (mm 6 4 1 0 0)) = true ∧ illegal (.sts (mm 6 4 3 0 0)) = true := by decide +kernel
theorem test_wf_hint : reserved (.lds (mm 6 4 4 1 0)) = true ∧ reserved (.sts (mm 6 4 4 3 0)) = true := by decide +kernel
theorem test_wf_ldt : illegal (.ldt (mm 6 4 2 0 0)) = true ∧ illegal (.ldt (mm 6 4 4 3 0)) = true := by decide +kernel
theorem test_wf_atom : illegal (.atomAddF32 (rp 2 4 6 1)) = true ∧ reserved (.atomAdd (rp 2 4 6 2)) = true ∧ reserved (.atomsAdd (rp 2 4 6 4)) = true ∧
    misnamed (.atomAdd (rr 120 4 6)) = true ∧ misnamed (.red 0 (rr 3 4 6)) = true ∧ misnamed (.reds 11 (rr 120 4 6)) = true := by decide +kernel
theorem test_wf_mask_field : illegal (.kset (kk 12 0 0 3)) = true ∧ illegal (.kset (kk 1 12 0 3)) = true ∧ illegal (.kmov (kk 1 2 13 0)) = true ∧ reserved (.kset (kk 1 1 0 3)) = true ∧ illegal (.klogAnd (kk 1 2 13 0)) = true ∧
    reserved (.kmov (kk 1 2 0 3)) = true := by decide +kernel
theorem test_wf_wait : reserved (.waitu 0 (rp 2 4 6 2)) = true ∧ reserved (.waitl 0 (rp 2 4 6 4)) = true := by decide +kernel
theorem test_wf_prio_wbase_jmpi : reserved (.prio (ii 0 0 16)) = true ∧ reserved (.wbase (rr 0 0 16)) = true ∧ reserved (.jmpi (rr 0 2 16)) = true := by decide +kernel
theorem test_wf_control : illegal (.rdctl (rr 2 0 12)) = true ∧ illegal (.wrctl (rr 0 2 12)) = true ∧ reserved (.rdctl (rr 3 0 3)) = true := by decide +kernel
theorem test_wf_tile_word : reserved (.tbind (xx 3 2 0 0)) = true ∧ reserved (.tzero (xx 3 0 0 4)) = true ∧ reserved (.mxswap (xx 1 0 0 0)) = true ∧
    reserved (.mxload (xx 0 3 0 0)) = true ∧ reserved (.mxswap { xx 0 0 0 0 with h := 1 }) = true ∧ reserved (.mxswap { xx 0 0 0 0 with rsv := true }) = true ∧
    reserved (.tbind { xx 3 8 0 0 with hold := true }) = true := by decide +kernel
theorem test_wf_mxep_mxsel : illegal (.mxep (xx 0 3 0 (3 * 2 ^ 17))) = true ∧ illegal (.mxsel (xx 0 3 0 (2 * 2 ^ 24))) = true ∧
    misnamed (.mxsel (xx 0 0 0 (2 ^ 24))) = true ∧ misnamed (.mxselRead (xx 0 0 0 0)) = true := by decide +kernel
theorem test_wf_predicate : illegal (.tpset (kk 8 0 0 2)) = true ∧ reserved (.tpset (kk 1 1 0 2)) = true ∧ illegal (.tplogOr (kk 1 8 2 0)) = true := by decide +kernel
theorem test_wf_tslice : reserved (.tslice { sw := false, tile := 1, col := false, idx := 2, imm := 0, reg := 3, wr := false, px := some 512 }) = true ∧
    illegal (.tslice { sw := false, tile := 1, col := false, idx := 2, imm := 0, reg := 124, wr := false, px := none }) = true := by decide +kernel
theorem test_wf_other_sub : illegal (.shadowset (rp 1 2 4 1)) = true ∧ illegal (.qputFill (rp 2 4 8 1)) = true ∧ illegal (.tretSkip (rr 0 0 0)) = true ∧
    misnamed (.smcAttest (rr 0 0 2)) = true := by decide +kernel
theorem test_wf_acp_bank : reserved (.acp (rp 1 2 3 8)) = true ∧ illegal (.bankcfg (rp 0 1 0 3)) = true := by decide +kernel

/-! ### Decoding (Tables 3-1, 3-3, 3-4): a word written out field by field for every encoded instruction -/

theorem test_decode_maj00_0 :
    decode 0b0_000000_0001000_0010100_0001100_0000 0 = .ok (.add { sw := false, d := 8, a := 20, b := 12, px := none }) ∧
    decode 0b0_000000_0001000_0010100_0001100_0001 0 = .ok (.sub { sw := false, d := 8, a := 20, b := 12, px := none }) ∧
    decode 0b0_000000_0001000_0010100_0001100_0010 0 = .ok (.mul { sw := false, d := 8, a := 20, b := 12, px := none }) ∧
    decode 0b0_000000_0001000_0010100_0001100_0011 0 = .ok (.mulh { sw := false, d := 8, a := 20, b := 12, px := none }) ∧
    decode 0b0_000000_0001000_0010100_0001100_0100 0 = .ok (.mulhU { sw := false, d := 8, a := 20, b := 12, px := none }) ∧
    decode 0b0_000000_0001000_0010100_0001100_0101 0 = .ok (.mad { sw := false, d := 8, a := 20, b := 12, px := none }) ∧
    decode 0b0_000000_0001000_0010100_0001100_0110 0 = .ok (.div { sw := false, d := 8, a := 20, b := 12, px := none }) ∧
    decode 0b0_000000_0001000_0010100_0001100_0111 0 = .ok (.divU { sw := false, d := 8, a := 20, b := 12, px := none }) := ⟨rfl, rfl, rfl, rfl, rfl, rfl, rfl, rfl⟩

theorem test_decode_maj00_1 :
    decode 0b0_000000_0001000_0010100_0001100_1000 0 = .ok (.mod { sw := false, d := 8, a := 20, b := 12, px := none }) ∧
    decode 0b0_000000_0001000_0010100_0001100_1001 0 = .ok (.modU { sw := false, d := 8, a := 20, b := 12, px := none }) ∧
    decode 0b0_000000_0001000_0010100_0001100_1010 0 = .ok (.min { sw := false, d := 8, a := 20, b := 12, px := none }) ∧
    decode 0b0_000000_0001000_0010100_0001100_1011 0 = .ok (.minU { sw := false, d := 8, a := 20, b := 12, px := none }) ∧
    decode 0b0_000000_0001000_0010100_0001100_1100 0 = .ok (.max { sw := false, d := 8, a := 20, b := 12, px := none }) ∧
    decode 0b0_000000_0001000_0010100_0001100_1101 0 = .ok (.maxU { sw := false, d := 8, a := 20, b := 12, px := none }) ∧
    decode 0b0_000000_0001000_0010100_0000000_1110 0 = .ok (.abs { sw := false, d := 8, a := 20, b := 0, px := none }) ∧
    decode 0b0_000000_0001000_0010100_0000000_1111 0 = .ok (.neg { sw := false, d := 8, a := 20, b := 0, px := none }) := ⟨rfl, rfl, rfl, rfl, rfl, rfl, rfl, rfl⟩

theorem test_decode_maj01_0 :
    decode 0b0_000001_0001000_0010100_0001100_0000 0 = .ok (.and { sw := false, d := 8, a := 20, b := 12, px := none }) ∧
    decode 0b0_000001_0001000_0010100_0001100_0001 0 = .ok (.or { sw := false, d := 8, a := 20, b := 12, px := none }) ∧
    decode 0b0_000001_0001000_0010100_0001100_0010 0 = .ok (.xor { sw := false, d := 8, a := 20, b := 12, px := none }) ∧
    decode 0b0_000001_0001000_0010100_0000000_0011 0 = .ok (.not { sw := false, d := 8, a := 20, b := 0, px := none }) ∧
    decode 0b0_000001_0001000_0010100_0001100_0100 0 = .ok (.shl { sw := false, d := 8, a := 20, b := 12, px := none }) ∧
    decode 0b0_000001_0001000_0010100_0001100_0101 0 = .ok (.shr { sw := false, d := 8, a := 20, b := 12, px := none }) ∧
    decode 0b0_000001_0001000_0010100_0001100_0110 0 = .ok (.sra { sw := false, d := 8, a := 20, b := 12, px := none }) ∧
    decode 0b0_000001_0001000_0010100_0001100_0111 0 = .ok (.bfx { sw := false, d := 8, a := 20, b := 12, px := none }) := ⟨rfl, rfl, rfl, rfl, rfl, rfl, rfl, rfl⟩

theorem test_decode_maj01_1 :
    decode 0b0_000001_0001000_0010100_0001100_1000 0 = .ok (.bfi { sw := false, d := 8, a := 20, b := 12, px := none }) ∧
    decode 0b0_000001_0001000_0010100_0000000_1001 0 = .ok (.popc { sw := false, d := 8, a := 20, b := 0, px := none }) ∧
    decode 0b0_000001_0001000_0010100_0000000_1010 0 = .ok (.clz { sw := false, d := 8, a := 20, b := 0, px := none }) ∧
    decode 0b0_000001_0001000_0010100_0000000_1011 0 = .ok (.brev { sw := false, d := 8, a := 20, b := 0, px := none }) ∧
    decode 0b0_000001_0001000_0010100_0001100_1100 0 = .ok (.lea { sw := false, d := 8, a := 20, b := 12, px := none }) := ⟨rfl, rfl, rfl, rfl, rfl⟩

theorem test_decode_maj02 :
    decode 0b0_000010_0001000_0010100_11111111101 0 = .ok (.addi { sw := false, d := 8, a := 20, imm := 2045, px := none }) := rfl

theorem test_decode_maj03 :
    decode 0b0_000011_0001000_0010100_11111111101 0 = .ok (.andi { sw := false, d := 8, a := 20, imm := 2045, px := none }) := rfl

theorem test_decode_maj04 :
    decode 0b0_000100_0001000_0010100_11111111101 0 = .ok (.ori { sw := false, d := 8, a := 20, imm := 2045, px := none }) := rfl

theorem test_decode_maj05 :
    decode 0b0_000101_0001000_0010100_11111111101 0 = .ok (.xori { sw := false, d := 8, a := 20, imm := 2045, px := none }) := rfl

theorem test_decode_maj06 :
    decode 0b0_000110_0001000_0010100_00000001001 0 = .ok (.shli { sw := false, d := 8, a := 20, imm := 9, px := none }) := rfl

theorem test_decode_maj07 :
    decode 0b0_000111_0001000_0000000_11111111101 0 = .ok (.lui { sw := false, d := 8, a := 0, imm := 2045, px := none }) := rfl

theorem test_decode_maj08_0 :
    decode 0b0_001000_0001000_0010100_0001100_0000 0 = .ok (.fadd { sw := false, d := 8, a := 20, b := 12, px := none }) ∧
    decode 0b0_001000_0001000_0010100_0001100_0001 0 = .ok (.fsub { sw := false, d := 8, a := 20, b := 12, px := none }) ∧
    decode 0b0_001000_0001000_0010100_0001100_0010 0 = .ok (.fmul { sw := false, d := 8, a := 20, b := 12, px := none }) ∧
    decode 0b0_001000_0001000_0010100_0001100_0011 0 = .ok (.ffma { sw := false, d := 8, a := 20, b := 12, px := none }) ∧
    decode 0b0_001000_0001000_0010100_0001100_0100 0 = .ok (.fmin { sw := false, d := 8, a := 20, b := 12, px := none }) ∧
    decode 0b0_001000_0001000_0010100_0001100_0101 0 = .ok (.fmax { sw := false, d := 8, a := 20, b := 12, px := none }) ∧
    decode 0b0_001000_0001000_0010100_0001100_0110 0 = .ok (.fcmp { sw := false, d := 8, a := 20, b := 12, px := none }) ∧
    decode 0b0_001000_0001000_0010100_0001100_0111 0 = .ok (.fsel { sw := false, d := 8, a := 20, b := 12, px := none }) := ⟨rfl, rfl, rfl, rfl, rfl, rfl, rfl, rfl⟩

theorem test_decode_maj08_1 :
    decode 0b0_001000_0001000_0010100_0000000_1000 0 = .ok (.frnd { sw := false, d := 8, a := 20, b := 0, px := none }) ∧
    decode 0b0_001000_0001000_0010100_0000000_1001 0 = .ok (.fclass { sw := false, d := 8, a := 20, b := 0, px := none }) := ⟨rfl, rfl⟩

theorem test_decode_maj09 :
    decode 0b0_001001_0001000_0010100_0000000_0000 0 = .ok (.frcp { sw := false, d := 8, a := 20, b := 0, px := none }) ∧
    decode 0b0_001001_0001000_0010100_0000000_0001 0 = .ok (.frsq { sw := false, d := 8, a := 20, b := 0, px := none }) ∧
    decode 0b0_001001_0001000_0010100_0000000_0010 0 = .ok (.fsqrt { sw := false, d := 8, a := 20, b := 0, px := none }) ∧
    decode 0b0_001001_0001000_0010100_0000000_0011 0 = .ok (.fex2 { sw := false, d := 8, a := 20, b := 0, px := none }) ∧
    decode 0b0_001001_0001000_0010100_0000000_0100 0 = .ok (.flg2 { sw := false, d := 8, a := 20, b := 0, px := none }) ∧
    decode 0b0_001001_0001000_0010100_0000000_0101 0 = .ok (.fsin { sw := false, d := 8, a := 20, b := 0, px := none }) ∧
    decode 0b0_001001_0001000_0010100_0000000_0110 0 = .ok (.fcos { sw := false, d := 8, a := 20, b := 0, px := none }) := ⟨rfl, rfl, rfl, rfl, rfl, rfl, rfl⟩

theorem test_decode_maj0A :
    decode 0b0_001010_0001000_0010100_0001100_0000 0 = .ok (.dadd { sw := false, d := 8, a := 20, b := 12, px := none }) ∧
    decode 0b0_001010_0001000_0010100_0001100_0001 0 = .ok (.dmul { sw := false, d := 8, a := 20, b := 12, px := none }) ∧
    decode 0b0_001010_0001000_0010100_0001100_0010 0 = .ok (.dfma { sw := false, d := 8, a := 20, b := 12, px := none }) := ⟨rfl, rfl, rfl⟩

theorem test_decode_maj10 :
    decode 0b0_111111_0000000000011000000100011 0b0_010000_0001000_0010100_0000000_0000 = .ok (.cvt { sw := false, d := 8, a := 20, b := 0, px := some 12323 }) ∧
    decode 0b0_111111_0000000000011010000110001 0b0_010000_0001000_0010100_0001100_0001 = .ok (.cvtn { sw := false, d := 8, a := 20, b := 12, px := some 13361 }) ∧
    decode 0b0_010000_0001000_0010100_0000000_0010 0 = .ok (.amax { sw := false, d := 8, a := 20, b := 0, px := none }) ∧
    decode 0b0_111111_0000000000011100000010000 0b0_010000_0001000_0010100_0000000_0011 = .ok (.scaleq { sw := false, d := 8, a := 20, b := 0, px := some 14352 }) ∧
    decode 0b0_010000_0001000_0010100_0001100_0100 0 = .ok (.pack { sw := false, d := 8, a := 20, b := 12, px := none }) ∧
    decode 0b0_010000_0001000_0010100_0001100_0101 0 = .ok (.unpack { sw := false, d := 8, a := 20, b := 12, px := none }) ∧
    decode 0b0_010000_0001000_0010100_0001100_0110 0 = .ok (.cmpset { sw := false, d := 8, a := 20, b := 12, px := none }) := ⟨rfl, rfl, rfl, rfl, rfl, rfl, rfl⟩

theorem test_decode_maj14 :
    decode 0b0_010100_0001000_0010100_0001100_0000 0 = .ok (.shfl { sw := false, d := 8, a := 20, b := 12, px := none }) ∧
    decode 0b0_010100_0001000_0010100_0000000_0001 0 = .ok (.vote { sw := false, d := 8, a := 20, b := 0, px := none }) ∧
    decode 0b0_010100_0001000_0010100_0000000_0010 0 = .ok (.redw { sw := false, d := 8, a := 20, b := 0, px := none }) ∧
    decode 0b0_010100_0001000_0010100_0000000_0011 0 = .ok (.scanw { sw := false, d := 8, a := 20, b := 0, px := none }) ∧
    decode 0b0_010100_0001000_0010100_0000000_0100 0 = .ok (.matchLanes { sw := false, d := 8, a := 20, b := 0, px := none }) := ⟨rfl, rfl, rfl, rfl, rfl⟩

theorem test_decode_maj15_0 :
    decode 0b0_010101_0011_0000_0000_0001010_000000 0 = .ok (.kset { sw := false, kd := 3, ka := 0, kb := 0, r := 10 }) ∧
    decode 0b0_010101_0000_0101_0000_0001010_000001 0 = .ok (.kmov { sw := false, kd := 0, ka := 5, kb := 0, r := 10 }) ∧
    decode 0b0_010101_0000_0101_0000_0001010_000010 0 = .ok (.kpop { sw := false, kd := 0, ka := 5, kb := 0, r := 10 }) ∧
    decode 0b0_010101_0011_0000_0000_0000000_000100 0 = .ok (.join { sw := false, kd := 3, ka := 0, kb := 0, r := 0 }) ∧
    decode 0b0_010101_0011_0000_0000_0000000_000101 0 = .ok (.leave { sw := false, kd := 3, ka := 0, kb := 0, r := 0 }) ∧
    decode 0b0_010101_0011_0000_0000_0000000_000110 0 = .ok (.kwait { sw := false, kd := 3, ka := 0, kb := 0, r := 0 }) ∧
    decode 0b0_010101_0011_0101_0111_0000000_001000 0 = .ok (.klogAnd { sw := false, kd := 3, ka := 5, kb := 7, r := 0 }) ∧
    decode 0b0_010101_0011_0101_0111_0000000_001001 0 = .ok (.klogOr { sw := false, kd := 3, ka := 5, kb := 7, r := 0 }) := ⟨rfl, rfl, rfl, rfl, rfl, rfl, rfl, rfl⟩

theorem test_decode_maj15_1 :
    decode 0b0_010101_0011_0101_0111_0000000_001010 0 = .ok (.klogXor { sw := false, kd := 3, ka := 5, kb := 7, r := 0 }) ∧
    decode 0b0_010101_0011_0101_0111_0000000_001011 0 = .ok (.klogAndn { sw := false, kd := 3, ka := 5, kb := 7, r := 0 }) := ⟨rfl, rfl⟩

theorem test_decode_maj16 :
    decode 0b0_010110_0000000_0000000_00000000110 0 = .ok (.prio { sw := false, d := 0, a := 0, imm := 6, px := none }) := rfl

theorem test_decode_maj18 :
    decode 0b0_011000_0110_111111111111111111101 0 = .ok (.bra { sw := false, prio := 6, off := 2097149, px := none }) := rfl

theorem test_decode_maj19 :
    decode 0b0_011001_0110_0010101_11111111111101 0 = .ok (.brc { sw := false, prio := 6, cond := 21, off := 16381, px := none }) := rfl

theorem test_decode_maj1A_0 :
    decode 0b0_011010_0000000_0010100_0000110_0000 0 = .ok (.jmpi { sw := false, d := 0, a := 20, b := 6, px := none }) ∧
    decode 0b0_011010_0001000_0010100_0000000_0001 0 = .ok (.callw { sw := false, d := 8, a := 20, b := 0, px := none }) ∧
    decode 0b0_011010_0001000_0010100_0001100_0010 0 = .ok (.callk { sw := false, d := 8, a := 20, b := 12, px := none }) ∧
    decode 0b0_011010_0000000_0000000_0000000_0011 0 = .ok (.retw { sw := false, d := 0, a := 0, b := 0, px := none }) ∧
    decode 0b0_011010_0000000_0000000_0000000_0100 0 = .ok (.retwB { sw := false, d := 0, a := 0, b := 0, px := none }) ∧
    decode 0b0_011010_0000000_0000000_0000000_0101 0 = .ok (.retk { sw := false, d := 0, a := 0, b := 0, px := none }) ∧
    decode 0b0_011010_0000000_0000000_0000000_0110 0 = .ok (.exit { sw := false, d := 0, a := 0, b := 0, px := none }) ∧
    decode 0b0_011010_0000000_0000000_0000000_0111 0 = .ok (.nop { sw := false, d := 0, a := 0, b := 0, px := none }) := ⟨rfl, rfl, rfl, rfl, rfl, rfl, rfl, rfl⟩

theorem test_decode_maj1A_1 :
    decode 0b0_011010_0000000_0000000_0000000_1000 0 = .ok (.yield { sw := false, d := 0, a := 0, b := 0, px := none }) ∧
    decode 0b0_011010_0000000_0000000_0001001_1001 0 = .ok (.wbase { sw := false, d := 0, a := 0, b := 9, px := none }) := ⟨rfl, rfl⟩

theorem test_decode_maj1C :
    decode 0b0_011100_0001000_0010100_100_01_111101 0 = .ok (.ld { sw := false, d := 8, a := 20, size := 4, hint := 1, off := 61, px := none }) := rfl

theorem test_decode_maj1D :
    decode 0b0_011101_0001000_0010100_100_01_111101 0 = .ok (.st { sw := false, d := 8, a := 20, size := 4, hint := 1, off := 61, px := none }) := rfl

theorem test_decode_maj1E :
    decode 0b0_011110_0001000_0010100_100_01_111101 0 = .ok (.ldt { sw := false, d := 8, a := 20, size := 4, hint := 1, off := 61, px := none }) := rfl

theorem test_decode_maj1F :
    decode 0b0_011111_0001000_0010100_100_00_111101 0 = .ok (.lds { sw := false, d := 8, a := 20, size := 4, hint := 0, off := 61, px := none }) := rfl

theorem test_decode_maj20 :
    decode 0b0_100000_0001000_0010100_100_00_111101 0 = .ok (.sts { sw := false, d := 8, a := 20, size := 4, hint := 0, off := 61, px := none }) := rfl

theorem test_decode_maj21_0 :
    decode 0b0_100001_0001000_0010100_0001100_0000 0 = .ok (.atomAdd { sw := false, d := 8, a := 20, b := 12, px := none }) ∧
    decode 0b0_100001_0001000_0010100_0001100_0001 0 = .ok (.atomMinS { sw := false, d := 8, a := 20, b := 12, px := none }) ∧
    decode 0b0_100001_0001000_0010100_0001100_0010 0 = .ok (.atomMaxS { sw := false, d := 8, a := 20, b := 12, px := none }) ∧
    decode 0b0_100001_0001000_0010100_0001100_0011 0 = .ok (.atomMinU { sw := false, d := 8, a := 20, b := 12, px := none }) ∧
    decode 0b0_100001_0001000_0010100_0001100_0100 0 = .ok (.atomMaxU { sw := false, d := 8, a := 20, b := 12, px := none }) ∧
    decode 0b0_100001_0001000_0010100_0001100_0101 0 = .ok (.atomAnd { sw := false, d := 8, a := 20, b := 12, px := none }) ∧
    decode 0b0_100001_0001000_0010100_0001100_0110 0 = .ok (.atomOr { sw := false, d := 8, a := 20, b := 12, px := none }) ∧
    decode 0b0_100001_0001000_0010100_0001100_0111 0 = .ok (.atomXor { sw := false, d := 8, a := 20, b := 12, px := none }) := ⟨rfl, rfl, rfl, rfl, rfl, rfl, rfl, rfl⟩

theorem test_decode_maj21_1 :
    decode 0b0_100001_0001000_0010100_0001100_1000 0 = .ok (.atomExch { sw := false, d := 8, a := 20, b := 12, px := none }) ∧
    decode 0b0_100001_0001000_0010100_0001100_1001 0 = .ok (.atomCas { sw := false, d := 8, a := 20, b := 12, px := none }) ∧
    decode 0b0_100001_0001000_0010100_0001100_1010 0 = .ok (.atomAddF32 { sw := false, d := 8, a := 20, b := 12, px := none }) ∧
    decode 0b0_100001_1111000_0010100_0001100_1001 0 = .ok (.red 9 { sw := false, d := 120, a := 20, b := 12, px := none }) := ⟨rfl, rfl, rfl, rfl⟩

theorem test_decode_maj22_0 :
    decode 0b0_100010_0001000_0010100_0001100_0000 0 = .ok (.atomsAdd { sw := false, d := 8, a := 20, b := 12, px := none }) ∧
    decode 0b0_100010_0001000_0010100_0001100_0001 0 = .ok (.atomsMinS { sw := false, d := 8, a := 20, b := 12, px := none }) ∧
    decode 0b0_100010_0001000_0010100_0001100_0010 0 = .ok (.atomsMaxS { sw := false, d := 8, a := 20, b := 12, px := none }) ∧
    decode 0b0_100010_0001000_0010100_0001100_0011 0 = .ok (.atomsMinU { sw := false, d := 8, a := 20, b := 12, px := none }) ∧
    decode 0b0_100010_0001000_0010100_0001100_0100 0 = .ok (.atomsMaxU { sw := false, d := 8, a := 20, b := 12, px := none }) ∧
    decode 0b0_100010_0001000_0010100_0001100_0101 0 = .ok (.atomsAnd { sw := false, d := 8, a := 20, b := 12, px := none }) ∧
    decode 0b0_100010_0001000_0010100_0001100_0110 0 = .ok (.atomsOr { sw := false, d := 8, a := 20, b := 12, px := none }) ∧
    decode 0b0_100010_0001000_0010100_0001100_0111 0 = .ok (.atomsXor { sw := false, d := 8, a := 20, b := 12, px := none }) := ⟨rfl, rfl, rfl, rfl, rfl, rfl, rfl, rfl⟩

theorem test_decode_maj22_1 :
    decode 0b0_100010_0001000_0010100_0001100_1000 0 = .ok (.atomsExch { sw := false, d := 8, a := 20, b := 12, px := none }) ∧
    decode 0b0_100010_0001000_0010100_0001100_1001 0 = .ok (.atomsCas { sw := false, d := 8, a := 20, b := 12, px := none }) ∧
    decode 0b0_100010_0001000_0010100_0001100_1010 0 = .ok (.atomsAddF32 { sw := false, d := 8, a := 20, b := 12, px := none }) ∧
    decode 0b0_100010_1111000_0010100_0001100_1001 0 = .ok (.reds 9 { sw := false, d := 120, a := 20, b := 12, px := none }) := ⟨rfl, rfl, rfl, rfl⟩

theorem test_decode_maj23_0 :
    decode 0b0_100011_0001000_0010100_0001100_0000 0 = .ok (.fpush { sw := false, d := 8, a := 20, b := 12, px := none }) ∧
    decode 0b0_100011_0001000_0010100_0000000_0001 0 = .ok (.fpop { sw := false, d := 8, a := 20, b := 0, px := none }) ∧
    decode 0b0_100011_0000000_0010100_0000000_0010 0 = .ok (.pref { sw := false, d := 0, a := 20, b := 0, px := none }) ∧
    decode 0b0_100011_0000000_0010100_0001100_0011 0 = .ok (.chint { sw := false, d := 0, a := 20, b := 12, px := none }) ∧
    decode 0b0_100011_0000000_0010100_0000000_0100 0 = .ok (.bankcfg { sw := false, d := 0, a := 20, b := 0, px := none }) ∧
    decode 0b0_100011_0000000_0000000_0000000_0101 0 = .ok (.phase { sw := false, d := 0, a := 0, b := 0, px := none }) ∧
    decode 0b0_100011_0000000_0000000_0000000_0110 0 = .ok (.fenceo { sw := false, d := 0, a := 0, b := 0, px := none }) ∧
    decode 0b0_100011_0000000_0010100_0000000_0111 0 = .ok (.fencer { sw := false, d := 0, a := 20, b := 0, px := none }) := ⟨rfl, rfl, rfl, rfl, rfl, rfl, rfl, rfl⟩

theorem test_decode_maj23_1 :
    decode 0b0_100011_0000000_0010100_0000000_1000 0 = .ok (.publish { sw := false, d := 0, a := 20, b := 0, px := none }) ∧
    decode 0b0_100011_0001000_0010100_0001100_1001 0 = .ok (.shadowset { sw := false, d := 8, a := 20, b := 12, px := none }) ∧
    decode 0b0_111111_0000000000000000000000001 0b0_100011_0001000_0010100_0001100_1001 = .ok (.shadowsetDel { sw := false, d := 8, a := 20, b := 12, px := some 1 }) ∧
    decode 0b0_100011_0001000_0010100_0001100_1010 0 = .ok (.ldc { sw := false, d := 8, a := 20, b := 12, px := none }) := ⟨rfl, rfl, rfl, rfl⟩

theorem test_decode_maj24 :
    decode 0b0_100100_0001000_0010100_0001100_0101 0 = .ok (.waitu 5 { sw := false, d := 8, a := 20, b := 12, px := none }) := rfl

theorem test_decode_maj25 :
    decode 0b0_100101_0001000_0010100_0001100_0101 0 = .ok (.waitl 5 { sw := false, d := 8, a := 20, b := 12, px := none }) := rfl

theorem test_decode_maj26 :
    decode 0b0_100110_0001000_0010100_0000000_0000 0 = .ok (.barr { sw := false, d := 8, a := 20, b := 0, px := none }) ∧
    decode 0b0_100110_0001000_0010100_0001100_0001 0 = .ok (.bwait { sw := false, d := 8, a := 20, b := 12, px := none }) ∧
    decode 0b0_100110_0000000_0010100_0001100_0010 0 = .ok (.bsetm { sw := false, d := 0, a := 20, b := 12, px := none }) := ⟨rfl, rfl, rfl⟩

theorem test_decode_maj28 :
    decode 0b0_101000_0001000_0010100_0000000_0000 0 = .ok (.tspawn { sw := false, d := 8, a := 20, b := 0, px := none }) ∧
    decode 0b0_101000_0001000_0010100_0000000_0001 0 = .ok (.trange { sw := false, d := 8, a := 20, b := 0, px := none }) ∧
    decode 0b0_101000_0001000_0000000_0000000_0010 0 = .ok (.tnext { sw := false, d := 8, a := 0, b := 0, px := none }) ∧
    decode 0b0_101000_0000000_0010100_0000000_0011 0 = .ok (.tjoin { sw := false, d := 0, a := 20, b := 0, px := none }) ∧
    decode 0b0_101000_0000000_0000000_0000000_0100 0 = .ok (.tend { sw := false, d := 0, a := 0, b := 0, px := none }) ∧
    decode 0b0_101000_0001000_0010100_0001100_0101 0 = .ok (.tcancel { sw := false, d := 8, a := 20, b := 12, px := none }) ∧
    decode 0b0_101000_0001000_0000000_0000000_0110 0 = .ok (.tself { sw := false, d := 8, a := 0, b := 0, px := none }) := ⟨rfl, rfl, rfl, rfl, rfl, rfl, rfl⟩

theorem test_decode_maj29 :
    decode 0b0_101001_0001000_0010100_0001100_0000 0 = .ok (.fset { sw := false, d := 8, a := 20, b := 12, px := none }) ∧
    decode 0b0_101001_0001000_0010100_0001100_0001 0 = .ok (.fwait { sw := false, d := 8, a := 20, b := 12, px := none }) ∧
    decode 0b0_101001_0001000_0010100_0001100_0010 0 = .ok (.lockw { sw := false, d := 8, a := 20, b := 12, px := none }) ∧
    decode 0b0_101001_0000000_0010100_0000000_0011 0 = .ok (.unlock { sw := false, d := 0, a := 20, b := 0, px := none }) ∧
    decode 0b0_101001_0001000_0010100_0001100_0100 0 = .ok (.qput { sw := false, d := 8, a := 20, b := 12, px := none }) ∧
    decode 0b0_111111_0000000000000000000000001 0b0_101001_0001000_0010100_0001100_0100 = .ok (.qputProm { sw := false, d := 8, a := 20, b := 12, px := some 1 }) ∧
    decode 0b0_111111_0000000000000000000000010 0b0_101001_0001000_0010100_0001100_0100 = .ok (.qputFill { sw := false, d := 8, a := 20, b := 12, px := some 2 }) ∧
    decode 0b0_101001_0001000_0010100_0001100_0101 0 = .ok (.qtake { sw := false, d := 8, a := 20, b := 12, px := none }) := ⟨rfl, rfl, rfl, rfl, rfl, rfl, rfl, rfl⟩

theorem test_decode_maj2C :
    decode 0b0_101100_0001000_0010100_0001100_0000 0 = .ok (.acp { sw := false, d := 8, a := 20, b := 12, px := none }) ∧
    decode 0b0_101100_0001000_0010100_0000000_0001 0 = .ok (.acpwait { sw := false, d := 8, a := 20, b := 0, px := none }) ∧
    decode 0b0_101100_0000000_0010100_0001100_0010 0 = .ok (.tplset { sw := false, d := 0, a := 20, b := 12, px := none }) ∧
    decode 0b0_101100_0000000_0010100_0001100_0011 0 = .ok (.swinit { sw := false, d := 0, a := 20, b := 12, px := none }) ∧
    decode 0b0_101100_0001000_0010100_0001100_0100 0 = .ok (.syncw { sw := false, d := 8, a := 20, b := 12, px := none }) ∧
    decode 0b0_101100_0001000_0010100_0000000_0101 0 = .ok (.btestat { sw := false, d := 8, a := 20, b := 0, px := none }) ∧
    decode 0b0_111111_0000000000000000000000011 0b0_101100_0001000_0010100_0000000_0101 = .ok (.btestatClr { sw := false, d := 8, a := 20, b := 0, px := some 3 }) := ⟨rfl, rfl, rfl, rfl, rfl, rfl, rfl⟩

theorem test_decode_maj2D :
    decode 0b0_101101_0001000_0010100_0001100_0000 0 = .ok (.gather { sw := false, d := 8, a := 20, b := 12, px := none }) ∧
    decode 0b0_101101_0001000_0010100_0001100_0001 0 = .ok (.scatter { sw := false, d := 8, a := 20, b := 12, px := none }) ∧
    decode 0b0_101101_0001000_0010100_0001100_0010 0 = .ok (.scatadd { sw := false, d := 8, a := 20, b := 12, px := none }) ∧
    decode 0b0_101101_0001000_0000000_0001100_0011 0 = .ok (.gswait { sw := false, d := 8, a := 0, b := 12, px := none }) ∧
    decode 0b0_111111_0000000000000000000000001 0b0_101101_0001000_0000000_0000000_0011 = .ok (.gswaitDup { sw := false, d := 8, a := 0, b := 0, px := some 1 }) ∧
    decode 0b0_111111_0000000000000000000000010 0b0_101101_0001000_0000000_0000000_0011 = .ok (.gswaitOut { sw := false, d := 8, a := 0, b := 0, px := some 2 }) := ⟨rfl, rfl, rfl, rfl, rfl, rfl⟩

theorem test_decode_maj30 :
    decode 0b0_110000_0101_1_0010100_01001_0001010_1 0 = .ok (.tslice { sw := false, tile := 5, col := true, idx := 20, imm := 9, reg := 10, wr := true, px := none }) := rfl

theorem test_decode_maj31_0 :
    decode 0b0_110001_0011_1000_0000_010_0_0000_0_0000 0b100110_00000000000000000000000000 = .ok (.tbind { sw := false, xd := 3, xa := 8, xb := 0, q := 2, hold := false, h := 0, rsv := false, payload := 2550136832 }) ∧
    decode 0b0_110001_0011_0000_0000_010_1_0101_0_0001 0b100110_00000000000000000000000010 = .ok (.tzero { sw := false, xd := 3, xa := 0, xb := 0, q := 2, hold := true, h := 5, rsv := false, payload := 2550136834 }) ∧
    decode 0b0_110001_0000_0100_0000_010_1_0101_0_0010 0b100110_00000000000000000000000001 = .ok (.mxlw { sw := false, xd := 0, xa := 4, xb := 0, q := 2, hold := true, h := 5, rsv := false, payload := 2550136833 }) ∧
    decode 0b0_110001_0000_0000_0000_010_1_0101_0_0011 0b100110_00000000000000000000000000 = .ok (.mxswap { sw := false, xd := 0, xa := 0, xb := 0, q := 2, hold := true, h := 5, rsv := false, payload := 2550136832 }) ∧
    decode 0b0_110001_0010_0011_0101_010_1_0101_0_0100 0b100110_10000000000000000111111111 = .ok (.mxmm { sw := false, xd := 2, xa := 3, xb := 5, q := 2, hold := true, h := 5, rsv := false, payload := 2583691775 }) ∧
    decode 0b0_110001_0010_0011_0101_010_1_0101_0_0101 0b100110_00000000000000000000011111 = .ok (.mxmms { sw := false, xd := 2, xa := 3, xb := 5, q := 2, hold := true, h := 5, rsv := false, payload := 2550136863 }) ∧
    decode 0b0_110001_0000_0011_0100_010_1_0101_0_0110 0b100110_00000000011000000000000000 = .ok (.mxep { sw := false, xd := 0, xa := 3, xb := 4, q := 2, hold := true, h := 5, rsv := false, payload := 2550235136 }) ∧
    decode 0b0_110001_0000_0011_0101_010_1_0101_0_0111 0b100110_00000000111111100000000000 = .ok (.mxsel { sw := false, xd := 0, xa := 3, xb := 5, q := 2, hold := true, h := 5, rsv := false, payload := 2550396928 }) := ⟨rfl, rfl, rfl, rfl, rfl, rfl, rfl, rfl⟩

theorem test_decode_maj31_1 :
    decode 0b0_110001_0011_0000_0000_010_1_0101_0_0111 0b100110_01000000000000000000000000 = .ok (.mxselRead { sw := false, xd := 3, xa := 0, xb := 0, q := 2, hold := true, h := 5, rsv := false, payload := 2566914048 }) ∧
    decode 0b0_110001_0011_0101_0000_010_1_0101_0_1000 0b100110_00000000000111111111111111 = .ok (.accld { sw := false, xd := 3, xa := 5, xb := 0, q := 2, hold := true, h := 5, rsv := false, payload := 2550169599 }) ∧
    decode 0b0_110001_0011_0101_0000_010_1_0101_0_1001 0b100110_00000000000000000000000111 = .ok (.accst { sw := false, xd := 3, xa := 5, xb := 0, q := 2, hold := true, h := 5, rsv := false, payload := 2550136839 }) ∧
    decode 0b0_110001_0011_0000_0000_010_1_0101_0_1010 0b100110_00000000000000000000001001 = .ok (.accz { sw := false, xd := 3, xa := 0, xb := 0, q := 2, hold := true, h := 5, rsv := false, payload := 2550136841 }) ∧
    decode 0b0_110001_0000_0100_0000_010_1_0101_0_1011 0b100110_00000000000000000000000000 = .ok (.mxsave { sw := false, xd := 0, xa := 4, xb := 0, q := 2, hold := true, h := 5, rsv := false, payload := 2550136832 }) ∧
    decode 0b0_110001_0000_0110_0000_010_1_0101_0_1100 0b100110_00000000000000000000000000 = .ok (.mxload { sw := false, xd := 0, xa := 6, xb := 0, q := 2, hold := true, h := 5, rsv := false, payload := 2550136832 }) := ⟨rfl, rfl, rfl, rfl, rfl, rfl⟩

theorem test_decode_maj32 :
    decode 0b0_110010_0011_0000_0000_0001010_000000 0 = .ok (.tpset { sw := false, kd := 3, ka := 0, kb := 0, r := 10 }) ∧
    decode 0b0_110010_0011_0101_0111_0000000_001000 0 = .ok (.tplogAnd { sw := false, kd := 3, ka := 5, kb := 7, r := 0 }) ∧
    decode 0b0_110010_0011_0101_0111_0000000_001001 0 = .ok (.tplogOr { sw := false, kd := 3, ka := 5, kb := 7, r := 0 }) ∧
    decode 0b0_110010_0011_0101_0111_0000000_001010 0 = .ok (.tplogXor { sw := false, kd := 3, ka := 5, kb := 7, r := 0 }) ∧
    decode 0b0_110010_0011_0101_0111_0000000_001011 0 = .ok (.tplogAndn { sw := false, kd := 3, ka := 5, kb := 7, r := 0 }) := ⟨rfl, rfl, rfl, rfl, rfl⟩

theorem test_decode_maj33 :
    decode 0b0_110011_0001000_0000000_0000000_0000 0 = .ok (.mxseq { sw := false, d := 8, a := 0, b := 0, px := none }) ∧
    decode 0b0_110011_0001000_0010100_0001100_0001 0 = .ok (.mxwait { sw := false, d := 8, a := 20, b := 12, px := none }) ∧
    decode 0b0_111111_0000000000000000000000001 0b0_110011_0001000_0000000_0001100_0001 = .ok (.mxwaitOut { sw := false, d := 8, a := 0, b := 12, px := some 1 }) := ⟨rfl, rfl, rfl⟩

theorem test_decode_maj38 :
    decode 0b0_111000_0001000_0010100_0001100_0000 0 = .ok (.bmv { sw := false, d := 8, a := 20, b := 12, px := none }) ∧
    decode 0b0_111000_0000000_0010100_0001100_0001 0 = .ok (.bfenceW { sw := false, d := 0, a := 20, b := 12, px := none }) ∧
    decode 0b0_111111_0000000000000000000000001 0b0_111000_0000000_0000000_0000000_0001 = .ok (.bfenceR { sw := false, d := 0, a := 0, b := 0, px := some 1 }) ∧
    decode 0b0_111000_0001000_0010100_0001100_0010 0 = .ok (.bmwait { sw := false, d := 8, a := 20, b := 12, px := none }) ∧
    decode 0b0_111111_0000000000000000000000001 0b0_111000_0001000_0000000_0001100_0010 = .ok (.bmwaitAll { sw := false, d := 8, a := 0, b := 12, px := some 1 }) ∧
    decode 0b0_111111_0000000000000000000000010 0b0_111000_0001000_0000000_0000000_0010 = .ok (.bmwaitSeq { sw := false, d := 8, a := 0, b := 0, px := some 2 }) ∧
    decode 0b0_111111_0000000000000000000000011 0b0_111000_0001000_0000000_0000000_0010 = .ok (.bmwaitLast { sw := false, d := 8, a := 0, b := 0, px := some 3 }) := ⟨rfl, rfl, rfl, rfl, rfl, rfl, rfl⟩

theorem test_decode_maj39 :
    decode 0b0_111001_0001000_0010100_0001100_0000 0 = .ok (.xres { sw := false, d := 8, a := 20, b := 12, px := none }) ∧
    decode 0b0_111111_0000000000000000000000001 0b0_111001_0000000_0010100_0000000_0000 = .ok (.xresRel { sw := false, d := 0, a := 20, b := 0, px := some 1 }) ∧
    decode 0b0_111001_0000000_0010100_0000000_0001 0 = .ok (.xhit { sw := false, d := 0, a := 20, b := 0, px := none }) ∧
    decode 0b0_111001_0000000_0010100_0000000_0010 0 = .ok (.xage { sw := false, d := 0, a := 20, b := 0, px := none }) ∧
    decode 0b0_111111_0000000000000000000000001 0b0_111001_0000000_0000000_0000000_0010 = .ok (.xageNow { sw := false, d := 0, a := 0, b := 0, px := some 1 }) ∧
    decode 0b0_111001_0001000_0010100_0000000_0011 0 = .ok (.xquery { sw := false, d := 8, a := 20, b := 0, px := none }) := ⟨rfl, rfl, rfl, rfl, rfl, rfl⟩

theorem test_decode_maj3B_0 :
    decode 0b1_111011_0000000_0000000_1001101_0000 0 = .ok (.trap { sw := true, d := 0, a := 0, b := 77, px := none }) ∧
    decode 0b0_111011_0000000_0000000_0000000_0001 0 = .ok (.tret { sw := false, d := 0, a := 0, b := 0, px := none }) ∧
    decode 0b0_111111_0000000000000000000000001 0b0_111011_0000000_0000000_0000000_0001 = .ok (.tretSkip { sw := false, d := 0, a := 0, b := 0, px := some 1 }) ∧
    decode 0b0_111011_0001000_0000000_0000011_0010 0 = .ok (.rdctl { sw := false, d := 8, a := 0, b := 3, px := none }) ∧
    decode 0b0_111011_0000000_0010100_0000011_0011 0 = .ok (.wrctl { sw := false, d := 0, a := 20, b := 3, px := none }) ∧
    decode 0b0_111011_0001000_0010100_0001100_0100 0 = .ok (.ctxsave { sw := false, d := 8, a := 20, b := 12, px := none }) ∧
    decode 0b0_111011_0001000_0010100_0000000_0101 0 = .ok (.ctxload { sw := false, d := 8, a := 20, b := 0, px := none }) ∧
    decode 0b0_111111_0000000000000000000000001 0b0_111011_0001000_0010100_0000000_0101 = .ok (.ctxloadRearm { sw := false, d := 8, a := 20, b := 0, px := some 1 }) := ⟨rfl, rfl, rfl, rfl, rfl, rfl, rfl, rfl⟩

theorem test_decode_maj3B_1 :
    decode 0b0_111011_0000000_0010100_0001100_0110 0 = .ok (.tlbinv { sw := false, d := 0, a := 20, b := 12, px := none }) ∧
    decode 0b0_111011_0000000_0000000_0000000_0111 0 = .ok (.smcVersion { sw := false, d := 0, a := 0, b := 0, px := none }) ∧
    decode 0b0_111011_0000000_0000000_0000001_0111 0 = .ok (.smcAttest { sw := false, d := 0, a := 0, b := 1, px := none }) ∧
    decode 0b0_111011_0000000_0000000_0000010_0111 0 = .ok (.smcLoadKeySlot { sw := false, d := 0, a := 0, b := 2, px := none }) ∧
    decode 0b0_111011_0000000_0000000_0000011_0111 0 = .ok (.smcSetRegionEntry { sw := false, d := 0, a := 0, b := 3, px := none }) ∧
    decode 0b0_111011_0000000_0000000_0000100_0111 0 = .ok (.smcReadErrorCounters { sw := false, d := 0, a := 0, b := 4, px := none }) ∧
    decode 0b0_111011_0000000_0000000_0000101_0111 0 = .ok (.smcPowerState { sw := false, d := 0, a := 0, b := 5, px := none }) ∧
    decode 0b0_111011_0000000_0000000_0000110_0111 0 = .ok (.smcSnapshot { sw := false, d := 0, a := 0, b := 6, px := none }) := ⟨rfl, rfl, rfl, rfl, rfl, rfl, rfl, rfl⟩

theorem test_decode_maj3B_2 :
    decode 0b0_111011_0000000_0000000_0000111_0111 0 = .ok (.smcBindFabricJob { sw := false, d := 0, a := 0, b := 7, px := none }) ∧
    decode 0b0_111011_0000000_0000000_0001000_0111 0 = .ok (.smcLoadSnapshot { sw := false, d := 0, a := 0, b := 8, px := none }) := ⟨rfl, rfl⟩
/-! ### A small machine: one context, identity page of 2 GiB, one warp of 32 lanes in slot 0 of core 0 -/

/-- The state whose next step runs a NOP. -/
def base : State := State.reset.withFetchWord 32 0x34000007
/-- An issue of lane 0 alone. -/
def c0 : Issue := { wid := 0, pc := 0x1000, prio := 0, lanes := 1, len := 4, pair := false, insn := 0 }
/-- The warp of `base`. -/
def w0 : WarpCore := WarpCore.fresh 0 0 1 0 0 512 0xFFFFFFFF 0x1000 1
/-- `base` with its warp changed, an instruction in progress, and the machine around it changed. -/
def on (f : WarpCore → WarpCore) (g : State → State) : State := g { base with warps := [(0, { run := f w0, help := [] })], cur := some c0 }
/-- Lane register `r` of lane `l` holds a value. -/
def set (l r v : Nat) (w : WarpCore) : WarpCore := { w with regs := Map.set 0 w.regs (32 * r + l) (BitVec.ofNat 32 v) }
/-- A pair of lane 0. -/
def pair (r v : Nat) (w : WarpCore) : WarpCore := set 0 r v (set 0 (r + 1) (v / 2 ^ 32) w)
/-- A uniform register holds a value. -/
def uni (n v : Nat) (w : WarpCore) : WarpCore := { w with w := Map.set 0 w.w n (BitVec.ofNat 32 v) }
/-- Lane register `r` of lane `l` of warp 0. -/
def reg (s : State) (l r : Nat) : Nat :=
  match s.warp? 0 with
  | some w => (Map.get 0 w.regs (32 * r + l)).toNat
  | none => 0
/-- What holds of the next state of `exec`. -/
def next (i : Instr) (s : State) (q : State → Bool) : Bool :=
  match exec i s with
  | .next t => q t
  | .fault _ => false
  | .refused _ => false
/-- What holds of an operation that answers a result. -/
def okWith {ε β : Type} (x : State × Except ε β) (q : State → β → Bool) : Bool :=
  match x.2 with
  | .ok y => q x.1 y
  | .error _ => false
/-- What holds of an operation that may answer nothing. -/
def someWith {β : Type} (x : State × Option β) (q : State → β → Bool) : Bool :=
  match x.2 with
  | some y => q x.1 y
  | none => false

theorem okWith_spec {ε β : Type} {x : State × Except ε β} {q : State → β → Bool} (h : okWith x q = true) : ∃ s y, x = (s, .ok y) ∧ q s y = true := by
  obtain ⟨a, b⟩ := x
  cases b with
  | error e => cases h
  | ok y => exact ⟨a, y, rfl, h⟩

theorem someWith_spec {β : Type} {x : State × Option β} {q : State → β → Bool} (h : someWith x q = true) : ∃ s y, x = (s, some y) ∧ q s y = true := by
  obtain ⟨a, b⟩ := x
  cases b with
  | none => cases h
  | some y => exact ⟨a, y, rfl, h⟩

theorem mem_keysFrom {k n x : Nat} : x ∈ keysFrom k n ↔ k ≤ x ∧ x < k + n := by
  induction n generalizing k with
  | zero => simp only [keysFrom, List.not_mem_nil, false_iff]; omega
  | succ n ih => simp only [keysFrom, List.mem_cons, ih]; omega

/-- `KeyInForce`, evaluated. -/
def keyed (s : State) (okey k n : Nat) : Bool := isSpad k || (keysFrom k n).all (fun x => decide (s.tagAt x = s.keyTag okey))
/-- `CleanBytes`, evaluated. -/
def clean (s : State) (okey k n : Nat) : Bool :=
  keyed s okey k n && (keysFrom k n).all (fun x => decide (x ∉ s.poison) && !s.isUndef x)
/-- `SettledBytes` of words with no write in the history, evaluated. -/
def settled (s : State) (w : WarpCore) (k n : Nat) : Bool :=
  (wordKeys k n).all (fun x => w.reads.all (fun r => decide (r.key ≠ x)) && (s.histOf x).isEmpty && !offends w.party [])
/-- `EngineClean` of words with no write in the history, evaluated. -/
def engineClean (s : State) (p : Party) (okey k n : Nat) : Bool := clean s okey k n && (wordKeys k n).all (fun x => (s.histOf x).isEmpty && !offends p [])
/-- `Undoomed`, evaluated. -/
def undoomed (w : WarpCore) (m : Mask) : Bool := (lanesOf m).all (fun l => !(w.lane l).doomed)

/-- `SureReg`, evaluated. -/
def sureReg (s : State) (r : Registration) : Bool :=
  !r.shadow && clean s r.okey r.key r.size && !s.deniedReg r && (wordKeys r.key r.size).all (fun y => !offends r.party (s.histOf y))

theorem keyed_spec {s : State} {okey k n : Nat} (h : keyed s okey k n = true) : KeyInForce s okey k n := by
  rcases (Bool.or_eq_true _ _).mp h with h | h
  · exact .inl h
  · exact .inr (fun x h1 h2 => of_decide_eq_true (List.all_eq_true.1 h x (mem_keysFrom.2 ⟨h1, h2⟩)))

theorem clean_spec {s : State} {okey k n : Nat} (h : clean s okey k n = true) : CleanBytes s okey k n := by
  obtain ⟨h1, h2⟩ := (Bool.and_eq_true _ _).mp h
  refine ⟨keyed_spec h1, fun x hx hy => ?_⟩
  have := List.all_eq_true.1 h2 x (mem_keysFrom.2 ⟨hx, hy⟩)
  simpa [and_assoc] using this

theorem sureReg_spec {s : State} {r : Registration} (h : sureReg s r = true) : SureReg s r := by
  simp only [sureReg, Bool.and_eq_true, List.all_eq_true, Bool.not_eq_true'] at h
  exact ⟨h.1.1.1, clean_spec h.1.1.2, h.1.2, h.2⟩

theorem settled_spec {s : State} {w : WarpCore} {k n : Nat} (h : settled s w k n = true) : SettledBytes s w k n := by
  intro x hx
  have := List.all_eq_true.1 h x hx
  simp only [Bool.and_eq_true, List.all_eq_true, decide_eq_true_eq, List.isEmpty_iff, Bool.not_eq_true'] at this
  obtain ⟨⟨h1, h2⟩, h3⟩ := this
  exact ⟨h1, by rw [h2]; exact h3, by rw [h2]; trivial⟩

theorem engineClean_spec {s : State} {p : Party} {since : Since} {okey k n : Nat} (h : engineClean s p okey k n = true) : EngineClean s p since okey k n := by
  obtain ⟨h1, h2⟩ := (Bool.and_eq_true _ _).mp h
  refine ⟨clean_spec h1, fun x hx => ?_⟩
  have := List.all_eq_true.1 h2 x hx
  simp only [Bool.and_eq_true, List.isEmpty_iff, Bool.not_eq_true'] at this
  refine ⟨by rw [this.1]; exact this.2, fun y hy => ?_⟩
  simp only [State.engineChoices, this.1, List.find?_nil, State.candidates, List.filter_nil, List.map_nil, floorOf, List.foldl_nil, List.nil_append, State.initialOf, List.getLast?_nil, ↓reduceIte, List.mem_singleton] at hy
  rw [hy]

theorem undoomed_spec {w : WarpCore} {m : Mask} (h : undoomed w m = true) : Undoomed w m := by
  intro l hl hm
  simpa using List.all_eq_true.1 h l (by simp [lanesOf, hl, hm])

/-! ### Witnesses: integer, float, lanes, control -/

theorem witness_integer : ∀ i ∈ ([.add (rr 3 1 2), .sub (rr 3 1 2), .addi (ii 3 1 0x7FF), .mul (rr 3 1 2), .mulh (rr 3 1 2), .mulhU (rr 3 1 2), .mad (rr 3 1 2),
    .div (rr 3 1 2), .divU (rr 3 1 2), .mod (rr 3 1 2), .modU (rr 3 1 2), .min (rr 3 1 2), .minU (rr 3 1 2), .max (rr 3 1 2), .maxU (rr 3 1 2), .abs (rr 3 1 0),
    .neg (rr 3 1 0), .and (rr 3 1 2), .or (rr 3 1 2), .xor (rr 3 1 2), .not (rr 3 1 0), .andi (ii 3 1 5), .ori (ii 3 1 5), .xori (ii 3 1 5), .shl (rr 3 1 2),
    .shr (rr 3 1 2), .sra (rr 3 1 2), .shli (ii 3 1 31), .lui (ii 3 0 0x7FF), .bfx (rr 3 1 2), .bfi (rr 3 1 2), .popc (rr 3 1 0), .clz (rr 3 1 0), .brev (rr 3 1 0),
    .lea (rp 4 2 1 15), .cmpset (rp 120 1 2 9)] : List Instr), Issuing (on id id) c0 w0 i :=
  fun i hi => ⟨rfl, rfl, by revert i; decide +kernel⟩

theorem witness_float : ∀ i ∈ ([.fadd (rp 3 1 2 4), .fsub (rr 3 1 2), .fmul (rr 3 1 2), .ffma (rr 3 1 2), .dadd (rr 4 2 6), .dmul (rr 4 2 6), .dfma (rr 4 2 6),
    .fmin (rr 3 1 2), .fmax (rr 3 1 2), .fsel (rr 3 1 2), .fcmp (rp 3 2 4 (7 + 4 * 16)), .frnd (rr 3 1 0), .fclass (rr 3 1 0), .frcp (rr 3 1 0), .frsq (rr 3 1 0),
    .fsqrt (rr 3 1 0), .fex2 (rr 3 1 0), .flg2 (rr 3 1 0), .fsin (rr 3 1 0), .fcos (rr 3 1 0), .amax (rp 3 1 0 3), .pack (rp 3 1 2 2), .unpack (rp 3 1 2 6),
    .cvt (rp 4 1 0 (4 * 1024 + 16)), .cvtn (rp 4 1 2 (0x0C * 1024)), .scaleq (rp 4 1 0 (0x2F * 1024))] : List Instr), Issuing (on id id) c0 w0 i :=
  fun i hi => ⟨rfl, rfl, by revert i; decide +kernel⟩

/-- The sub and format codes of the statements' clauses, at the ends of their ranges. -/
theorem witness_codes : sub (rp 120 1 2 9).px < 10 ∧ sub (rp 3 2 4 (7 + 4 * 16)).px < 8 ∧ (elemFmt (fmtB (rp 4 1 0 (4 * 1024 + 16)).px)).isSome = true ∧
    (elemFmt (fmtB (rp 4 1 2 (0x0C * 1024)).px)).isSome = true ∧ (elemFmt (fmtB (rp 4 1 0 (0x2F * 1024)).px)).isSome = true ∧ sub (rp 3 1 0 3).px < 4 ∧
    sub (rp 3 1 2 2).px < 3 ∧ sub (rp 3 1 2 6).px < 7 ∧ sub (rp 3 1 2 6).px ≠ 3 ∧ (f32Val 0x7F800001).isNan = true ∧ (f32.decode 0x3FC00000).special = false := by decide +kernel

theorem witness_lanes : ∀ i ∈ ([.shfl (rp 3 1 2 15), .vote (rp 3 1 0 0), .vote (rp 3 1 0 1), .vote (rp 3 1 0 2), .vote (rp 3 1 0 3), .redw (rp 3 1 0 10),
    .scanw (rp 3 1 0 10), .matchLanes (rp 3 2 0 1), .kset (kk 11 0 0 3), .kmov (kk 0 11 0 3), .kpop (kk 0 11 0 3), .join (kk 11 0 0 0), .leave (kk 11 0 0 0),
    .klogAnd (kk 1 2 11 0), .klogOr (kk 1 2 11 0), .klogXor (kk 1 2 11 0), .klogAndn (kk 1 2 11 0), .kwait (kk 11 0 0 0), .prio (ii 0 0 15),
    .bra { sw := false, prio := 15, off := 0x100000, px := none }, .brc { sw := false, prio := 0, cond := 3, off := 0x1FFF, px := none }, .brc { sw := false, prio := 0, cond := 127, off := 0x1FFF, px := none },
    .nop (rr 0 0 0), .yield (rr 0 0 0)] : List Instr), Issuing (on id id) c0 w0 i :=
  fun i hi => ⟨rfl, rfl, by revert i; decide +kernel⟩

theorem witness_kwait_release : let W : WarpCore := { w0 with k := Map.set 0 w0.k 11 3, frontier := [{ prio := 1, pc := 0x2000, lanes := 2, state := .kwait 11 }, { prio := 0, pc := 0x1000, lanes := 0xFFFFFFFD, state := .ready }] }
    Issuing (on (fun _ => W) id) c0 W (.kwait (kk 11 0 0 0)) ∧ (11 : Nat) < 12 ∧ c0.lanes &&& W.mask 11 ≠ 0 ∧ W.handler = none ∧ hasLane (W.mask 11 &&& ~~~c0.lanes) 1 = true ∧
    ∀ l < 32, hasLane (W.mask 11) l = true → hasLane c0.lanes l = true ∨ ∃ e ∈ W.frontier, hasLane e.lanes l = true ∧ e.state = .kwait 11 ∧ ∀ x ∈ W.frontier, hasLane x.lanes l = true → x = e :=
  ⟨⟨rfl, rfl, by decide +kernel⟩, by decide +kernel⟩

theorem witness_jmpi : let W := pair 2 0x1FFFFFFFFFFFFFC w0
    Issuing (on (fun _ => W) id) c0 W (.jmpi (rr 0 2 15)) ∧ ∀ l < 32, hasLane c0.lanes l = true → ((rr 0 2 15).pairA (on (fun _ => W) id) W.drainRegs l).toNat % 4 = 0 :=
  ⟨⟨rfl, rfl, by decide +kernel⟩, by decide +kernel⟩

theorem witness_wbase : Issuing (on id id) c0 w0 (.wbase (rr 0 0 15)) ∧ 32 * ((rr 0 0 15).b.toNat % 16) < w0.alloc := ⟨⟨rfl, rfl, by decide +kernel⟩, by decide +kernel⟩

/-! ### Witnesses: memory and its ordering -/

/-- The launch has one bank of scratchpad on core 0. -/
def spadOn (s : State) : State := ({ s with launches := s.launches.insert 1 { fetchLaunch with spad := 65536 } } : State).takeBanks 0 1
/-- v4:v5 hold 0x2000, v6 holds 7. -/
def wA : WarpCore := set 0 6 7 (pair 4 0x2000 w0)
/-- As `wA`, in a machine with scratchpad. -/
def sA : State := on (fun _ => wA) spadOn

theorem witness_loads : ∀ i ∈ ([.ld (mm 6 4 4 0 4), .ldt (mm 6 4 4 0 4), .lds (mm 6 4 4 0 4), .atomAdd (rr 8 4 6), .atomMinS (rr 8 4 6), .atomMaxS (rr 8 4 6), .atomMinU (rr 8 4 6),
    .atomMaxU (rr 8 4 6), .atomAnd (rr 8 4 6), .atomOr (rr 8 4 6), .atomXor (rr 8 4 6), .atomExch (rr 8 4 6), .atomCas (rr 8 4 6), .atomAddF32 (rr 8 4 6), .atomsAdd (rr 8 4 6),
    .atomsMinS (rr 8 4 6), .atomsMaxS (rr 8 4 6), .atomsMinU (rr 8 4 6), .atomsMaxU (rr 8 4 6), .atomsAnd (rr 8 4 6), .atomsOr (rr 8 4 6), .atomsXor (rr 8 4 6),
    .atomsExch (rr 8 4 6), .atomsCas (rr 8 4 6), .atomsAddF32 (rr 8 4 6), .ldc (rr 8 4 6), .st (mm 6 4 4 3 4), .sts (mm 6 4 4 0 4), .red 10 (rr 120 4 6),
    .reds 10 (rr 120 4 6), .pref (rr 0 4 0), .chint (rr 0 4 6)] : List Instr), Issuing sA c0 wA i :=
  fun i hi => ⟨by decide +kernel, by decide +kernel, by revert i; decide +kernel⟩

theorem witness_lanes_without_fault :
    (sA.loadLanes (lanesOf c0.lanes) (fun s l => s.ldLane c0 wA (mm 6 4 4 0 4) l)).2.1 = [] ∧
    (sA.loadLanes (lanesOf c0.lanes) (fun s l => s.ldtFlagged c0 wA (mm 6 4 4 0 4) l)).2.1 = [] ∧
    sA.anyBusy wA ((lanesOf c0.lanes).map (fun l => (mm 6 4 4 0 4).ea sA wA l)) = false ∧
    (sA.loadLanes (lanesOf c0.lanes) (fun s l => s.ldsLane c0 wA (mm 6 4 4 0 4) l)).2.1 = [] ∧
    (∀ op ∈ List.range 11, (sA.loadLanes (lanesOf c0.lanes) (fun s l => s.atomLane c0 wA op (rr 8 4 6) l)).2.1 = []) ∧
    sA.anyBusy wA ((lanesOf c0.lanes).map (fun l => ((rr 8 4 6).pairA sA wA l).toNat)) = false ∧
    (∀ op ∈ List.range 11, (sA.loadLanes (lanesOf c0.lanes) (fun s l => s.atomsLane c0 wA op (rr 8 4 6) l)).2.1 = []) ∧
    (sA.eachLane (lanesOf c0.lanes) (fun s l => s.stLane c0 wA (mm 6 4 4 3 4) l)).2 = [] ∧
    (sA.eachLane (lanesOf c0.lanes) (fun s l => s.stsLane c0 wA (mm 6 4 4 0 4) l)).2 = [] ∧
    (sA.eachLane (lanesOf c0.lanes) (fun s l => s.redLane c0 wA 10 (rr 120 4 6) l)).2 = [] ∧
    (sA.eachLane (lanesOf c0.lanes) (fun s l => s.redsLane c0 wA 10 (rr 120 4 6) l)).2 = [] := by decide +kernel

theorem witness_ldc : ∃ s1 y, sA.waveAccess wA .load 0x2000 (sizeBytes 4) = (s1, .ok y) ∧ y.2 = 0x2000 := by
  obtain ⟨s1, y, h, hq⟩ := okWith_spec (x := sA.waveAccess wA .load 0x2000 (sizeBytes 4)) (q := fun _ y => decide (y.2 = 0x2000)) (by decide +kernel)
  exact ⟨s1, y, h, by simpa using hq⟩

theorem witness_plain_load : sA.warp? 0 = some wA ∧ NoReds wA ∧ ∃ s1 y, sA.waveAccess wA .load ((mm 6 4 4 0 4).ea sA wA 0) 4 = (s1, .ok y) ∧ y.1.shadow = false ∧
    s1.readLeaf wA y.1 ((mm 6 4 4 0 4).ea sA wA 0) = y.1 ∧ s1.regionAllows (s1.warpWorld wA) y.2 = true ∧ CleanBytes s1 y.1.okey y.2 4 ∧ SettledBytes sA wA y.2 4 := by
  refine ⟨by decide +kernel, by unfold NoReds; decide +kernel, ?_⟩
  obtain ⟨s1, y, h, hq⟩ := okWith_spec (x := sA.waveAccess wA .load ((mm 6 4 4 0 4).ea sA wA 0) 4)
    (q := fun s1 y => !y.1.shadow && decide (s1.readLeaf wA y.1 ((mm 6 4 4 0 4).ea sA wA 0) = y.1) && s1.regionAllows (s1.warpWorld wA) y.2 && clean s1 y.1.okey y.2 4 && settled sA wA y.2 4)
    (by decide +kernel)
  simp only [Bool.and_eq_true, Bool.not_eq_true', decide_eq_true_eq] at hq
  exact ⟨s1, y, h, hq.1.1.1.1, hq.1.1.1.2, hq.1.1.2, clean_spec hq.1.2, settled_spec hq.2⟩

/-- The key of byte 0x2000 of the scratchpad of `sA`. -/
def keyA : Nat := spadKey 0 0 0x2000

theorem witness_spad_access : (match sA.spadAccess wA 0x2000 4 with | .ok k => decide (k = keyA) | .error _ => false) = true ∧ clean sA 0 keyA 4 = true ∧ settled sA wA keyA 4 = true ∧
    clean sA 0 keyA 8 = true := by decide +kernel

theorem witness_buffered_store : (∀ k < 8, apertureChannel (mm 6 4 4 0 4) ((mm 6 4 4 0 4).ea sA wA 0) ≠ some k) ∧
    okWith (sA.waveAccess wA .store ((mm 6 4 4 0 4).ea sA wA 0) 4) (fun _ y => decide (y.2 = 0x2010)) = true := by decide +kernel

/-- A buffered store of four bytes. -/
def storeA : Pending := { mark := false, red := none, scope := .dev, bank := false, okey := 0, key := 0x2010, va := 0x2010, size := 4, data := 0x11223344, pc := 0, insn := 0, lane := 0, queue := none }
/-- A FENCEO mark. -/
def markA : Pending := { storeA with mark := true }
/-- The warp with a store and a mark buffered. -/
def wB : WarpCore := { wA with stores := [storeA, markA] }
/-- Its machine. -/
def sB : State := on (fun _ => wB) spadOn

theorem witness_store_lands : sB.warp? 0 = some wB ∧ wB.stores = [storeA, markA] ∧ storeA.mark = false ∧ storeA.red = none ∧ storeA.queue = none ∧ 0 < storeA.size ∧
    (storeA.bank = true ∨ sB.regionAllows (sB.warpWorld wB) storeA.key = true) ∧ KeyInForce sB storeA.okey storeA.key storeA.size ∧ NoReds wB ∧
    (∀ p ∈ wB.stores, p.mark = true ∨ (0 < p.size ∧ (p.bank = true ∨ sB.regionAllows (sB.warpWorld wB) p.key = true) ∧ KeyInForce sB p.okey p.key p.size)) := by
  have hk : KeyInForce sB storeA.okey storeA.key storeA.size := keyed_spec (by decide +kernel)
  refine ⟨by decide +kernel, rfl, rfl, rfl, rfl, by decide, by decide +kernel, hk, by unfold NoReds; decide +kernel, fun p hp => ?_⟩
  rcases List.mem_cons.1 hp with rfl | hp
  · exact .inr ⟨by decide, by decide +kernel, hk⟩
  · rcases List.mem_cons.1 hp with rfl | hp
    · exact .inl rfl
    · exact absurd hp (List.not_mem_nil)

theorem witness_atomic : wA.stores = [] ∧ (10 : Nat) ≤ 10 ∧ (7 : Nat) < 2 ^ (8 * 4) ∧ okWith (sA.waveAccess wA .atomic 0x2000 4) (fun s1 y => !y.1.shadow && decide (s1.readLeaf wA y.1 0x2000 = y.1) && s1.regionAllows (s1.warpWorld wA) y.2 &&
      decide (y.2 % 4 = 0) && clean s1 y.1.okey y.2 4 && (wordKeys y.2 4).all (fun k => !offends wA.party (sA.histOf k))) = true ∧
    okWith (sA.waveAccess wA .atomic 0x2008 8) (fun s1 y => !y.1.shadow && decide (s1.readLeaf wA y.1 0x2008 = y.1) && s1.regionAllows (s1.warpWorld wA) y.2 && decide (y.2 % 4 = 0) && clean s1 y.1.okey y.2 8 &&
      (wordKeys y.2 8).all (fun k => !offends wA.party (sA.histOf k))) = true ∧ (wordKeys keyA 4).all (fun k => !offends wA.party (sA.histOf k)) = true := by decide +kernel

theorem witness_fences : ∀ i ∈ ([.phase (rp 0 0 0 3), .fenceo (rr 0 0 0), .fencer (rp 0 4 0 1)] : List Instr), Issuing sA c0 wA i :=
  fun i hi => ⟨by decide +kernel, by decide +kernel, by revert i; decide +kernel⟩

theorem witness_fence_targets : Undoomed wA c0.lanes ∧ wA.owed = false ∧ ({ wA with owed := true } : WarpCore).owed = true ∧ (sA.fenceTargets wA 1 1).isSome = true ∧
    (sA.fenceTargets wA 0 wA.token).isSome = true := ⟨undoomed_spec (by decide +kernel), by decide +kernel⟩

theorem witness_fenceo_owed : let W : WarpCore := { wA with owed := true }
    Issuing (on (fun _ => W) id) c0 W (.fenceo (rr 0 0 0)) := ⟨rfl, rfl, by decide +kernel⟩

theorem witness_register_write : let W : WarpCore := { wA with out := [{ lane := 0, loc := .thread 6, old := 3, due := 0 }], yieldTo := some 0 }
    (on (fun _ => W) id).warp? 0 = some W ∧ ∃ o ∈ W.out, o.lane = 0 ∧ o.loc.code = Loc.code (.thread 6) ∧ o.due ≤ (on (fun _ => W) id).clk := ⟨rfl, _, List.mem_singleton.2 rfl, rfl, rfl, by decide +kernel⟩

/-- v4:v5 hold 0; bank 0 of core 0, the launch's, in FIFO mode with these entries. -/
def fifoOn (es : List Word) (s : State) : State := (spadOn s).modBank 0 0 (fun k => { k with mode := .fifo, fifo := es })
/-- The warp with its pair at offset 0. -/
def wF : WarpCore := set 0 6 7 (pair 4 0 w0)

theorem witness_fifo : Undoomed wF c0.lanes ∧ Issuing (on (fun _ => wF) (fifoOn [5])) c0 wF (.fpush (rr 3 4 6)) ∧ Issuing (on (fun _ => wF) (fifoOn [5])) c0 wF (.fpop (rr 8 4 0)) ∧
    (match (on (fun _ => wF) (fifoOn [5])).fifoBank wF ((rr 3 4 6).pairA (on (fun _ => wF) (fifoOn [5])) wF 0).toNat with | .ok b => decide (b = 0) | .error _ => false) = true ∧
    ((on (fun _ => wF) (fifoOn [5])).bank 0 0).cfg = [] ∧ ((on (fun _ => wF) (fifoOn [5])).bank 0 0).waiters = [] ∧ ((on (fun _ => wF) (fifoOn [5])).bank 0 0).fifo.length + laneCount c0.lanes ≤ 16384 ∧
    laneCount c0.lanes ≤ ((on (fun _ => wF) (fifoOn [5])).bank 0 0).fifo.length ∧ c0.lanes ≠ 0 ∧ 0 < ((on (fun _ => wF) (fifoOn [5])).core 0).banks.length :=
  ⟨undoomed_spec (by decide +kernel), ⟨by decide +kernel, by decide +kernel, by decide +kernel⟩, ⟨by decide +kernel, by decide +kernel, by decide +kernel⟩, by decide +kernel⟩

theorem witness_fifo_full : ((on (fun _ => wF) (fifoOn (List.replicate 16384 0))).bank 0 0).fifo.length = 16384 := by
  have : ((on (fun _ => wF) (fifoOn (List.replicate 16384 0))).bank 0 0).fifo = List.replicate 16384 0 := rfl
  rw [this, List.length_replicate]

theorem witness_bankcfg : let W := set 0 6 0 wF
    Issuing (on (fun _ => W) spadOn) c0 W (.bankcfg (rp 0 6 0 1)) ∧ Issuing (on (fun _ => W) spadOn) c0 W (.bankcfg (rp 0 6 0 2)) ∧ Undoomed W c0.lanes ∧
    (on (fun _ => W) spadOn).bankAt 0 1 ((rp 0 6 0 1).vA (on (fun _ => W) spadOn) W 0).toNat = some 0 ∧ ((on (fun _ => W) spadOn).bank 0 0).cfg = [] ∧
    ((on (fun _ => W) spadOn).bank 0 0).mode = .spad ∧ ((on (fun _ => W) spadOn).bank 0 0).mode ≠ .fifo :=
  ⟨⟨by decide +kernel, by decide +kernel, by decide +kernel⟩, ⟨by decide +kernel, by decide +kernel, by decide +kernel⟩, undoomed_spec (by decide +kernel), by decide +kernel⟩

theorem witness_bankcfg_complete : let s := (on id spadOn).modBank 0 11 (fun k => { k with cfg := [(5, 0, .fifo)] })
    11 < (s.core 0).banks.length ∧ (s.bank 0 11).cfg = [(5, 0, .fifo)] ∧ s.bankIdle 0 11 = true ∧ (s.bank 0 11).mode ≠ .fifo ∧
    (State.bankIdle (s.modCore 0 (fun k => { k with acps := [{ token := 0, lane := 0, tag := 0, key := spadKey 0 11 65535, src := [], since := 0, instr := 0 }] })) 0 11) = false := by decide +kernel

/-- Two pages of 256 KiB at 0x80000000 and 0x80040000. -/
def pagesOn (s : State) : State :=
  { s with mem := Memory.write (Memory.write (Memory.write s.mem (fetchTable2 + 8) (bytesOfNat 8 0x3FE0060001)) 0x3FE0060000 (bytesOfNat 8 0x1000001F)) 0x3FE0060008 (bytesOfNat 8 0x1004001F) }
/-- The pair is in set 255. -/
def pairOn (s : State) : State := { pagesOn s with ctxs := s.ctxs.modify 1 (fun x => { x with shadows := Table.insert x.shadows 255 [(0x80000000, 0x80040000)] }) }
/-- v6 the set, v8:v9 and v10:v11 the two pages. -/
def wP : WarpCore := set 0 6 255 (pair 8 0x80000000 (pair 10 0x80040000 w0))

/-- The bytes of a leaf's page-table entry are clean. -/
def cleanEntry (s : State) (l : Leaf) : Bool := clean s (s.slotOf (s.tagAt l.at_)) l.at_ 8

theorem witness_shadowset : Issuing (on (fun _ => wP) pagesOn) c0 wP (.shadowset (rr 6 8 10)) ∧ ((on (fun _ => wP) pagesOn).ctxs.find? 1).isSome = true ∧
    (on (fun _ => wP) pagesOn).asidOf wP = 1 ∧ 0x80000000 % 2 ^ 18 = 0 ∧ 0x80040000 % 2 ^ 18 = 0 ∧
    (match (on (fun _ => wP) pagesOn).walk 1 0x80000000, (on (fun _ => wP) pagesOn).walk 1 0x80040000, (on (fun _ => wP) pagesOn).ctxs.find? 1 with
      | some lv, some lh, some x => decide (shadowFault x 255 0x80000000 0x80040000 lv lh = none) && cleanEntry (on (fun _ => wP) pagesOn) lh
      | _, _, _ => false) = true :=
  ⟨⟨by decide +kernel, by decide +kernel, by decide +kernel⟩, by decide +kernel⟩

theorem witness_shadowset_del : Issuing (on (fun _ => wP) pairOn) c0 wP (.shadowsetDel (rp 6 8 10 1)) ∧ (255 : Nat) < 256 ∧
    (match (on (fun _ => wP) pairOn).walk 1 0x80000000, (on (fun _ => wP) pairOn).walk 1 0x80040000, (on (fun _ => wP) pairOn).ctxs.find? 1 with
      | some _, some lh, some x => decide (x.setOf 0x80000000 = some 255) && cleanEntry (on (fun _ => wP) pairOn) lh &&
        decide ((x.pairs 255).filter (fun q => decide (q.1 = 0x80000000) || decide (q.2 = 0x80000000)) = [(0x80000000, 0x80040000)])
      | _, _, _ => false) = true :=
  ⟨⟨by decide +kernel, by decide +kernel, by decide +kernel⟩, by decide +kernel⟩

theorem witness_publish : let s1 := (on (fun _ => wP) pairOn).boundary 0 .core true
    Issuing (on (fun _ => wP) pairOn) c0 wP (.publish (rr 0 6 0)) ∧ Undoomed wP c0.lanes ∧
    (match s1.ctxs.find? 1, s1.walk 1 0x80000000, s1.walk 1 0x80040000 with
      | some x, some a, some b => decide (x.pairs 255 = [(0x80000000, 0x80040000)]) && decide (x.pairs 0 = []) && decide (a.at_ + 8 ≤ b.at_) && cleanEntry s1 a && cleanEntry s1 b
      | _, _, _ => false) = true :=
  ⟨⟨by decide +kernel, by decide +kernel, by decide +kernel⟩, undoomed_spec (by decide +kernel), by decide +kernel⟩

/-! ### One instruction each: results from the manual's examples, or worked out by hand from its rules -/

/-- The value that lane 0 of warp 0 gets in a lane register, from inputs in v1, v2, v3. -/
def gives (i : Instr) (a b d : Nat) (r v : Nat) : Bool :=
  next i (on (fun w => set 0 1 a (set 0 2 b (set 0 3 d w))) spadOn) (fun t => match t.warp? 0 with
    | some w => decide (w.held? 0 (w.resolve r) = BitVec.ofNat 32 v)
    | none => false)
/-- The flags that it leaves (Table 2-8). -/
def flagged (i : Instr) (a b d : Nat) (f : Nat) : Bool :=
  next i (on (fun w => set 0 1 a (set 0 2 b (set 0 3 d w))) spadOn) (fun t => match t.warp? 0 with
    | some w => decide (w.flags = BitVec.ofNat 8 f)
    | none => false)

/-- R107: sums wrap. -/
theorem test_add_wraps : gives (.add (rr 3 1 2)) 0xFFFFFFFF 2 0 3 1 = true := by decide +kernel
/-- R107: the first operand less the second. -/
theorem test_sub_order : gives (.sub (rr 3 1 2)) 5 7 0 3 0xFFFFFFFE = true := by decide +kernel
/-- R107: the immediate is signed. -/
theorem test_addi_negative : gives (.addi (ii 3 1 0x7FD)) 2 0 0 3 0xFFFFFFFF = true := by decide +kernel
/-- R108, its example: the high half of a product of all ones, unsigned and signed. -/
theorem test_mulh_unsigned : gives (.mulhU (rr 3 1 2)) 0xFFFFFFFF 0xFFFFFFFF 0 3 0xFFFFFFFE = true := by decide +kernel
theorem test_mulh_signed : gives (.mulh (rr 3 1 2)) 0xFFFFFFFF 0xFFFFFFFF 9 3 0 = true := by decide +kernel
/-- R109: a quotient is truncated, and a remainder has the dividend's sign. -/
theorem test_div_truncates : gives (.div (rr 3 1 2)) 0xFFFFFFF9 2 0 3 0xFFFFFFFD = true := by decide +kernel
theorem test_mod_sign : gives (.mod (rr 3 1 2)) 0xFFFFFFF9 2 0 3 0xFFFFFFFF = true := by decide +kernel
/-- R110: signed and unsigned order differ. -/
theorem test_min_signed : gives (.min (rr 3 1 2)) 0xFFFFFFFF 1 0 3 0xFFFFFFFF = true := by decide +kernel
theorem test_minu_unsigned : gives (.minU (rr 3 1 2)) 0xFFFFFFFF 1 0 3 1 = true := by decide +kernel
/-- R113: an arithmetic shift brings in the sign. -/
theorem test_sra_sign : gives (.sra (rr 3 1 2)) 0x80000000 4 0 3 0xF8000000 = true := by decide +kernel
/-- R115: LUI's example leaves FF000000. -/
theorem test_lui : gives (.lui (ii 1 0 0x7F8)) 0 0 0 1 0xFF000000 = true := by decide +kernel
/-- R116, its example: position 4, width 8, signed. -/
theorem test_bfx_signed : gives (.bfx (rr 3 1 2)) 0xAB30 0x8804 0 3 0xFFFFFFB3 = true := by decide +kernel
/-- R117: CLZ of zero is 32, and BREV turns bit 0 into bit 31. -/
theorem test_clz_zero : gives (.clz (rr 3 1 0)) 0 0 0 3 32 = true := by decide +kernel
theorem test_brev : gives (.brev (rr 3 1 0)) 1 0 0 3 0x80000000 = true := by decide +kernel
/-- R119: 1.5 + 2.25 is exact; 1 + 2^-25 is not, and leaves INEXACT, bit 3 (Table 2-8). -/
theorem test_fadd : gives (.fadd (rr 3 1 2)) 0x3FC00000 0x40100000 0 3 0x40700000 = true := by decide +kernel
theorem test_fadd_inexact : flagged (.fadd (rr 3 1 2)) 0x3F800000 0x33000000 0 8 = true := by decide +kernel
/-- R119: the product joins the sum unrounded. -/
theorem test_ffma_fused : gives (.ffma (rr 3 1 2)) 0x3F800001 0x3F800001 0xBF800002 3 0x28800000 = true := by decide +kernel
/-- R124, its example: -2.5 rounds down to -3. -/
theorem test_frnd_down : gives (.frnd (rp 3 1 0 3)) 0xC0200000 0 0 3 0xC0400000 = true := by decide +kernel
/-- R125, its example: a negative subnormal. -/
theorem test_fclass : gives (.fclass (rr 3 1 0)) 0x80000001 0 0 3 4 = true := by decide +kernel
/-- R126: the square root of 9 is 3, with no flag. -/
theorem test_fsqrt : gives (.fsqrt (rr 3 1 0)) 0x41100000 0 0 3 0x40400000 = true := by decide +kernel
theorem test_fsqrt_exact : flagged (.fsqrt (rr 3 1 0)) 0x41100000 0 0 0 = true := by decide +kernel
/-- R133, its example: byte 2 of v3, and no other. -/
theorem test_pack : gives (.pack (rr 3 1 2)) 0xD2 2 0x11223344 3 0x11D23344 = true := by decide +kernel
theorem test_unpack : gives (.unpack (rp 7 1 2 4)) 0x11D23344 2 0 7 0xFFFFFFD2 = true := by decide +kernel
/-- R129, its examples: -75 to b8p4, and b8p4 7C to 192. -/
theorem test_cvt_narrow : gives (.cvt (rp 3 1 0 0x5010)) 0xC2960000 0 0 3 0xF1 = true := by decide +kernel
theorem test_cvt_widen : gives (.cvt (rp 3 1 0 0x0540)) 0x7C 0 0 3 0x43400000 = true := by decide +kernel
/-- R132: the code of an amax of zero is 127. -/
theorem test_scaleq_zero : gives (.scaleq (rp 3 2 0 0x5400)) 0 0 0 3 127 = true := by decide +kernel
/-- R118: the index is shifted by two and added to a 64-bit address, whose carry goes into the high word. -/
theorem test_lea_carry : next (.lea (rp 4 4 9 2)) (on (fun w => pair 4 0xFFFFFFFC (set 0 9 3 w)) id) (fun t => decide (reg t 0 4 = 8) && decide (reg t 0 5 = 1)) = true := by decide +kernel
/-- R134: an unsigned comparison. -/
theorem test_cmpset_ltu : gives (.cmpset (rp 3 1 2 6)) 1 0xFFFFFFFF 0 3 1 = true := by decide +kernel

/-- Lanes 0 to 3 issue together. -/
def c4 : Issue := { c0 with lanes := 15 }
/-- v4 holds lane + 1 in lanes 0 to 3. -/
def s4 : State := { on (fun w => set 0 4 1 (set 1 4 2 (set 2 4 3 (set 3 4 4 w)))) id with cur := some c4 }

/-- R141, Table 7-7: the sum of four lanes is 10, in each of them; the running sums are 1, 3, 6, 10. -/
theorem test_redw : next (.redw (rr 5 4 0)) s4 (fun t => (List.range 4).all (fun l => decide (reg t l 5 = 10)) && decide (reg t 4 5 = 0)) = true := by decide +kernel
theorem test_scanw : next (.scanw (rr 5 4 0)) s4 (fun t => decide ((List.range 4).map (fun l => reg t l 5) = [1, 3, 6, 10])) = true := by decide +kernel
/-- R140, R142: a ballot has the bits of the active lanes, and each lane matches itself alone. -/
theorem test_ballot : next (.vote (rp 5 4 0 2)) s4 (fun t => decide (reg t 3 5 = 15)) = true := by decide +kernel
theorem test_match : next (.matchLanes (rr 5 4 0)) s4 (fun t => decide ((List.range 4).map (fun l => reg t l 5) = [1, 2, 4, 8])) = true := by decide +kernel

/-- Where lane `l` of warp 0 stands. -/
def where_ (t : State) (l : Nat) : Option (Nat × Nat) := (t.warp? 0).bind (fun w => (w.entryOf l).map (fun e => (e.prio, e.pc)))

/-- R150, its example: four words back, with priority 3. -/
theorem test_bra : next (.bra { sw := false, prio := 3, off := 0x1FFFFC, px := none }) s4 (fun t => decide (where_ t 0 = some (3, 0xFF0)) && decide (where_ t 3 = some (3, 0xFF0))) = true := by decide +kernel
/-- R149: the lanes go on with the new priority. -/
theorem test_prio : next (.prio (ii 0 0 5)) s4 (fun t => decide (where_ t 2 = some (5, 0x1004)) && decide (where_ t 4 = some (0, 0x1000))) = true := by decide +kernel

/-- R2: the byte at the lowest address is the least significant. -/
theorem test_load_order : next (.ld (mm 6 4 4 0 0)) (on (pair 4 0x2000) (fun s => { s with mem := s.mem.write 0x2000 [0x11, 0x22, 0x33, 0x44] })) (fun t => match t.warp? 0 with
    | some w => decide (w.held? 0 (w.resolve 6) = 0x44332211)
    | none => false) = true := by decide +kernel
/-- R192: an add gives the old value, and leaves the sum. -/
theorem test_atom_add : next (.atomAdd (rr 8 4 6)) (on (fun w => set 0 6 7 (pair 4 0x2000 w)) (fun s => { s with mem := s.mem.write 0x2000 [5, 0, 0, 0] })) (fun t => match t.warp? 0 with
    | some w => decide (w.held? 0 (w.resolve 8) = 5) && decide (t.mem.bytes 0x2000 4 = [12, 0, 0, 0])
    | none => false) = true := by decide +kernel
/-! ### Witnesses: waits, barriers, calls -/

/-- v4:v5 an address, v6:v7 operand 0 and timeout 0. -/
def wW : WarpCore := set 0 6 0 (set 0 7 0 (pair 4 0x2000 w0))
/-- Barrier groups 0 to 7 are the context's. -/
def groupsOn (s : State) : State := { s with ctxs := s.ctxs.modify 1 (fun x => { x with rcd := { x.rcd with bgbase := 0, bgcount := 8 } }) }

theorem witness_waits : ∀ i ∈ ([.waitu 7 (rr 3 4 6), .waitl 7 (rr 3 4 6), .waitl 7 (rp 3 4 6 2), .bwait (rr 3 8 6), .barr (rr 3 8 0), .bsetm (rr 0 8 12)] : List Instr),
    Issuing (on (fun _ => wW) (fun s => groupsOn (spadOn s))) c0 wW i := fun i hi => ⟨by decide +kernel, by decide +kernel, by revert i; decide +kernel⟩

theorem witness_wait_asks : let s := on (fun _ => wW) (fun s => groupsOn (spadOn s))
    (s.askLanes (lanesOf c0.lanes) (fun s l => s.askGlobal c0 wW (rr 3 4 6) false l)).2.1 = [] ∧ (s.askLanes (lanesOf c0.lanes) (fun s l => s.askGlobal c0 wW (rr 3 4 6) false l)).2.2 ≠ [] ∧
    sub (rr 3 4 6).px / 2 % 2 = 0 ∧ sub (rp 3 4 6 2).px / 2 % 2 = 1 ∧ s.anyBusy wW ((lanesOf c0.lanes).map (fun l => ((rp 3 4 6 2).pairA s wW l).toNat)) = false ∧ wW.stores = [] ∧
    (match s.spadAccess wW ((rp 3 4 6 2).pairA s wW 0).toNat 4 with | .ok k => decide (k = spadKey 0 0 0x2000) | .error _ => false) = true ∧
    Table.sortedFrom 0 s.regs = true ∧ undoomed wW c0.lanes = true ∧ s.monitorFree wW.core = true ∧ clean s 0 (spadKey 0 0 0x2000) 4 = true ∧
    (s.askLanes (lanesOf c0.lanes) (fun s l => s.askGlobal c0 wW (rr 3 4 6) true l)).2.1 = [] ∧ s.groupOf (s.asidOf wW) 0 = true ∧ s.groupOf (s.asidOf wW) 7 = true ∧ s.groupOf (s.asidOf wW) 8 = false := by decide +kernel

/-- A registration of warp 0. -/
def regA : Registration :=
  { owner := .warp 0 w0.token, place := .inFlight, asid := 1, va := 0x2000, key := 0x2000, okey := 0, w64 := false, cmp := 1, operand := 0, deadline := some 9, zero := false, lanes := 1 }
/-- A machine with it. -/
def regOn (r : Registration) (s : State) : State := { s with regs := [(5, r)] }

theorem witness_registrations : let s (r : Registration) (n : Nat) : State := { on id (regOn r) with ns := n }
    (s regA 0).regs.find? 5 = some regA ∧ (s regA 0).admitPlace regA.key ≠ .held ∧ regA.owner = .warp 0 w0.token ∧ ((s { regA with place := .held } 0).regs.find? 5).isSome = true ∧
    ({ regA with place := .table } : Registration).place ≠ .inFlight ∧ (9 : Nat) < (s regA 10).ns ∧ (s regA 9).ns ≤ 9 ∧
    (((s regA 0).regs.map Prod.fst).Nodup) ∧ ([1] : List Byte) ≠ [] ∧ (s regA 0).twin 5 regA = none ∧ ({ regA with place := .warp } : Registration).place = .warp := by decide +kernel

/-- A registration is sure of what it reads; one that finds an entry of its warp which agrees with it; one whose slice has no room. -/
theorem witness_registration_reads : SureReg (on id (regOn regA)) regA ∧
    (let s : State := on id (fun s => { s with regs := [(3, { regA with place := .table, va := 0x9000 }), (5, regA)] })
     s.twin 5 regA = some 3 ∧ (s.regs.find? 3).isSome = true ∧ sureReg s regA = true) := ⟨sureReg_spec (by decide +kernel), by decide +kernel⟩

theorem witness_registration_full : let s : State := on id (fun s => { s with regs := (5, regA) :: ((List.range Config.pegEntries).map (fun i => (6 + i, { regA with place := .table, operand := 1 })) ++
      (List.range Config.spillEntries).map (fun i => (9000 + i, { regA with place := .spilled, operand := 1 }))) })
    s.twin 5 regA = none ∧ s.admitPlace regA.key = .held := by decide +kernel

/-- A write of 1 wakes a registration that waits for a word that is not 0; one of 0 does not. -/
theorem witness_wakes : let r : Registration := { regA with place := .table }
    let t (b : Byte) : State := (on id (regOn r)).homeWrite { wid := none, core := none } .dev none 0 0x2000 [b]
    r.place ≠ .inFlight ∧ r.place ≠ .held ∧ r.key < savedBase ∧ cmpHolds r.cmp r.w64 ((t 1).watched r) r.operand = true ∧
    cmpHolds r.cmp r.w64 ((t 0).watched r) r.operand = false ∧ (∀ wid tok x, r.owner ≠ .darner wid tok (some x)) :=
  ⟨by decide +kernel, by decide +kernel, by decide +kernel, by decide +kernel, by decide +kernel, fun _ _ _ h => by cases h⟩

/-- Group 3 with two members expected. -/
def barrierOn (arrived : Nat) (s : State) : State :=
  { groupsOn s with barriers := [(3, { x := 0, y := 0, logw := 0, logh := 0, slots := 1, expect := 2, arrived := arrived, gen := 0xFFFFFFFF, heldSet := none })] }
/-- v8 names group 3; v12 to v15 an expected count of 2, or of 0, for slot 0 of core 0. -/
def wG (e : Nat) : WarpCore := set 0 8 3 (set 0 12 0 (set 0 13 e (set 0 14 1 (set 0 15 0 w0))))

theorem witness_barriers : (∀ n < 2, Issuing (on (fun _ => wG 2) (barrierOn n)) c0 (wG 2) (.barr (rr 3 8 0)) ∧ Issuing (on (fun _ => wG 2) (barrierOn n)) c0 (wG 2) (.bsetm (rr 0 8 12)) ∧
      Issuing (on (fun _ => wG 0) (barrierOn n)) c0 (wG 0) (.bsetm (rr 0 8 12))) ∧ Undoomed (wG 2) c0.lanes ∧
    (∀ n < 2, let s := on (fun _ => wG 2) (barrierOn n)
      s.groupOf (s.asidOf (wG 2)) 3 = true ∧ (s.barrier 3).expect ≠ 0 ∧ (s.barrier 3).member 0 0 = true ∧ (s.barrier 3).arrived = n ∧
      (let q := s.rdQuad (wG 2) 0 12 posB; bits q 31 15 = 0 ∧ bits q 55 32 = 2 ∧ (s.launch 1).holdsRect (bits q 3 0) (bits q 8 4) (bits q 11 9) (bits q 14 12) = true) ∧
      bits (s.rdQuad (wG 0) 0 12 posB) 55 32 = 0) := by
  refine ⟨?_, undoomed_spec (by decide +kernel), by decide +kernel⟩
  intro n hn
  have : n = 0 ∨ n = 1 := by omega
  rcases this with rfl | rfl <;>
    exact ⟨⟨by decide +kernel, by decide +kernel, by decide +kernel⟩, ⟨by decide +kernel, by decide +kernel, by decide +kernel⟩, ⟨by decide +kernel, by decide +kernel, by decide +kernel⟩⟩

/-- Headers of a same, a widen, a gather and a keyed function at 0x3000, 0x3010, 0x3020 and 0x3030, and frames of 4 KiB from 0x100000 on. -/
def callsOn (s : State) : State :=
  { s with
    mem := (((s.mem.write 0x3000 (bytesOfNat 4 0xF0000000)).write 0x3010 (bytesOfNat 4 0xF4011100)).write 0x3020 (bytesOfNat 4 0xF8011100)).write 0x3030 (bytesOfNat 4 0xFC0C1104)
    launches := s.launches.insert 1 { fetchLaunch with arena := 0x100000, arenaSz := 0x100000 } }
/-- Lane 0 has a frame of 4 KiB; v20:v21 the entry, v10 a key, v11 an offset. -/
def wC (entry key : Nat) : WarpCore :=
  (set 0 10 key (set 0 11 0 (pair 20 entry w0))).modLane 0 (fun x => { x with fp := 0x1000, sp := 0x1000, floor := 0 })
/-- The machine of `wC`. -/
def sC (entry key : Nat) : State := on (fun _ => wC entry key) callsOn

theorem witness_callw : ∀ e ∈ [0x3004, 0x3014, 0x3024], Issuing (sC e 0) c0 (wC e 0) (.callw (rr 8 20 0)) ∧
    (let s0 := (sC e 0).modRun c0.wid WarpCore.drainRegs
     let x := s0.checkCalls c0 (wC e 0).drainRegs 8 false (fun l => ((rr 8 20 0).pairA s0 (wC e 0).drainRegs l).toNat % 2 ^ 57) true
     x.2.1 = [] ∧ x.2.2 ≠ [] ∧ (x.1.callGroups c0 (wC e 0).drainRegs 8 [] x.2.2).2 = []) := by
  intro e he
  simp only [List.mem_cons, List.not_mem_nil, or_false] at he
  rcases he with rfl | rfl | rfl <;> exact ⟨⟨by decide +kernel, by decide +kernel, by decide +kernel⟩, by decide +kernel⟩

theorem witness_callk : Issuing (sC 0x3034 4095) c0 (wC 0x3034 4095) (.callk (rr 8 20 10)) ∧ Undoomed (wC 0x3034 4095) c0.lanes ∧
    (let s0 := (sC 0x3034 4095).modRun c0.wid WarpCore.drainRegs
     let x := s0.checkCalls c0 (wC 0x3034 4095).drainRegs 8 true (fun l => ((rr 8 20 10).pairA s0 (wC 0x3034 4095).drainRegs l).toNat % 2 ^ 57) true
     x.2.1 = [] ∧ x.2.2 ≠ [] ∧ ∀ y ∈ x.2.2, ((rr 8 20 10).vB (sC 0x3034 4095) (wC 0x3034 4095).drainRegs y.1).toNat < 2 ^ y.2.2.size) :=
  ⟨⟨by decide +kernel, by decide +kernel, by decide +kernel⟩, undoomed_spec (by decide +kernel), by decide +kernel⟩

theorem witness_call_same : ((wC 0x3004 0).lane 0).floor + 16 ≤ ((wC 0x3004 0).lane 0).sp.toNat ∧ okWith (match (sC 0x3004 0).engineTranslate (wC 0x3004 0).party 1 .store 0x100FF0 with
      | (s1, .ok y) => (s1, .ok y)
      | (s1, .error _) => (s1, .error (trapOf .illegalOp 0))) (fun s1 y => keyed s1 y.1.okey y.2 16) = true ∧
    (((w0.modLane 0 (fun x => { x with sp := 15 })).lane 0).sp.toNat < ((w0.modLane 0 (fun x => { x with sp := 15 })).lane 0).floor + 16) ∧ (wC 0x3004 0).wid = c0.wid ∧ (wC 0x3004 0).stores = [] ∧ 0x100FF0 % 2 ^ 18 + 16 ≤ 2 ^ 18 := by decide +kernel

/-- The lane's record, of a kind. -/
def returnOn (k : LinkKind) (s : State) : State := { callsOn s with mem := (callsOn s).mem.write 0x100FF0 (linkRecord k 2 0x4000 0x2000 0x1800) }
/-- The lane returns in a role. -/
def wR (r : Role) : WarpCore := (wC 0x3004 0).modLane 0 (fun x => { x with role := r })
/-- The lane is host of group 4. -/
def wHost : WarpCore := (wC 0x3004 0).modLane 0 (fun x => { x with hosts := [4] })

theorem witness_retw : Issuing (on (fun _ => wR .none) (returnOn .same)) c0 (wR .none) (.retw (rr 0 0 0)) ∧ Undoomed (wR .none) c0.lanes ∧
    okWith (((on (fun _ => wR .none) (returnOn .same)).modRun c0.wid WarpCore.drainRegs).readRecord c0 0 [0, 1, 2]) (fun _ y => decide (y.2.kind = 0)) = true :=
  ⟨⟨by decide +kernel, by decide +kernel, by decide +kernel⟩, undoomed_spec (by decide +kernel), by decide +kernel⟩

/-- A caller that is lane 1 of warp 0. -/
def callerA : Caller := { token := w0.token, lane := 1, run := 8, key := 0, off := 0, at_ := c0 }
/-- A widen call, a fired group and a keyed collection, each number 4. -/
def bodiesOn (s : State) : State :=
  { s with
    widens := [(4, { token := w0.token, launch := 1, entry := 0x3014, n := 1, nargs := 1, nres := 1, redop := 0, run := 8, callers := [(1, 0x2000, 0)], waiting := [], left := 2, alloc := 512,
                     w := [], trapvec := 0, serial := false })]
    gathers := [(4, { entry := 0x3024, launch := 1, core := 0, warp := some w0.token, size := 2, nargs := 1, nres := 1, callers := [callerA], fired := true, begun := true,
                      host := some (w0.token, 0), frame := 0 })]
    keyeds := [(4, { entry := 0x3034, launch := 1, core := some 0, keys := 4096, nargs := 1, nres := 1, callers := [callerA], closed := true, waiting := [], left := [(0, 0, 1)], arrays := [(0, 0)] })] }

theorem witness_returns : let sW := on (fun _ => wR (.widen 4 1 1)) (fun s => bodiesOn (returnOn .widen s))
    let sG := on (fun _ => wHost) (fun s => bodiesOn (returnOn .gather s))
    let sK := on (fun _ => wR (.keyed 4 w0.token 1)) (fun s => bodiesOn (returnOn .keyed s))
    let x := (sW.modRun 0 WarpCore.drainRegs).returnLanes c0 false (lanesOf c0.lanes)
    let y := (sG.modRun 0 WarpCore.drainRegs).returnLanes c0 true (lanesOf c0.lanes)
    let z := (sK.modRun 0 WarpCore.drainRegs).eachLane (lanesOf c0.lanes) (fun s l => s.returnKeyed c0 l)
    x.2.1 = [] ∧ x.2.2 = [0] ∧ y.2.1 = [] ∧ y.2.2 = [] ∧ z.2 = [] := by decide +kernel

theorem witness_returns_issue : Issuing (on (fun _ => wR (.widen 4 1 1)) (fun s => bodiesOn (returnOn .widen s))) c0 (wR (.widen 4 1 1)) (.retw (rr 0 0 0)) ∧
    Issuing (on (fun _ => wHost) (fun s => bodiesOn (returnOn .gather s))) c0 wHost (.retwB (rr 0 0 0)) ∧
    Issuing (on (fun _ => wR (.keyed 4 w0.token 1)) (fun s => bodiesOn (returnOn .keyed s))) c0 (wR (.keyed 4 w0.token 1)) (.retk (rr 0 0 0)) ∧
    Undoomed (wR (.widen 4 1 1)) c0.lanes ∧ Undoomed wHost c0.lanes ∧ Undoomed (wR (.keyed 4 w0.token 1)) c0.lanes :=
  ⟨⟨by decide +kernel, by decide +kernel, by decide +kernel⟩, ⟨by decide +kernel, by decide +kernel, by decide +kernel⟩, ⟨by decide +kernel, by decide +kernel, by decide +kernel⟩,
    undoomed_spec (by decide +kernel), undoomed_spec (by decide +kernel), undoomed_spec (by decide +kernel)⟩

theorem witness_return_parts : let sG := on (fun _ => wHost) (fun s => bodiesOn (returnOn .gather s))
    let sK := on (fun _ => wR (.keyed 4 w0.token 1)) (fun s => bodiesOn (returnOn .keyed s))
    (sG.returnGather c0 wHost 0 { prio := 2, kind := 2, rpc := 0x4000, csp := 0x2000, cfp := 0x1800 } 4 true).2 = none ∧
    ((match sG.gathers.find? 4 with | some g => g.callers | none => []).map (fun (k : Caller) => (k.token, k.lane))).Nodup ∧
    (∀ q ∈ (match sG.gathers.find? 4 with | some g => g.callers | none => []), q.lane < 32) ∧ (sG.tokWarp? w0.token).isSome = true ∧
    okWith (sK.readRecord c0 0 [3]) (fun s1 y => decide ((y.1.lane 0).role = .keyed 4 w0.token 1) && (s1.keyeds.find? 4).isSome) = true ∧
    (sK.returnKeyed c0 0).2 = none := by decide +kernel

theorem witness_exit : Issuing (on id id) c0 w0 (.exit (rr 0 0 0)) ∧ (w0.k.map Prod.fst).Nodup ∧ (∀ l < 32, hasLane c0.lanes l = true → (w0.lane l).role = .none ∧ (w0.lane l).hosts = []) ∧
    w0.live &&& ~~~c0.lanes ≠ 0 ∧ ({ w0 with live := 1 } : WarpCore).live &&& ~~~c0.lanes = 0 ∧ Undoomed w0 c0.lanes ∧ w0.task = 0 ∧
    (∀ x, (on id id).warps.find? 0 = some x → x.help = []) :=
  ⟨⟨rfl, rfl, by decide +kernel⟩, by decide +kernel, by decide +kernel, by decide +kernel, by decide +kernel, undoomed_spec (by decide +kernel), rfl, fun x h => by cases h; rfl⟩

/-! ### Witnesses: tasks, futures, locks, queues -/

/-- The launch is a task launch over cores 0 and 1, with its areas and these bytes in memory. -/
def taskOn (ms : List (Nat × List Byte)) (s : State) : State :=
  { s with
    launches := s.launches.insert 1 { fetchLaunch with task := true, darner := 0x200000, cancel := 0x300000, warps := 4, logw := 1 }
    mem := ms.foldl (fun m e => Memory.write m e.1 e.2) s.mem }
/-- The warp runs the record at 0x5000 with lane 0 alone; v4:v5 an address, v6:v7 another. -/
def wT (a b : Nat) : WarpCore := { pair 4 a (pair 6 b w0) with task := 0x5000, live := 1, frontier := [{ prio := 0, pc := 0x1000, lanes := 1, state := .ready }] }
/-- Its machine. -/
def sT (a b : Nat) (ms : List (Nat × List Byte)) : State := on (fun _ => wT a b) (taskOn ms)

theorem witness_task_issue : ∀ i ∈ ([.tspawn (rr 3 4 0), .trange (rr 3 4 0), .tnext (rr 8 0 0), .tself (rr 8 0 0), .tself (rp 3 0 0 1), .tself (rp 3 0 0 2), .tjoin (rr 0 4 0),
    .tend (rr 0 0 0), .tcancel (rr 3 8 6), .fset (rr 3 4 6), .fwait (rr 8 4 7), .lockw (rr 3 4 7), .unlock (rr 0 4 0), .qput (rr 8 4 6), .qputProm (rp 8 4 6 1), .qputFill (rp 8 4 12 2),
    .qtake (rr 8 4 7)] : List Instr), Issuing (sT 0x4000 0x6000 []) c0 (wT 0x4000 0x6000) i := fun i hi => ⟨by decide +kernel, by decide +kernel, by revert i; decide +kernel⟩

theorem witness_spawn : let s := sT 0x4000 0x6000 []
    s.hasDarner 1 = true ∧ (∀ r ∈ [false, true], (s.loadLanes (lanesOf c0.lanes) (fun s l => s.spawnLane c0 (wT 0x4000 0x6000) r ((rr 3 4 0).pairA s (wT 0x4000 0x6000) l).toNat)).2.1 = [] ∧
      okWith (s.spawnLane c0 (wT 0x4000 0x6000) r 0x4000) (fun _ k => decide (k = 0)) = true) ∧ (s.darner 0 1).mailbox = [] ∧ undoomed (wT 0x4000 0x6000) c0.lanes = true := by decide +kernel

theorem witness_task_next : let s := (sT 0x4000 0x6000 []).modDarner 0 1 (fun d => { d with ranges := [(0x5000, { lo := 3, hi := 10, grain := 8, code := 0x2000, frame := 0 })] })
    s.hasDarner 1 = true ∧ (s.darner 0 1).mailbox = [] ∧ ((s.darner 0 1).ranges.find? (wT 0x4000 0x6000).task).isSome = true := by decide +kernel

theorem witness_join : let W := wT 0x4000 0x6000
    W.live &&& ~~~c0.lanes = 0 ∧ W.task ≠ 0 ∧ ({ W with task := 0 } : WarpCore).task = 0 ∧ ({ W with live := 3 } : WarpCore).live &&& ~~~c0.lanes ≠ 0 ∧
    (∀ l < 32, hasLane c0.lanes l = true → (W.lane l).role = .none) ∧
    (∀ j ∈ [0, 1], okWith ((sT 0x4000 0x6000 [(0x5018, bytesOfNat 8 (ctlWord j 1 false 0))]).waveAccess W .store W.task 32)
      (fun s1 _ => someWith (s1.control W.launch W.task W.token) (fun _ v => decide (v % 2 ^ 32 = j))) = true) ∧
    (match (sT 0x4000 0x6000 []).warps.find? 0 with | some x => x.help.isEmpty | none => false) = true ∧ ((sT 0x4000 0x6000 []).darner 0 1).deque.length < Config.dequeEntries := by decide +kernel

/-- A warp of the job 7 that waits in slot 1. -/
def waiting1 : WarpCore :=
  { w0 with slot := 1, task := 0x5100, job := 7, frontier := [{ prio := 0, pc := 0x1000, lanes := 0xFFFFFFFF, state := .wait false (Wait.mk' (.fifo 0 true) none .none false) }] }

theorem witness_cancel : let W := set 0 8 7 (wT 0x4000 0x300000)
    let s : State := { on (fun _ => W) (taskOn []) with warps := [(0, { run := W, help := [] }), (1, { run := waiting1, help := [] })] }
    s.warp? 0 = some W ∧ s.hasDarner W.launch = true ∧ okWith (s.waveAccess W .atomic ((rr 3 8 6).pairB s W 0).toNat 4) (fun _ _ => true) = true ∧
    waiting1.launch = W.launch ∧ waiting1.task ≠ 0 ∧ waiting1.job = ((rr 3 8 6).vA s W 0).toNat % 2 ^ 16 := by decide +kernel

theorem witness_darner_pop : let s := (on id (taskOn [(0x5000, bytesOfNat 8 0x2000)])).modDarner 0 1 (fun d => { d with deque := [0x5000] })
    ((on id id).mayStart 0 2 = none) ∧ (s.mayStart 0 1).isSome = true ∧ ((s.darner 0 1).take).isSome = true ∧
    (match (s.darner 0 1).take with
      | some (record, d) => (match (s.modDarner 0 1 (fun _ => d)).claim 0 1 record 0 with
        | (s2, .won v) => !ctlRange v && someWith (s2.dRead 1 record record 16 0) (fun _ x => decide (bits x 56 0 = 0x2000))
        | _ => false)
      | none => false) = true := by decide +kernel

theorem witness_steal : let s : State := { on id (taskOn []) with warps := [(64, { run := { w0 with core := 1, task := 0x5000 }, help := [] })] }
    let t := s.modDarner 0 1 (fun d => { d with request := some (1, 0) })
    (s.mayStart 0 1).isSome = true ∧ ((s.darner 0 1).take).isNone = true ∧ (s.darner 0 1).request = none ∧ nextVictim (victimOrder (s.launch 1) 0) (s.darner 0 1).lastVictim = some 1 ∧
    (s.darner 1 1).mailbox.length < 4 ∧ s.tasksOn 1 1 = true ∧ (s.darner 1 1).pending = [] ∧ (t.darner 0 1).request = some (1, 0) ∧ t.ns < 0 + 2000 ∧
    ({ t with ns := 2000 } : State).ns = 0 + 2000 := by decide +kernel

theorem witness_darner_fault : let s : State := { on id (taskOn []) with darnerFaults := [{ launch := 1, record := 0, addr := 0, token := 0 }] }
    s.darnerFaults ≠ [] ∧ (s.launches.find? 1).isSome = true := by decide +kernel

/-- With no exchange of pages, a warp reads every page through its leaf. -/
theorem readLeaf_plain {q s : State} (hq : q.ctxs = s.ctxs) (h : s.ctxs.all (fun e => e.2.swaps.isEmpty) = true) (w : WarpCore) (l : Leaf) (va : Nat) : q.readLeaf w l va = l := by
  unfold State.readLeaf
  rw [hq]
  cases hf : Table.find? s.ctxs (q.asidOf w) with
  | none => rfl
  | some c =>
    have hc : c.swaps = [] := by
      generalize q.asidOf w = a at hf
      generalize s.ctxs = t at hf h
      induction t with
      | nil => cases hf
      | cons e t ih =>
        obtain ⟨k, x⟩ := e
        simp only [List.all_cons, Bool.and_eq_true, List.isEmpty_iff] at h
        rw [show Table.find? ((k, x) :: t) a = if a = k then some x else Table.find? t a from rfl] at hf
        split at hf
        · cases hf; exact h.1
        · exact ih hf (by simpa using h.2)
    simp [hc]

theorem witness_fset : let W := wT 0x6000 0x55
    (∀ f ∈ [0, 1, 2], let s := sT 0x6000 0x55 [(0x6000, bytesOfNat 4 f)]
      (s.loadLanes (lanesOf c0.lanes) (fun s l => s.setFuture c0 W ((rr 3 4 6).pairA s W l).toNat ((rr 3 4 6).pairB s W l))).2.1 = [] ∧
      okWith (s.waveAccess W .atomic 0x6000 16) (fun s1 y => !y.1.shadow && s1.regionAllows (s1.warpWorld W) y.2 && clean s1 y.1.okey y.2 16 &&
        (wordKeys y.2 16).all (fun k => !offends W.party (s.histOf k)) && decide (natOfBytes (s.mem.bytes y.2 16) % 4 = f) && decide (bits (natOfBytes (s.mem.bytes y.2 16)) 56 5 = 0)) = true ∧
      s.ctxs.all (fun e => e.2.swaps.isEmpty) = true) ∧ W.stores = [] := by decide +kernel

theorem witness_unlock : let W := wT 0x7000 0
    (∀ ms ∈ [[(0x7008, bytesOfNat 8 0x5001)], [(0x7000, bytesOfNat 8 0x5001)], [(0x7000, bytesOfNat 8 0x6001)]], let s := sT 0x7000 0 ms
      okWith (s.waveAccess W .atomic 0x7000 32) (fun s1 y => !y.1.shadow && s1.worldOf 1 && s1.regionAllows (s1.warpWorld W) y.2 && clean s1 y.1.okey y.2 16 &&
        (wordKeys y.2 16).all (fun k => !offends W.party (s.histOf k)) && (decide (natOfBytes (s.mem.bytes y.2 16) / 2 ^ 64 = W.task + 1) ||
          decide (natOfBytes (s.mem.bytes y.2 16) / 2 ^ 64 ≠ W.task + 1) && decide ((natOfBytes (s.mem.bytes y.2 16) % 2 ^ 64 = W.task + 1) = (ms ≠ [(0x7000, bytesOfNat 8 0x6001)])))) = true) ∧ W.stores = [] := by decide +kernel

/-- A queue of four entries at 0x8000, of which entry 0 is in this state. -/
def queueAt (st : Nat) : List (Nat × List Byte) := [(0x8008, bytesOfNat 4 4), (0x8040, bytesOfNat 16 (st + 0x99 * 2 ^ 64))]

theorem witness_qput : let W := set 0 12 0x77 (wT 0x8000 0x99)
    let s (st : Nat) := on (fun _ => W) (taskOn (queueAt st))
    let x := (s 0).putLanes (lanesOf c0.lanes) (fun t l => t.putLane c0 W (W.resolve 8) l ((rr 8 4 6).pairA (s 0) W l).toNat ((rr 8 4 6).pairB (s 0) W l).toNat 1)
    let y := (s 0).putLanes (lanesOf c0.lanes) (fun t l => t.putLane c0 W (W.resolve 8) l ((rr 8 4 6).pairA (s 0) W l).toNat ((rr 8 4 6).pairB (s 0) W l).toNat 2)
    let z := (s 2).putLanes (lanesOf c0.lanes) (fun t l => t.fillLane c0 W l ((rp 8 4 12 2).pairA (s 2) W l).toNat ((s 2).rd W l 14 (posB + 2)).toNat ((rp 8 4 12 2).pairB (s 2) W l).toNat)
    undoomed W c0.lanes = true ∧ x.2.1 = [] ∧ y.2.1 = [] ∧ z.2.1 = [] ∧ (∀ p ∈ x.2.2 ++ y.2.2 ++ z.2.2, p.code.isSome = true) := by decide +kernel

theorem witness_fwait : let W := wT 0x6000 0xFFFFFFFF00000000
    c0.lanes ≠ 0 ∧ undoomed W c0.lanes = true ∧ (rr 8 4 7).vB (sT 0x6000 0xFFFFFFFF00000000 []) W 0 = 0xFFFFFFFF ∧
    (∀ f ∈ [0, 1, 2, 3], okWith ((sT 0x6000 0xFFFFFFFF00000000 [(0x6000, bytesOfNat 4 f)]).waveAccess W .load 0x6000 16) (fun s1 y =>
      let s3 := s1.ownFirst 0 y.2 16
      match s3.warp? 0 with
      | some w3 => okWith (s3.lookRead w3 true 0x6000 16) (fun s4 v => decide (v % 4 = f) && decide (bits v 56 5 = 0) &&
          (let s5 : State := { s4.startWait c0 c0.lanes false (Wait.mk' (.future none 0x6000) none (W.resolve 8) false) with cur := none }
           okWith (s5.translate w3.party (s5.asidOf w3) (s5.warpWorld w3) .load 0x6000) (fun _ _ => true)))
      | none => false) = true) := by decide +kernel

theorem witness_lockw : let W := wT 0x7000 0xFFFFFFFF00000000
    okWith ((sT 0x7000 0xFFFFFFFF00000000 []).waveAccess W .atomic 0x7000 32) (fun s1 y =>
      let s3 := s1.ownFirst 0 y.2 32
      match s3.warp? 0 with
      | some w3 => w3.stores.isEmpty && okWith (s3.lookRead w3 true 0x7000 32) (fun s4 x => decide (x % 2 ^ 64 = 0) && !bit x 159 &&
          (s4.lookWrite w3 true true 0x7000 (bytesOfNat 8 (w3.task + 1))).2.isNone)
      | none => false) = true := by decide +kernel

theorem witness_qtake : let W := wT 0x8000 0xFFFFFFFF00000000
    okWith ((sT 0x8000 0xFFFFFFFF00000000 (queueAt 1)).waveAccess W .atomic 0x8000 64) (fun s1 y =>
      let x := (s1.ownFirst 0 y.2 64).readGlobal 0 W true y.1 0x8000 12
      let i := bits (natOfBytes x.2) 31 0
      let va := x.1.queueEntry 0x8000 (bits (natOfBytes x.2) 95 64) i
      okWith (x.1.waveAccess W .atomic va 16) (fun s2 z =>
        let s3 := (s2.waveWrite 0 W (some .dev) y.1 0x8000 y.2 (bytesOfNat 4 (i + 1))).ownFirst 0 z.2 16
        match s3.warp? 0 with
        | some w3 => okWith (s3.lookRead w3 true va 16) (fun s4 e => decide (e % 4 = 1) && (s4.lookWrite w3 true false va (bytesOfNat 4 (e % 2 ^ 32 - 1))).2.isNone)
        | none => false)) = true := by decide +kernel

/-! ### Witnesses: block transfers and Press -/

/-- A template: rows of 32 bytes from 0x4000 to scratchpad 0x1000, or the other way. -/
def tplB (out : Nat) : Nat := out * 2 ^ 236 + 32 * 2 ^ 192 + 32 * 2 ^ 128 + 32 * 2 ^ 96 + 0x1000 * 2 ^ 64 + 0x4000
/-- Two rows of template 3, no sync word, nothing released. -/
def valB : DWord := BitVec.ofNat 64 (0xFFFF * 2 ^ 48 + 2 * 2 ^ 24 + 3)
/-- An aperture store of `valB`. -/
def apB : ApertureStore := { chan := 1, value := valB, wid := 0, token := 1, launch := 1, since := 0, fresh := 0 }
/-- The command it makes. -/
def bteB (out : Nat) : BteCmd :=
  { id := 0, chan := 1, value := valB, wid := 0, token := 1, launch := 1, tpl := BitVec.ofNat 256 (tplB out), load := true, since := 0, fresh := 0, landed := [], started := true, cmdFaults := [], faulted := false }
/-- A machine with the template, these aperture stores and commands. -/
def bteOn (aps : List ApertureStore) (xs : List BteCmd) : State :=
  on id (fun s => ((spadOn s).setTemplate 0 1 3 (BitVec.ofNat 256 (tplB 0))).modCore 0 (fun k => { k with aperture := aps, bte := xs }))

theorem witness_bulk_command : let s := bteOn [apB] []
    (s.core 0).aperture.find? (fun a => decide (a.wid = 0)) = some apB ∧ s.bteRoom 0 apB = true ∧ (bteValue apB.value).count ≠ 0 ∧
    s.bteFaults 0 apB (if (bteValue apB.value).tpl < 64 then s.template 0 1 3 else 0) = [] ∧
    (bteOn [apB] (List.replicate 64 (bteB 0))).bteRoom 0 apB = false := by decide +kernel

/-- Key of scratchpad byte 0x1000. -/
def keyB : Nat := spadKey 0 0 0x1000

theorem witness_bulk_rows : ∀ o ∈ [0, 1], let s := bteOn [] [bteB o]
    let t := templateOf (BitVec.ofNat 256 (tplB o))
    0 < t.rowb ∧ t.out = decide (o = 1) ∧ isSpad keyB = true ∧ s.spadKeys 0 1 ((List.range t.rowb).map (t.spadOff 0)) = .ok (keysFrom keyB t.rowb) ∧
    okWith (s.pieces (.core 0) 1 (if t.out then .store else .load) (t.rowAddr 0) t.rowb) (fun s1 ps => match ps with
      | [p] => decide (p.off = 0) && decide (p.len = t.rowb) && engineClean s1 .dev p.leaf.okey p.pa t.rowb && engineClean s1 (.core 0) 0 keyB t.rowb && keyed s1 p.leaf.okey p.pa t.rowb
      | _ => false) = true ∧
    (s.core 0).bte = [bteB o] ∧ (bteB o).left = [0, 1] ∧ (bteB o).template? = some t ∧ t.arrive = false ∧ (bteValue (bteB o).value).sync = 0xFFFF ∧ (bteValue (bteB o).value).follow = 0 ∧
    (s.moveRow 0 (bteB o) t 0).2 = none ∧ ((s.moveRow 0 (bteB o) t 0).1.core 0).bte = [bteB o] := by decide +kernel

/-- Operands of ACP: v8 a scratchpad offset, v4:v5 an address, v6 a count. -/
def wAcp (n mask : Nat) : WarpCore := { set 0 8 0x2000 (set 0 6 n (pair 4 0x4000 w0)) with tags := Map.set 0 [] 0 mask }

theorem witness_copies_issue : ∀ i ∈ ([.acp (rr 8 4 6), .acpwait (rr 8 6 0), .tplset (rr 0 6 8), .swinit (rr 0 8 6), .syncw (rr 3 8 10), .btestat (rr 3 6 0), .btestat (rp 3 6 0 1),
    .btestat (rp 3 6 0 2), .btestatClr (rr 3 6 0)] : List Instr), Issuing (on (fun _ => wAcp 1 0) spadOn) c0 (wAcp 1 0) i := fun i hi => ⟨by decide +kernel, by decide +kernel, by revert i; decide +kernel⟩

theorem witness_copies : (∀ n ∈ [0, 20], let s := on (fun _ => wAcp n 0) spadOn
    (s.core 0).loadsUsed < Config.bteEntries ∧ (s.core 0).aperture = [] ∧ s.bankBusy (wAcp n 0) ((rr 8 4 6).vD s (wAcp n 0) 0).toNat = false ∧
    ((s.drainBank 0).acpLanes (wAcp n 0) (rr 8 4 6) (lanesOf c0.lanes)).2.1 = [] ∧ ((s.drainBank 0).acpLanes (wAcp n 0) (rr 8 4 6) (lanesOf c0.lanes)).2.2.length = 1) ∧
    (match (on id spadOn).walk 1 0x4000 with
      | none => false
      | some leaf => ([[], [(leaf, 0x4000, 20)]] : List (List (Leaf × Nat × Nat))).all fun src =>
        let x : AcpCopy := { token := 1, lane := 0, tag := 0, key := keyB, src := src, since := 0, instr := 0 }
        let s := on id (fun s => (spadOn s).modCore 0 (fun k => { k with acps := [x] }))
        decide ((s.core 0).acps[0]? = some x) && isSpad x.key && engineClean s .dev leaf.okey 0x4000 20) = true ∧
    (∀ n < 8, ((rr 8 6 0).vA (on (fun _ => wAcp 2 1) id) (wAcp 2 1) 0).getLsbD n = true → Map.get 0 (wAcp 2 1).tags n = 0) ∧
    ((rr 8 6 0).vA (on (fun _ => wAcp 1 1) id) (wAcp 1 1) 0).getLsbD 0 = true ∧ Map.get 0 (wAcp 1 1).tags 0 ≠ 0 := by decide +kernel

theorem witness_template_sync : let s := on (fun _ => wAcp 1 0) spadOn
    let W := wAcp 1 0
    s.bankBusy W 0x2000 = false ∧ s.bankBusy W (0x2000 + 31) = false ∧ s.spadRange W 0x2000 16 32 = .ok (keysFrom keyA 32) ∧ isSpad keyA = true ∧ W.stores = [] ∧
    engineClean s (.core 0) 0 keyA 32 = true ∧ s.spadRange W 0x2000 16 16 = .ok (keysFrom keyA 16) ∧ s.anyBusy W ((lanesOf c0.lanes).map (fun l => ((rr 3 8 10).vA s W l).toNat)) = false ∧
    ((rr 3 8 10).vA s W 0).toNat = 0x2000 := by decide +kernel

/-- A valid tile of four rows of 32 elements of s8 at scratchpad offset 0x2000. -/
def tileB : BitVec 128 := BitVec.ofNat 128 (0x2000 + 3 * 2 ^ 23 + 31 * 2 ^ 31 + 12 * 2 ^ 39 + 2 ^ 45)
/-- x1 is that tile; w2:w3 is 0x100000. -/
def wP5 : WarpCore := { uni 2 0x100000 w0 with x := Map.set 0 [] 1 tileB }
/-- Its machine. -/
def sP5 : State := on (fun _ => wP5) spadOn
/-- What `PressCommandsAccepted` asks of a command. -/
def accepted (i : Instr) (x : XArgs) (ask : State → Issue → WarpCore → PressCmd → State × Except Trap PressCmd) : Bool :=
  decide (sP5.cur = some c0) && decide (sP5.warp? 0 = some wP5) && !wP5.windowFails i && governed x wP5 &&
    okWith (ask sP5 c0 wP5 (newPressCmd i x c0 wP5)) (fun s1 _ => match s1.takePress 0 1 with | some s2 => !(s2.core 0).press.closed | none => false)

theorem witness_press_commands : accepted (.tzero (xx 1 0 0 0)) (xx 1 0 0 0) (State.tzeroAsk (xx 1 0 0 0)) = true ∧ accepted (.mxlw (xx 0 1 0 0)) (xx 0 1 0 0) (State.mxlwAsk (xx 0 1 0 0)) = true ∧
    accepted (.mxswap (xx 0 0 0 0)) (xx 0 0 0 0) State.mxswapAsk = true ∧ accepted (.mxmm (xx 0 1 0 3)) (xx 0 1 0 3) (State.streamAsk (xx 0 1 0 3)) = true ∧
    accepted (.mxmms (xx 0 1 0 3)) (xx 0 1 0 3) (State.streamAsk (xx 0 1 0 3)) = true ∧ accepted (.mxep (xx 1 0 0 (2 ^ 17 + 3))) (xx 1 0 0 (2 ^ 17 + 3)) (State.mxepAsk (xx 1 0 0 (2 ^ 17 + 3))) = true ∧
    accepted (.mxsel (xx 0 0 0 0)) (xx 0 0 0 0) (State.mxselAsk (xx 0 0 0 0)) = true ∧ accepted (.mxselRead (xx 0 0 0 0)) (xx 0 0 0 0) (State.mxselReadAsk (xx 0 0 0 0)) = true ∧
    accepted (.accld (xx 0 0 0 63)) (xx 0 0 0 63) (State.cellsAsk (xx 0 0 0 63) true) = true ∧ accepted (.accst (xx 0 0 0 63)) (xx 0 0 0 63) (State.cellsAsk (xx 0 0 0 63) true) = true ∧
    accepted (.accz (xx 0 0 0 0x7FFF)) (xx 0 0 0 0x7FFF) (State.cellsAsk (xx 0 0 0 0x7FFF) false) = true ∧
    accepted (.mxsave (xx 0 2 0 0)) (xx 0 2 0 0) (State.imageAsk (xx 0 2 0 0) .store none) = true ∧ accepted (.mxload (xx 0 2 0 0)) (xx 0 2 0 0) (State.mxloadAsk (xx 0 2 0 0)) = true ∧
    undoomed wP5 c0.lanes = true ∧ governed (xx 0 0 0 (2 ^ 26)) wP5 = false := by decide +kernel

/-- A numbered command of `sP5` on its operands. -/
def cmdB (i : Instr) (x : XArgs) : PressCmd := { newPressCmd i x c0 wP5 with num := some 1, tile := tileB, opD := 5 }
/-- Press has it as its only command. -/
def pressOnB (p : PressCmd) : State := on (fun _ => wP5) (fun s => (spadOn s).modPress 0 (fun k => { k with owner := some 1, queue := [p], out := Map.set 0 k.out 0 1 }))

theorem witness_press_runs : ∀ p ∈ [cmdB (.mxswap (xx 0 0 0 0)) (xx 0 0 0 0), cmdB (.mxsel (xx 0 0 0 0)) (xx 0 0 0 0), cmdB (.mxsel (xx 0 0 0 (2 ^ 17))) (xx 0 0 0 (2 ^ 17)),
    cmdB (.accz (xx 0 0 0 2)) (xx 0 0 0 2), cmdB (.tzero (xx 1 0 0 0)) (xx 1 0 0 0)], let s := pressOnB p
    (s.core 0).press.next = some p ∧ p.num = some 1 ∧ p.rowsDone = 0 ∧ s.pressWaits 0 p = false ∧ (s.core 0).press.lateFault p = none ∧ s.pressDead 0 p = none ∧
    (match s.spadKeys 0 p.launch (p.touches none) with | .ok _ => true | .error _ => false) = true := by decide +kernel

theorem witness_exact : exactFormat 12 = true ∧ decodeCode 12 (5 % 2 ^ fmtWidth 12) = .fin false 5 0 ∧ exactUnits (.fin false 5 0) (.fin true 3 0) = -15 * 2 ^ 40 := by decide +kernel

theorem witness_select : let u : Select := { k := 2, perRow := false, lines := 64, next := 0, first := 0, kept := [] }
    let x (v i : Nat) : Offer := { val := BitVec.ofNat 32 v, index := BitVec.ofNat 32 i }
    u.kept.find? 3 = none ∧ (([x 1 0, x 2 1, x 2 2].foldl (fun v y => v.offer 3 y) u).kept.find? 3) = some [x 2 1, x 2 2] := by decide +kernel
/-! ### Witnesses: tile registers, bank compute, the Hamper, Seam, links -/

/-- v6 is an index or a value, v8 a deadline; x1 a tile of the scratchpad. -/
def wTile (a b : Nat) : WarpCore := set 0 6 a (set 0 8 b { w0 with x := Map.set 0 [] 1 (BitVec.ofNat 128 (0x2000 + 3 * 2 ^ 23 + 31 * 2 ^ 31 + 12 * 2 ^ 39 + 2 ^ 45)) })
/-- A slice of that tile. -/
def sliceT (wr : Bool) : TArgs := { sw := false, tile := 1, col := false, idx := 6, imm := 0, reg := 8, wr := wr, px := none }

theorem witness_tiles_issue : ∀ i ∈ ([.tbind (xx 1 4 0 0), .tpset (kk 1 0 0 4), .tplogAnd (kk 0 1 2 0), .tplogOr (kk 0 1 2 0), .tplogXor (kk 0 1 2 0), .tplogAndn (kk 0 1 2 0), .tslice (sliceT true),
    .tslice (sliceT false), .mxseq (rr 3 0 0), .mxseq (rp 3 0 0 1), .mxseq (rp 3 0 0 2), .mxwait (rr 3 6 8), .mxwaitOut (rr 3 0 8)] : List Instr),
    Issuing (on (fun _ => wTile 0 5) spadOn) c0 (wTile 0 5) i := fun i hi => ⟨by decide +kernel, by decide +kernel, by revert i; decide +kernel⟩

theorem witness_tiles : let s := on (fun _ => wTile 0 5) spadOn
    let W := wTile 0 5
    governed (xx 1 4 0 0) W = true ∧ governed (xx 1 4 0 (2 ^ 26)) W = false ∧ W.tpred 0 0 = true ∧ W.tpred 0 1 = false ∧ (tileOf (W.tileReg 1)).ok = true ∧
    s.anyBusy W ((lanesOf c0.lanes).map (fun l => match s.slicePart W (sliceT true) l with | some p => p.offs | none => [])).flatten = false ∧
    (s.eachLane (lanesOf c0.lanes) (fun s l => s.sliceStore c0 W (sliceT true) l)).2 = [] ∧ (s.loadLanes (lanesOf c0.lanes) (fun s l => s.sliceLoad c0 W (sliceT false) l)).2.1 = [] ∧
    undoomed W c0.lanes = true ∧ BitVec.slt ((s.pressOf 0 1).seq - (rr 3 6 8).vA s W 0) 0 = false ∧ BitVec.slt ((s.pressOf 0 1).seq - (rr 3 6 8).vA s (wTile 1 5) 0) 0 = true ∧
    Map.get 0 (s.pressOf 0 1).out 0 = 0 ∧ Map.get 0 ((pressOnB (cmdB (.mxswap (xx 0 0 0 0)) (xx 0 0 0 0))).pressOf 0 1).out 0 ≠ 0 := by decide +kernel

/-- A page of bank compute at 0x80000000: 8-bit integers in bank order. -/
def bankPage (s : State) : State :=
  { s with mem := (s.mem.write (0x3FE0040000 + 8) (bytesOfNat 8 0x3FE0060001)).write 0x3FE0060000 (bytesOfNat 8 (0x80000000 + 12 * 2 ^ 12 + 2 ^ 8 + 0x1F)) }
/-- Operands of BMV: v4:v5 its base, v8 the offset of y, v12 to v15 rows, columns and x; v6 a number. -/
def wBmv : WarpCore := set 0 12 0 (set 0 13 2 (set 0 14 32 (set 0 15 0x2000 (set 0 8 0x1000 (set 0 6 1 (pair 4 0x80000000 w0))))))
/-- Its machine. -/
def sBmv (bs : List BcuCmd) : State := on (fun _ => wBmv) (fun s => { bankPage (spadOn s) with bcus := bs })

theorem witness_bank_issue : ∀ i ∈ ([.bmv (rr 8 4 12), .bfenceW (rr 0 4 13), .bfenceW (rr 0 4 12), .bmwaitSeq (rr 3 0 0), .bmwaitLast (rr 3 0 0), .bfenceR (rr 0 0 0), .bmwaitAll (rr 3 0 6), .bmwait (rr 3 6 6)] : List Instr),
    Issuing (sBmv []) c0 wBmv i := fun i hi => ⟨by decide +kernel, by decide +kernel, by revert i; decide +kernel⟩

theorem witness_bank : let s := sBmv []
    bmvAlign (rr 8 4 12) s wBmv 0 = none ∧ s.anyBusy wBmv (bmvSpan (rr 8 4 12) s wBmv 0) = false ∧ s.bcuFull 1 = false ∧
    okWith (s.bmvAsk (rr 8 4 12) c0 wBmv) (fun _ b => decide (b.n = 2) && decide (b.cols = 32) && decide (b.pages.length = 1)) = true ∧ undoomed wBmv c0.lanes = true ∧
    (rr 0 4 13).vB (sBmv []) wBmv 0 ≠ 0 ∧ (rr 0 4 12).vB (sBmv []) wBmv 0 = 0 ∧
    wBmv.bcuSeq = wBmv.bcuLast ∧ ({ wBmv with bcuLast := 1 } : WarpCore).bcuSeq ≠ ({ wBmv with bcuLast := 1 } : WarpCore).bcuLast ∧
    BitVec.slt (wBmv.bcuSeq - (rr 3 6 6).vA s wBmv 0) 0 = true ∧ BitVec.slt (({ wBmv with bcuSeq := 1 } : WarpCore).bcuSeq - (rr 3 6 6).vA s wBmv 0) 0 = false := by decide +kernel

/-- A command of bank compute: a fence, or a product of one row whose x is read. -/
def bcuB (fence : Option (Nat × Nat)) (n : Nat) : BcuCmd :=
  { newBcuCmd c0 wBmv with num := 1, fence := fence, n := n, cols := 32, pitch := 32, base := 0x80000000, x := 0x2000, xs := some [], y := 0x1000, left := [0] }

theorem witness_bank_runs : (∀ b ∈ [bcuB (some (0x80000000, 64)) 0, bcuB none 0, bcuB none 1], (sBmv [b]).bcuRuns b = true) ∧
    (sBmv [bcuB none 1]).spadKeys 0 1 (keysFrom (0x1000 + 4 * 0) 4) = .ok (keysFrom keyB 4) ∧ isSpad keyB = true := by decide +kernel

/-- A Hamper table at 0x40000: two slots, four experts, this PERIOD, slot map entries and directory words. -/
def hamperOn (period : Nat) (slots experts : List Nat) (s : State) : State :=
  { s with
    ctxs := s.ctxs.modify 1 (fun x => { x with rcd := { x.rcd with hamper := 0x40000 } })
    mem := ((s.mem.write 0x40000 (bytesOfNat 64 (0x400000 + 0x40000 * 2 ^ 64 + 2 ^ 96 + 0x50000 * 2 ^ 128 + 3 * 2 ^ 192 + period * 2 ^ 256))).write 0x40040
      ((slots.map (bytesOfNat 8)).flatten)).write 0x50000 ((experts.map (bytesOfNat 32)).flatten) }
/-- The warp asks for expert 1, with no arrival. -/
def wH : WarpCore := set 0 6 1 (set 0 8 0xFFFFFFFF w0)
/-- Its machine. -/
def sH (slots experts : List Nat) : State := on (fun _ => wH) (hamperOn 5 slots experts)

theorem witness_hamper_issue : ∀ i ∈ ([.xquery (rr 3 6 0), .xhit (rr 0 6 0), .xageNow (rr 0 0 0), .xage (rr 0 6 0), .xresRel (rr 0 6 0), .xres (rr 3 6 8)] : List Instr), Issuing (sH [] []) c0 wH i :=
  fun i hi => ⟨by decide +kernel, by decide +kernel, by revert i; decide +kernel⟩

theorem witness_hamper : bits ((rr 3 6 8).pairB (sH [] []) wH 0).toNat 31 0 = 0xFFFFFFFF ∧ bit ((rr 3 6 8).pairB (sH [] []) wH 0).toNat 42 = false ∧
    okWith ((sH [] []).hamperFor wH [1]) (fun s h => !expertBad h (s.expert h 1) && decide (exState (s.expert h 1) = 0) && decide (s.victimSlot h = some (0, false))) = true ∧
    okWith ((sH [slotWord 1 true false 2, slotWord 1 true false 3] []).hamperFor wH [1]) (fun s h =>
      !expertBad h (s.expert h 1) && decide (exState (s.expert h 1) = 0) && decide (s.victimSlot h = none)) = true ∧
    okWith ((sH [slotWord 3 true false 1] [0, 2 * 2 ^ 216]).hamperFor wH [1]) (fun s h =>
      !expertBad h (s.expert h 1) && decide (exState (s.expert h 1) = 2) && decide (0 < slotHold (s.slotEntry h (exSlot (s.expert h 1))))) = true := by decide +kernel

/-- A staging of expert 1. -/
def stagingB : Staging := { asid := 1, expert := 1, slot := 0, launch := 1, token := 1, since := 0, waiters := [] }

theorem witness_staging : let s : State := { sH [slotWord 1 true true 1] [0, 2 ^ 216 + 64 * 2 ^ 128 + 0x80000] with stagings := [stagingB] }
    s.stagings[0]? = some stagingB ∧ s.stagings[1]? = none ∧ (({ sH [] [] with ctxs := [] } : State).hamper 1).2 = none ∧
    okWith (s.pieces .dev 1 .load 0x80000 64) (fun s1 ps => okWith (s1.pieces .dev 1 .store 0x400000 64) (fun s2 qs => match ps, qs with
      | [p], [q] => decide (p.len = 64) && decide (q.off = 0) && decide (q.len = 64) && engineClean s2 .dev p.leaf.okey p.pa 64 && keyed s2 q.leaf.okey q.pa 64
      | _, _ => false)) = true := by decide +kernel

theorem witness_ageing : let s (n : Nat) : State := { sH [] [] with ns := n }
    someWith ((s 5000).hamper 1) (fun _ h => decide (h.period = 5)) = true ∧ (match (s 5000).ctxs.find? 1 with | some x => decide (x.ageFrom + 1000 * 5 ≤ 5000) && !x.ended | none => false) = true ∧
    someWith ((s 4999).hamper 1) (fun s h => match s.ctxs.find? 1 with | some x => decide (s.ns < x.ageFrom + 1000 * h.period) | none => false) = true := by decide +kernel

/-- A Seam descriptor: eight rows of 32 bytes at 0x4000, no sync word. -/
def descB : Nat := 0xFFFF * 2 ^ 256 + 8 * 2 ^ 192 + 32 * 2 ^ 128 + 32 * 2 ^ 64 + 0x4000
/-- v8 a buffer, v6 the descriptor, v10 the list, v11 the count; v12 a deadline. -/
def wS (count : Nat) : WarpCore := set 0 8 0x1000 (set 0 6 0x2000 (set 0 10 0x3000 (set 0 11 count (set 0 12 9 w0))))
/-- Its machine, with a descriptor in the scratchpad. -/
def sS (count : Nat) : State := on (fun _ => wS count) (fun s => let s := spadOn s; { s with mem := s.mem.write keyA (bytesOfNat 64 descB) })

theorem witness_seam_issue : ∀ i ∈ ([.gather (rr 8 6 10), .scatter (rr 8 6 10), .scatadd (rr 8 6 10), .gswait (rr 3 0 12), .gswaitOut (rr 3 0 0), .gswaitDup (rr 3 0 0)] : List Instr),
    Issuing (sS 2) c0 (wS 2) i := fun i hi => ⟨by decide +kernel, by decide +kernel, by revert i; decide +kernel⟩

theorem witness_seam : (∀ n ∈ [0, 2], ∀ op ∈ [0, 1, 2], let s := sS n
    let W := wS n
    seamAlign (rr 8 6 10) s W 0 = none ∧ s.seamBanksBusy W (rr 8 6 10) 0 = false ∧ okWith (s.seamAsk op (rr 8 6 10) c0 W) (fun s1 cmd => !s1.seamFull W cmd && decide (cmd.count = n) &&
      (s1.seamEnter (dieOf W.core) (s1.asidOf W)).2) = true) ∧ undoomed (wS 2) c0.lanes = true ∧ (wS 2).seamOut = 0 ∧ ({ wS 2 with seamOut := 1 } : WarpCore).seamOut ≠ 0 := by decide +kernel

/-- A command of two entries with these indices, sent entries and served entries. -/
def seamB (index sent : Table Nat) (served : Table SeamServed) : SeamCmd :=
  { id := 7, op := 0, wid := 0, token := 1, launch := 1, desc := BitVec.ofNat 512 descB, buf := 0x1000, list := 0x3000, count := 2, since := 0, fresh := 0, index := index, sent := sent, served := served,
    landed := [], faulted := false }
/-- Its Seam. -/
def seamOn (k : SeamCmd) : State := on id (fun s => (spadOn s).modSeam 0 (fun x => { x with cmds := [k] }))

theorem witness_seam_rows : (∀ x ∈ [3, 9], let k := seamB [(0, x)] [] []
      (seamOn k).seamCmd 0 7 = some k ∧ k.served.find? 0 = none ∧ k.sent.find? 0 = none ∧ (seamOn k).seamHeld k = false ∧ k.d.shard = false ∧ k.d.nrows = 8) ∧
    someWith ((seamOn (seamB [(0, 3)] [] [])).rowPlace (dieOf 0) 1 .load (0x4000 + 3 * 32) 32) (fun s1 y => engineClean s1 .dev y.1.okey y.2 32) = true ∧
    (let v : SeamServed := { detail := 0, flags := 0, drop := false, data := List.replicate 32 0 }
      let k := seamB [(0, 3)] [] [(0, v)]
      k.served.find? 0 = some v ∧ k.d.sync = 0xFFFF ∧ k.d.arrive = false ∧ (seamOn k).spadKeys 0 1 (keysFrom (0x1000 + 0 * 32) 32) = .ok (keysFrom keyB 32)) := by decide +kernel

theorem witness_dedup : let s (e : Nat) : State := on id (fun s => s.modSeam 0 (fun x => { x with dedup := [(5 * 65536 + 2, [(1, (e, [4]))])] }))
    ((s 9).dedup 0 5 3 1 9 4).2 = .apply ∧ ((s 9).dedup 0 5 2 1 9 6).2 = .apply ∧ ((s 9).dedup 0 5 2 1 9 4).2 = .drop ∧ ((s 9).dedup 0 5 2 1 10 4).2 = .apply ∧
    ((s 9).dedup 0 5 2 1 8 4).2 = .stale ∧ ((s 0).dedup 0 5 2 1 32767 4).2 = .apply ∧ ((s 0).dedup 0 5 2 1 32768 4).2 = .stale := by decide +kernel

/-- A flit from module 6. -/
def flitB (seq : Nat) (ok : Bool) (b : FlitBody) : Flit := { seq := seq, crcOk := ok, src := 6, body := b }

theorem witness_links : let k := seamB [(0, 3)] [(0, 6)] []
    let s : State := { seamOn k with links := [(2, { Link.atReset with recvSeq := 5 })], ns := 10000000 }
    (s.link 2).recvSeq = 5 ∧ (flitB 6 true .heartbeat).crcOk = true ∧ (flitB 4 true .heartbeat).seq < 5 ∧ (flitB 5 false .heartbeat).crcOk = false ∧
    s.seamCmd 0 7 = some k ∧ k.sent.find? 0 = some (flitB 5 true (.reply 0 7 0 0 0 false [])).src ∧ k.served.find? 0 = none ∧
    (s.link 2).lastSent + 100000 ≤ s.ns ∧ ¬ ((base.link 2).lastSent + 100000 ≤ base.ns) ∧ 6 ≤ 8191 ∧ 6 ≠ s.boot.modId ∧ 6 ∉ s.isolated ∧ Map.get 0 s.heard 6 + 10000000 ≤ s.ns := by decide +kernel
/-! ### Witnesses: traps, privilege, the monitor -/

theorem witness_window : let w := { w0 with alloc := 2 }
    (on (fun _ => w) id).cur = some c0 ∧ (on (fun _ => w) id).warp? 0 = some w ∧ w.windowFails (.add (rr 3 1 2)) = true ∧ encode (.add (rr 3 1 2)) ≠ [] := by decide +kernel

/-- The warp with this trap vector. -/
def wTrap (v : Nat) : WarpCore := { w0 with trapvec := BitVec.ofNat 64 v }

theorem witness_traps : (∀ v ∈ [0, 0x3000], Issuing (on (fun _ => wTrap v) id) c0 (wTrap v) (.trap (rr 0 0 9)) ∧ (wTrap v).depth = 0 ∧ (wTrap v).handler = none ∧ (wTrap v).live &&& ~~~c0.lanes ≠ 0) ∧
    (∀ l < 32, ((wTrap 0).lane l).role = .none) ∧ (wTrap 0x3000).trapvec ≠ 0 ∧ (wTrap 0x3000).stores = [] ∧ (wTrap 0).trapvec = 0 ∧
    okWith ((on (fun _ => wTrap 0x3000) id).engineTranslate (wTrap 0x3000).party ((on id id).asidOf w0) .store ((on id id).saveSlot w0)) (fun s1 y => keyed s1 y.1.okey y.2 320) = true := by
  refine ⟨fun v hv => ⟨⟨?_, ?_, ?_⟩, ?_, ?_, ?_⟩, by decide +kernel, by decide +kernel, by decide +kernel, by decide +kernel⟩ <;> (revert v; decide +kernel)

/-- Lane 0 handles a trap of lanes 0 and 1. -/
def wTret (pc : Nat) : WarpCore :=
  { w0 with handler := some { lane := 0, frame := 0x10000000, sub := { num := 0, lanes := 3, pc := 0x1800, trap := trapOf .softTrap 0, insn := 0, pair := false, wide := false } }
            frontier := [{ prio := 15, pc := 0x1000, lanes := 1, state := .ready }, { prio := 0, pc := pc, lanes := 2, state := .trapped 0 }] }
/-- Its frame keeps both lanes; the handler has sent lane 1 on to 0x4000. -/
def tretOn (s : State) : State :=
  { s with mem := (s.mem.write 0x10000000 (bytesOfNat 64 (3 * 2 ^ 32 + 0x1800 * 2 ^ 128))).write 0x10000040 (bytesOfNat 8 0x1800 ++ bytesOfNat 8 0x4000) }

theorem witness_tret : (∀ i ∈ ([.tret (rr 0 0 0), .tretSkip (rr 0 0 0)] : List Instr), Issuing (on (fun _ => wTret 0x1800) tretOn) c0 (wTret 0x1800) i ∧ Issuing (on id id) c0 w0 i) ∧ w0.handler = none ∧
    (wTret 0x1800).subs = [] ∧ c0.lanes = laneBit 0 ∧ hasLane (wTret 0x1800).live 0 = true ∧
    okWith ((on (fun _ => wTret 0x1800) tretOn).readFrame c0 (wTret 0x1800) 0x10000000) (fun _ b =>
      decide ((3 : Mask) &&& ~~~(BitVec.ofNat 32 (bits (natOfBytes (b.take 64)) 63 32)) = 0) &&
      decide (bits (natOfBytes ((b.drop 64).take 8)) 56 2 * 4 = bits (natOfBytes (b.take 64)) 184 128) &&
      decide (bits (natOfBytes ((b.drop 72).take 8)) 56 2 * 4 ≠ bits (natOfBytes (b.take 64)) 184 128)) = true := by
  refine ⟨fun i hi => ⟨⟨?_, ?_, ?_⟩, ?_, ?_, ?_⟩, ?_, ?_, ?_, ?_, ?_⟩ <;> first | decide +kernel | (revert i; decide +kernel)

theorem witness_fault_queue : let s := on id id
    (match s.ctxs.find? 1 with | some x => decide (x.rcd.faultq = 0x20000000) && decide (x.rcd.fqcap = 16) | none => false) = true ∧ (s.launches.find? 1).isSome = true ∧
    okWith ((s.modLaunch 1 (fun l => { l with faulted := true })).engineTranslate .dev 1 .load 0x20000000) (fun s1 y => clean s1 y.1.okey y.2 8 && (wordKeys y.2 8).all (fun k => !offends .dev (s.histOf k)) &&
      decide (natOfBytes (s.mem.bytes y.2 8) = 0) && okWith (s1.engineTranslate .dev 1 .store 0x20000000) (fun _ _ => true) && okWith (s1.engineTranslate .dev 1 .store 0x20000040) (fun s2 z => keyed s2 z.1.okey z.2 64 &&
        okWith ((s2.engineWrite none z.1.okey z.2 (List.replicate 64 7)).engineTranslate .dev 1 .store 0x20000000) (fun s3 x => keyed s3 x.1.okey x.2 4))) = true := by decide +kernel

theorem witness_denied : let d : DeniedStore := { wid := 0, token := 1, launch := 1, lane := 0, va := 0, pc := 0, insn := 0 }
    let s : State := { on id id with denied := [d] }
    s.denied = [d] ∧ (s.launches.find? d.launch).isSome = true ∧ (on id id).denied = [] := by decide +kernel

/-- v6 and v7 hold the value that a control register is given. -/
def wCtl (v : Nat) : WarpCore := pair 6 v w0

theorem witness_control : (∀ n ∈ [0, 1, 2, 3, 4, 11], ∀ v ∈ [0x3000, 0x3001], Issuing (on (fun _ => wCtl v) id) c0 (wCtl v) (.wrctl (rr 0 6 n)) ∧ Issuing (on (fun _ => wCtl v) id) c0 (wCtl v) (.rdctl (rr 3 0 n))) ∧
    ((rr 0 6 3).pairA (on (fun _ => wCtl 0x3000) id) (wCtl 0x3000) 0).toNat % 4 = 0 ∧ ((rr 0 6 3).pairA (on (fun _ => wCtl 0x3001) id) (wCtl 0x3001) 0).toNat % 4 ≠ 0 := by
  refine ⟨fun n hn v hv => ⟨⟨?_, ?_, ?_⟩, ?_, ?_, ?_⟩, ?_, ?_⟩ <;> first | decide +kernel | (revert n v; decide +kernel)

/-- The warp belongs to the context with ASID 0. -/
def privOn (s : State) : State :=
  { s with
    mem := s.mem.write s.fw.rootArray (bytesOfNat 8 0x3FE0020001)
    ctxs := s.ctxs.insert 0 fetchContext
    launches := s.launches.insert 1 { fetchLaunch with asid := 0 } }
/-- v6 the ASID, v8 a deadline, v9 whose translations. -/
def wX (a : Nat) : WarpCore := set 0 6 a (set 0 8 5 (set 0 9 0 w0))
/-- Its machine, in the context of ASID 0 or of ASID 1. -/
def sX (p : Bool) (a : Nat) : State := on (fun _ => wX a) (if p then privOn else id)

theorem witness_context_control : (∀ p ∈ [false, true], ∀ a ∈ [1, 9], ∀ i ∈ ([.ctxsave (rr 3 6 8), .ctxload (rr 3 6 8), .ctxloadRearm (rr 3 6 8), .tlbinv (rr 0 4 8)] : List Instr),
      Issuing (sX p a) c0 (wX a) i) ∧ undoomed (wX 1) c0.lanes = true ∧ (sX false 1).asidOf (wX 1) ≠ 0 ∧ (sX true 1).asidOf (wX 1) = 0 ∧ (sX true 9).ctxs.find? ((rr 3 6 8).vA (sX true 9) (wX 9) 0).toNat = none ∧
    ((sX true 1).ctxs.find? ((rr 3 6 8).vA (sX true 1) (wX 1) 0).toNat).isSome = true ∧ (sX true 1).hasResident 1 = false ∧ (sX true 1).hasResident 0 = true ∧
    ((rr 0 4 8).vB1 (sX false 1) (wX 1) 0).toNat % 4096 ≠ (sX false 1).asidOf (wX 1) ∧ ((rr 0 4 8).vB1 (sX true 1) (wX 1) 0).toNat % 4096 = (sX true 1).asidOf (wX 1) := by
  refine ⟨fun p hp a ha i hi => ⟨?_, ?_, ?_⟩, ?_⟩ <;> first | decide +kernel | (revert p a i; decide +kernel)

/-- Arguments of the monitor from v0 on. -/
def wM (vs : List Nat) : WarpCore := vs.zipIdx.foldl (fun w e => set 0 e.2 e.1 w) w0
/-- Its machine. -/
def sM (p : Bool) (vs : List Nat) (f : State → State) : State := on (fun _ => wM vs) (fun s => f (if p then privOn s else s))

theorem witness_monitor_issue : ∀ p ∈ [false, true], ∀ i ∈ ([.smcVersion (rr 0 0 0), .smcVersion (rr 0 0 9), .smcAttest (rr 0 0 1), .smcLoadKeySlot (rr 0 0 2), .smcSetRegionEntry (rr 0 0 3),
    .smcReadErrorCounters (rr 0 0 4), .smcPowerState (rr 0 0 5), .smcBindFabricJob (rr 0 0 6), .smcLoadSnapshot (rr 0 0 8), .smcSnapshot (rr 0 0 7)] : List Instr),
    Issuing (sM p [0x4000] id) c0 (wM [0x4000]) i := by
  intro p hp i hi
  refine ⟨?_, ?_, ?_⟩ <;> (revert p i; decide +kernel)

/-- A snapshot of a member of module 3. -/
def snapB : Snapshot :=
  { modId := 3, asid := 9, gen := 1, record := 0, root := 0, store := 0, frames := [], mem := [], undef := [], ctx := fetchContext, saved := [], bcus := [], graphs := [], launches := [], cores := [], bankSaves := [], widens := [],
    gathers := [], keyeds := [], jobs := [], dedup := [] }

theorem witness_monitor : undoomed (wM [0]) c0.lanes = true ∧
    someWith ((sM false [0x4000] id).homeRead 1 0x4000 8) (fun s1 _ => (s1.cpWrite 1 .dev 0x4000 (List.replicate 16 7)).2) = true ∧ ((sM false [0x4000] id).homeRead 1 (2 ^ 40) 8).2 = none ∧
    (sM false [5] id).warpWorld (wM [5]) = true ∧ (on id (fun s => { s with ctxs := s.ctxs.modify 1 (fun x => { x with rcd := { x.rcd with world := false } }) })).warpWorld w0 = false ∧
    someWith ((sM false [5, 0x4000] id).homeRead 1 0x4000 48) (fun _ _ => true) = true ∧ ((sM false [5, 0, 256] id).homeRead 1 (2 ^ 40) 48).2 = none ∧
    ((sM true [1, 5, 0, 0, 256, 2] id).homeRead 0 (2 ^ 40) 32).2 = none ∧
    (
      let e := 0x80000000 + (3 * 2 ^ 32 + 18 * 2 ^ 34) * 2 ^ 64
      18 ≤ bits e 103 98 ∧ bits e 103 98 ≤ 52 ∧ bits e 51 18 * 2 ^ 18 % 2 ^ bits e 103 98 = 0) ∧
    (sM true [1, 0] id).asidOf (wM [1, 0]) = 0 ∧ (sM false [1, 0] id).asidOf (wM [1, 0]) ≠ 0 ∧ ((sM true [1] id).ctxs.find? 1).isSome = true ∧ (sM true [9] id).ctxs.find? 9 = none ∧
    someWith ((sM true [1, 5, 0, 0x4000, 0, 2] id).homeRead 0 0x4000 32) (fun _ _ => true) = true ∧
    (
      let s := sM true [9, 3] (fun s => { s with snapshots := [snapB] })
      s.snapshots.find? (fun x => decide (x.asid = 9) && decide (x.modId = 3) && decide (x.store = 0)) = some snapB ∧ s.clearFor snapB = true ∧
        ({ s with ctxs := s.ctxs.insert 9 fetchContext } : State).clearFor snapB = false) ∧
    (
      let s := sM true [1, 0] (fun s => { s with jobs := [{ asid := 1, key := 5, members := [] }] })
      (s.ctxs.find? 1).isSome = true ∧ s.jobs.any (fun j => decide (j.asid = 1)) = true ∧ (sM true [1, 0] id).jobs.any (fun j => decide (j.asid = 1)) = false) := by decide +kernel

theorem witness_access_faults : let s := on id spadOn
    inAperture 0x2001 4 = false ∧ 0x2001 % 4 ≠ 0 ∧ inAperture 0xFFFFF00000000000 8 = true ∧ s.spadFail 0 1 0x20000 4 = some 0x20000 ∧
    (match (s.lookup w0.party 1 0x2000).2.1 with
      | some x => !s.isReserved (x.pa 0x2000) && ({ s with boot := { s.boot with reserved := [(x.pa 0x2000 / 2 ^ 18 * 2 ^ 18, 2 ^ 18)] } } : State).isReserved (x.pa 0x2000)
      | none => false) = true ∧ (s.lookup w0.party 1 (2 ^ 40)).2.1 = none ∧
    (match (s.lookup w0.party 1 0x2000).2.1 with | some x => x.world && x.grants .load && s.regionAllows (s.warpWorld w0) (x.pa 0x2000) | none => false) = true ∧
    (match ((on id (fun s => { s with mem := s.mem.write 0x3FE0040000 (bytesOfNat 8 0x03) })).lookup w0.party 1 0x2000).2.1 with
      | some x => !x.world && x.grants .load && !x.grants .store
      | none => false) = true := by decide +kernel

theorem witness_regions : let e : Region := { en := true, nsok := true, logsz := 20, base := 0x100000 }
    let s : State := { on id id with regions := [(3, e)] }
    s.regions = [] ++ (3, e) :: [] ∧ e.en = true ∧ e.base ≤ 0x100000 ∧ 0x1FFFFF < e.base + 2 ^ e.logsz ∧ ¬ (e.base ≤ 0xFFFFF ∧ 0xFFFFF < e.base + 2 ^ e.logsz) ∧
    ¬ (e.base ≤ 0x200000 ∧ 0x200000 < e.base + 2 ^ e.logsz) := by decide +kernel
/-! ### Witnesses: launches, eviction, the command processor, reset, the host, the machine as a whole -/

/-- A core that is idle for launch 1, which has one chunk. -/
def idleB (chunks : Nat) : State := on id (fun s => { s with launches := s.launches.insert 1 { fetchLaunch with tickets := [(0, 0, chunks)] } })
/-- Without its warp. -/
def noWarps (s : State) : State := { s with warps := [], cur := none }

theorem witness_chunks : (match (noWarps (idleB 1)).launches.find? 1 with | some l => (noWarps (idleB 1)).wants 0 1 l && decide (l.ticket (dieOf 0) = some (0, 0)) &&
      (match chooseSlots ((noWarps (idleB 1)).slotsUsed 0) l.alloc l.warps with | some ns => decide (ns = [0]) | none => false) | none => false) = true ∧
    (noWarps (idleB 1)).outranked 0 1 = false ∧ (noWarps (idleB 1)).roomFor 0 1 = true ∧
    (match (noWarps (idleB 0)).launches.find? 1 with | some l => (noWarps (idleB 0)).wants 0 1 l | none => true) = false := by decide +kernel

/-- The warp of the small machine with its help frames. -/
def warpB : Warp := { run := w0, help := [] }
/-- A saved warp. -/
def savedB : SavedWarp := { wid := 0, warp := warpB, byCall := none, marked := none }

theorem witness_save : let s : State := { on id spadOn with evicting := [0] }
    let s1 := (State.boundary (s.modRun 0 WarpCore.drainRegs) 0 .dev false).moveMonitors 0
    s.warps.find? 0 = some warpB ∧ s.evicting.contains 0 = true ∧ s.saveReady warpB = true ∧
    (match s1.warps.find? 0 with | some x => ((s1.saveWarpImage x).warps.find? 0).isSome | none => false) = true ∧ (s1.warps.map Prod.fst).Nodup ∧
    ((on id spadOn).evicting.contains 0 && (on id spadOn).saveReady warpB) = false := by decide +kernel

theorem witness_restore : let s : State := { noWarps (on id spadOn) with saved := [savedB] }
    s.saved.find? (fun v => decide (v.wid = 0) && decide (v.byCall = none) && s.turnOf v && s.ctxRuns (s.asidOf v.warp.run)) = some savedB ∧ savedB.fits s = true ∧
    (s.readSlot warpB).2 = none ∧ savedB.waits = [] ∧ (((s.readSlot warpB).1.placeContext 0 1).banksOf 0 1) ≠ [] ∧
    (((s.readSlot warpB).1.placeContext 0 1).savedAs savedB) = savedB ∧ (({ on id spadOn with saved := [savedB] } : State).contextsOn 0).contains 1 = true ∧ base.saved = [] := by decide +kernel

/-- READY, with a context record of ASID 9 that is valid, or not. -/
def readyB (v : Nat) : State :=
  { noWarps base with boot := { base.boot with ready := true }, mem := base.mem.write (base.fw.ctxTable + 64 * 9) (bytesOfNat 64 (v * 2 ^ 192 + 16 * 2 ^ 352 + 0x20000000 * 2 ^ 384 + 0x10000000 * 2 ^ 448)) }
/-- A queue of 16 entries at 0x9000 with one entry. -/
def queueB : Queue := { base := 0x9000, caplog := 4, prio := 3, stopped := false, graph := none, reg := none, since := 0 }
/-- Its machine. -/
def queuedB : State :=
  { readyB 0 with
    ctxs := (readyB 0).ctxs.modify 1 (fun x => { x with queues := [(0, queueB)] })
    mem := ((readyB 0).mem.write 0x9000 (bytesOfNat 64 1)).write 0x9040 (bytesOfNat 8 0xA000 ++ bytesOfNat 8 0xB000) }

theorem witness_contexts : (readyB 0).boot.ready = true ∧ (readyB 0).ctxs.find? 9 = none ∧ ((readyB 0).callRecord 9).recordValid 9 = false ∧ ((readyB 1).callRecord 9).recordValid 9 = true ∧
    ((readyB 0).ctxs.find? 1).isSome = true ∧ ((readyB 0).callRecord 1).recordValid 1 = false ∧ (readyB 0).fw.genWords % 4 = 0 ∧ (readyB 0).barriers.all (fun e => keyed (readyB 0) 0 ((readyB 0).genWord e.1) 4) = true ∧
    (match queuedB.ctxs.find? 1 with | some x => decide (x.queues.find? 0 = some queueB) && !x.bad && queuedB.ctxRuns 1 && queueB.open_ && decide (queuedB.graphs.length + queuedB.queuesBefore 1 0 queueB < 256) | none => false) = true ∧
    someWith (queuedB.homeRead 1 0x9000 64) (fun s1 h => decide (bits h 31 0 = 1) && decide (bits h 63 32 = 0) && someWith (s1.homeRead 1 0x9040 32) (fun s2 e =>
      decide (bits e 63 0 ≠ 0) && (s2.cpWrite 1 .dev 0x9040 (bytesOfNat 8 0)).2)) = true := by decide +kernel

/-- A graph run at a node of these 512 bits, reached from another one. -/
def runB (node : Nat) (from_ : Option Nat) : GraphRun :=
  { asid := 1, queue := 0, graph := 0xA000, done := 0xB000, node := node, from_ := from_, phase := .atNode, status := 0, faults := 0, tstart := none, since := 0, held := 0 }
/-- Its machine. -/
def graphB (v node : Nat) (from_ : Option Nat) (ms : List (Nat × List Byte)) : State :=
  { noWarps (on id (taskOn ms)) with graphs := [(0, runB node from_)], mem := ((noWarps (on id (taskOn ms))).mem.write (0xA000 + 64 * node) (bytesOfNat 64 v)) }
/-- What the statement on graphs asks of a node. -/
def nodeB (s : State) (type : Nat) (q : State → GraphRun → Nat → Bool) : Bool :=
  match s.graphs.find? 0 with
  | some r => s.ctxRuns r.asid && someWith (s.readNode { r with tstart := some (r.tstart.getD s.ns) } r.node) (fun s1 v =>
      nodeReserved v && nodeRanges r.node v && decide (nodeType v = type) && q s1 { r with tstart := some (r.tstart.getD s.ns), held := v } v)
  | none => false

/-- A KERNEL of one warp at 0x2000, one iteration. -/
def kernelB : Nat := 1 + 15 * 2 ^ 85 + 0x2000 * 2 ^ 128 + 2 ^ 288 + 2 ^ 320
/-- A TASKROOT with its record at 0x5000 and its areas. -/
def taskrootB : Nat := 2 + 15 * 2 ^ 85 + 0x5000 * 2 ^ 128 + 0x200000 * 2 ^ 320 + 0x300000 * 2 ^ 384

theorem witness_launch_nodes : nodeB (graphB kernelB 0 none []) 1 (fun s1 r v => someWith (s1.askLaunch 0 r v false) (fun _ _ => true)) = true ∧
    nodeB (graphB taskrootB 0 none []) 2 (fun s1 r v => someWith (s1.askLaunch 0 r v true) (fun s2 l => (s2.cpWrite 1 .dev (0x5000 + 16) (bytesOfNat 8 0 ++ bytesOfNat 8 (ctlWord 0 0 true l.job))).2)) = true := by
  decide +kernel

theorem witness_flow_nodes : nodeB (graphB (3 + 0x4000 * 2 ^ 64 + 0x6000 * 2 ^ 128 + 64 * 2 ^ 192) 0 none []) 3 (fun _ _ _ => true) = true ∧
    (∀ x ∈ [0, 1], nodeB (graphB (4 + 7 * 2 ^ 48 + 0x4000 * 2 ^ 64 + x * 2 ^ 128) 0 none []) 4 (fun s1 r _ => someWith (s1.nodeHolds r) (fun _ b => decide (b = decide (x = 0)))) = true) ∧
    (∀ n ∈ [0, 2], nodeB (graphB (5 + 3 * 2 ^ 32 + 2 * 2 ^ 48 + 0x4000 * 2 ^ 64 + 0x4100 * 2 ^ 256) 1 (some 4) [(0x4100, bytesOfNat 4 n)]) 5 (fun s1 r v =>
      decide (r.from_ = some (r.node + bits v 47 32)) && someWith (s1.homeRead 1 0x4100 4) (fun s2 m => decide (m = n) &&
        if n = 0 then someWith (s2.nodeHolds r) (fun s3 b => b && (s3.cpWrite 1 .dev 0x4100 (bytesOfNat 4 1)).2) else (s2.loopsEnding r 4 1).isEmpty)) = true) ∧
    nodeB (graphB (5 + 3 * 2 ^ 32 + 2 * 2 ^ 48 + 0x4000 * 2 ^ 64 + 2 ^ 128 + 0x4100 * 2 ^ 256) 1 (some 4) [(0x4100, bytesOfNat 4 0)]) 5 (fun s1 r _ =>
      someWith (s1.homeRead 1 0x4100 4) (fun s2 m => decide (m = 0) && someWith (s2.nodeHolds r) (fun s3 b => !b && (s3.loopsEnding r 4 1).isEmpty))) = true := by decide +kernel

theorem witness_word_nodes : nodeB (graphB (6 + 0x4000 * 2 ^ 64 + 5 * 2 ^ 128 + 100 * 2 ^ 224) 0 none []) 6 (fun s1 _ v => okWith (s1.engineTranslate .dev 1 .load 0x4000) (fun s2 y =>
      decide (s2.admitPlace y.2 ≠ .held) && clean s2 y.1.okey y.2 4 && s2.regionAllows (s2.worldOf 1) y.2 &&
      (wordKeys y.2 4).all (fun x => !offends .dev (s2.histOf x)) && !cmpHolds (bits v 194 192) (bit v 195) 0 5)) = true ∧
    nodeB (graphB (7 + 0x4000 * 2 ^ 64 + 5 * 2 ^ 128) 0 none []) 7 (fun s1 _ v => !bit v 193 && okWith (s1.engineTranslate .dev 1 .store 0x4000) (fun s2 y => decide (y.2 % 4 = 0) && keyed s2 y.1.okey y.2 4)) = true ∧
    nodeB (graphB 0 0 none []) 0 (fun _ _ _ => true) = true ∧ (nodeReserved 9 = false) ∧
    someWith ((graphB 9 0 none []).readNode (runB 0 none) 0) (fun _ v => decide (v = 9)) = true := by decide +kernel

theorem witness_copy_node : let r : GraphRun := { runB 0 none with held := 3 + 0x4000 * 2 ^ 64 + 0x6000 * 2 ^ 128 + 64 * 2 ^ 192 }
    let s := graphB r.held 0 none []
    0x4000 + 64 ≤ 0x6000 ∧ s.loopsEnding r 0 0 = [] ∧ okWith (s.engineTranslate .dev 1 .load (0x4000 + 63)) (fun s1 y => okWith (s1.engineTranslate .dev 1 .store (0x6000 + 63)) (fun s2 z =>
      engineClean s2 .dev y.1.okey y.2 1 && keyed s2 z.1.okey z.2 1)) = true := by decide +kernel

theorem witness_host : State.reset.boot.ready = false ∧ State.reset.boot.failed = false ∧ (readyB 0).boot.ready = true ∧ populated 0x4000 = true ∧ keyed (readyB 0) 0 0x4000 8 = true ∧
    clean (readyB 0) 0 0x4000 4 = true ∧ engineClean (readyB 0) .sys 0 (0x8000000000004000 % 2 ^ 63) 4 = true := by decide +kernel

/-- Group 3, with one arrival, is assigned to the context. -/
def groupB : State :=
  { readyB 0 with
    ctxs := (readyB 0).ctxs.modify 1 (fun x => { x with rcd := { x.rcd with bgbase := 0, bgcount := 8 } })
    barriers := [(3, { x := 0, y := 0, logw := 0, logh := 0, slots := 3, expect := 2, arrived := 1, gen := 0, heldSet := none })] }

theorem witness_groups : (groupB.barriers.all (fun e => keyed groupB 0 (groupB.genWord e.1) 4) && groupB.groupOf 1 3) = true ∧
    next (.contextCreate 1) groupB (fun t => t.barriers.isEmpty) = true := by decide +kernel

theorem witness_tables : Table.sortedFrom 0 base.warps = true ∧ Table.sortedFrom 0 base.regs = true ∧ (match step base with | .next t => !t.warps.isEmpty | _ => false) = true := by decide +kernel

theorem witness_round_trip : encode (.addi (ii 5 5 0x7FD)) ≠ [] ∧ (Instr.addi (ii 5 5 0x7FD)).wellFormed = true ∧ wordsOf 0x04142FFD = 1 ∧ decode 0x04142FFD 0 = .ok (.addi (ii 5 5 0x7FD)) := by decide +kernel

theorem witness_step : let s := base
    s.turn = .issue 0 0 ∧ (0 : Nat) < 384 ∧ (0 : Nat) < 4 ∧ s.recorded 0 0 = [] ∧ ((s.core 0).nextAt[0]?).getD 0 ≤ s.clk ∧
    (rotation 0 (((s.core 0).lastSlot[0]?).getD 0)).contains 0 = true ∧ (∀ p ∈ (rotation 0 (((s.core 0).lastSlot[0]?).getD 0)).takeWhile (fun p => decide (p ≠ 0)), s.attempt 0 0 (widOf 0 p) = none) ∧
    s.apertureStalled (widOf 0 0) = false ∧ s.warp? (widOf 0 0) = some w0 ∧ s.mayIssue w0 = true ∧
    (match bestEntry w0.frontier with
      | some e => decide (e.pc = 0x1000) && okWith (s.fetchWord w0 e.pc) (fun s1 w => decide (w = 0x34000007) && decide (wordsOf w = 1) && decide (decode w 0 = .ok (.nop (rr 0 0 0))) &&
          s.pipeFree 0 0 (issueOf (widOf 0 0) e w 0).insn && next (.nop (rr 0 0 0)) { s1 with cur := some (issueOf (widOf 0 0) e w 0) } (fun t => t.cur.isNone))
      | none => false) = true ∧
    okWith (s.translate w0.party (s.asidOf w0) (s.warpWorld w0) .fetch 0x1000) (fun s1 y => clean s1 y.1.okey y.2 4 && (wordKeys y.2 4).all (fun k => !offends .dev (s1.histOf k))) = true := by decide +kernel

theorem witness_fields : w0.out = [] := by decide

theorem witness_delivery : let t := Wait.mk' (.press 3) none (w0.resolve 8) false
    (on id id).warp? 0 = some w0 ∧ (laneBit 0 ≠ 0) ∧ (w0.entryOf (lowest (laneBit 0))).isSome = true ∧ t.looksAgain 0 = false ∧ (∀ id va i v st c, t.kind ≠ .qput id va i v st c) ∧ w0.out = [] := by
  refine ⟨by decide +kernel, by decide +kernel, by decide +kernel, by decide +kernel, ?_, by decide +kernel⟩
  intro id va i v st c h
  cases h

theorem witness_issued : ∃ c w, (on id id).cur = some c ∧ (on id id).warp? c.wid = some w := ⟨c0, w0, by decide +kernel⟩

theorem witness_memory : Safety.memoryOk base = true ∧ (match step base with | .next t => t.cur.isNone | _ => false) = true := by decide +kernel
/-! ### Witnesses: clauses at their ends -/

/-- `State.BanksCome`, evaluated. -/
def banksCome (s : State) (core launch : Nat) : Bool :=
  !(s.banksOf core launch).isEmpty || s.bankSaves.all (fun x => decide (x.core ≠ core) || decide (x.launch ≠ launch) || (decide (s.bankSave core launch = some x) &&
    (s.readSaves (s.launch launch).asid (x.nos.map (fun b => (s.coreArea (s.launch launch).asid core + 0x10000 * b, 0x10000)))).2.isNone))

theorem banksCome_spec {s : State} {core launch : Nat} (h : banksCome s core launch = true) : s.BanksCome core launch := by
  rcases (Bool.or_eq_true _ _).mp h with h | h
  · exact .inl (by simpa using h)
  · refine .inr (fun x hx h1 h2 => ?_)
    simpa [h1, h2] using List.all_eq_true.1 h x hx

/-- A launch's banks on core 0 are saved, and can be read back. -/
def banksSaved (s : State) : State :=
  { s with bankSaves := [{ core := 0, launch := 1, banks := [Bank.atReset], nos := [0] }], ctxs := s.ctxs.modify 1 (fun x => { x with rcd := { x.rcd with save := 2 ^ 64 - 0x3C0000000 + 0x100000 } }) }

theorem witness_banks_come : (∀ f ∈ [id, banksSaved], let s := f ((noWarps (idleB 1)).modLaunch 1 (fun l => l.take 0))
      banksCome (s.placeContext 0 1) 0 1 = true) ∧ (banksSaved base).bankSaves ≠ [] ∧ (noWarps (idleB 1)).launches.find? 1 ≠ none ∧
    (let s := (on id (taskOn [(0x5000, bytesOfNat 8 0x2000)])).modDarner 0 1 (fun d => { d with deque := [0x5000] })
      ∀ f ∈ [id, banksSaved], banksCome ((f s).placeContext 0 1) 0 1 = true) := by decide +kernel

theorem witness_future_owner : let W := wT 0x6000 0x55
    ∀ o ∈ [0, 5], let s := sT 0x6000 0x55 [(0x6000, bytesOfNat 8 0x5100), (0x5118, bytesOfNat 8 (ctlWord 0 o false 0))]
      okWith (s.waveAccess W .atomic 0x6000 16) (fun s1 y => let q := (((s1.publish c0.wid .dev).fillSpan y.1 y.2 16).readGlobal c0.wid W true y.1 0x6000 16).1
        decide (y.2 % 4 = 0) && decide (recordIn (natOfBytes (s.mem.bytes y.2 16)) = 0x5100) && decide (natOfBytes (s.mem.bytes y.2 16) % 4 = 0) &&
          okWith (q.ownerFaulted W 0x5100) (fun _ b => b == decide (o = 5))) = true := by decide +kernel

theorem witness_cancel_word : let W := set 0 8 7 (wT 0x4000 0x5400)
    let s : State := on (fun _ => W) (taskOn [])
    (s.launch W.launch).cancel = 0x300000 ∧ s.ctxs.all (fun e => e.2.swaps.isEmpty) = true ∧ okWith (s.waveAccess W .atomic (0x300000 + 7 / 8) 1) (fun s1 _ =>
      okWith (s1.waveAccess W .atomic 0x5400 4) (fun s2 y => someWith ((s2.publish 0 .dev).dRead 1 W.task 0x300000 1 W.token) (fun s4 old =>
        okWith (s4.engineTranslate .dev 1 .store 0x300000) (fun _ p => decide (p.2 < y.2 ∨ y.2 + 4 ≤ p.2)) &&
          (let x := s4.ctxWrite 1 0x300000 (bytesOfNat 1 (old ||| 2 ^ 7))
           x.2 && (x.1.queuedRecords 1).isEmpty && (let z := ((x.1.cancelJob 1 7).fillSpan y.1 y.2 4).readGlobal 0 W true y.1 0x5400 4
             z.1.regionAllows (z.1.warpWorld W) y.2 && decide (y.2 % 4 = 0)))))) = true := by decide +kernel

theorem witness_join_suspends : let W := wT 0x4000 0x6000
    let s := sT 0x4000 0x6000 [(0x5018, bytesOfNat 8 (ctlWord 1 1 false 0))]
    undoomed W c0.lanes = true ∧ (∀ k < 32, hasLane c0.lanes k = true → (W.lane k).role = .none ∧ (W.lane k).hosts = []) ∧
    okWith (s.waveAccess W .atomic 0x5000 32) (fun s1 _ => someWith (s1.control 1 0x5000 W.token) (fun s2 v => decide (v % 2 ^ 32 = 1) &&
      (let a0 := (s2.boundary 0 .dev false).storeRange W.core W.launch W.task W.token
       let a := a0.dWrite 1 0x5000 0x5000 (bytesOfNat 8 0x4000) W.token
       okWith (a.engineTranslate .dev 1 .atomic (0x5000 + 24)) (fun _ y => okWith (a0.engineTranslate .dev 1 .store 0x5000) (fun _ z => decide (z.2 + 8 ≤ y.2)))))) = true := by decide +kernel

theorem witness_wait_groups : let s := on (fun _ => wW) (fun s => groupsOn (spadOn s))
    (groupAsks (s.askLanes (lanesOf c0.lanes) (fun s l => s.askGlobal c0 wW (rr 3 4 6) false l)).2.2)[0]?.isSome = true ∧
    ({ s with regs := (List.range 64).map (fun i => (i, { regA with place := .monitor })) } : State).monitorFree wW.core = false := by decide +kernel

/-- Warp 0 waits on registration 5. -/
def waitsA : WarpCore := { w0 with frontier := [{ prio := 0, pc := 0x1000, lanes := 0xFFFFFFFF, state := .wait false (Wait.mk' (.mem 5) (some 9) .none false) }] }

theorem witness_registration_ends : let r : Registration := { regA with place := .warp }
    let s : State := { on (fun _ => waitsA) (regOn r) with ns := 10 }
    s.regs.find? 5 = some r ∧ r.met = false ∧ (9 : Nat) < s.ns ∧ s.warps.find? 0 = some { run := waitsA, help := [] } ∧ (Wait.mk' (.mem 5) (some 9) .none false).deadline = r.deadline := by decide +kernel

/-- A registration in a saved image is met by a write of it, before its deadline and not after. -/
theorem witness_registration_met : let r : Registration := { regA with place := .warp, key := savedBase + 0x2000 }
    let s (n : Nat) : State := { on id (regOn r) with ns := n }
    let t (n : Nat) : State := (s n).homeWrite { wid := none, core := none } .dev none 0 (savedBase + 0x2000) [1]
    savedBase ≤ savedBase + 0x2000 ∧ cmpHolds r.cmp r.w64 ((t 0).watched r) r.operand = true ∧ (s 0).ns ≤ 9 ∧ ¬ ((s 10).ns ≤ 9) ∧ (∀ wid tok x, r.owner ≠ .darner wid tok (some x)) :=
  ⟨by decide +kernel, by decide +kernel, by decide +kernel, by decide +kernel, fun _ _ _ h => by cases h⟩

/-- Two entries of warp 0 have the registration 5, and its code. -/
def sharesA : WarpCore :=
  let e (pc : Nat) (m : Mask) : Entry := { prio := 0, pc := pc, lanes := m, state := .wait false { Wait.mk' (.mem 5) none .none false with code := some 1 } }
  { w0 with frontier := [e 0x1000 0xFFFF0000, e 0x2000 0x0000FFFF] }

theorem witness_sharers : let s := on (fun _ => sharesA) id
    let t : Wait := { Wait.mk' (.mem 5) none .none false with code := some 1 }
    s.warp? 0 = some sharesA ∧ (0xFFFF0000, t, 1) ∈ sharesA.recorded ∧ (s.sharers (0, 0xFFFF0000, t, 1)).map (fun y => y.2.1) = [0x0000FFFF] ∧
    (∀ l < 32, (sharesA.frontier.filter (fun e => hasLane e.lanes l)).length ≤ 1) ∧ (∀ y ∈ s.sharers (0, 0xFFFF0000, t, 1), y.2.2.1.looksAgain y.2.2.2 = false) ∧
    ((on (fun _ => { sharesA with frontier := sharesA.frontier.take 1 }) id).sharers (0, 0xFFFF0000, t, 1)) = [] := by decide +kernel

theorem witness_fetch : let s := base
    okWith (s.translate w0.party (s.asidOf w0) (s.warpWorld w0) .fetch 0x1000) (fun s1 y => clean s1 y.1.okey y.2 4 && (wordKeys y.2 4).all (fun k => !offends w0.party (s1.histOf k)) &&
      s1.regionAllows (s1.warpWorld w0) y.2) = true := by decide +kernel

theorem witness_words_aligned : State.reset.fw.genWords % 4 = 0 ∧ keyB % 4 = 0 ∧ keyA % 4 = 0 := by decide +kernel

/-! ### Witnesses: the effects of Press commands -/

/-- In a state with no errors, no undefined bytes, no history and no keys, an engine reads every byte as memory holds it. -/
theorem engineClean_plain {s : State} (h1 : s.poison = []) (h2 : s.mixed = []) (h3 : s.undef = []) (h4 : s.hist = []) (h5 : s.byteKeys = []) (h6 : s.keys = []) (p : Party) (since : Since) (k n : Nat) :
    EngineClean s p since 0 k n := by
  have hh : ∀ x, s.histOf x = [] := fun x => by simp [State.histOf, h4]
  refine ⟨⟨.inr (fun x _ _ => by simp [State.tagAt, State.keyTag, h5, h6]), fun x _ _ => ?_⟩, fun x _ => ⟨by rw [hh]; rfl, fun y hy => ?_⟩⟩
  · simp [State.isUndef, State.torn, inRanges, h1, h2, h3]
  · simp only [State.engineChoices, hh, List.find?_nil, State.candidates, List.filter_nil, List.map_nil, floorOf, List.foldl_nil, List.nil_append, State.initialOf, List.getLast?_nil, ↓reduceIte, List.mem_singleton] at hy
    rw [hy]

/-- `PressClean`, evaluated. -/
def pressClean (s : State) (core : Nat) (p : PressCmd) (offs : List Nat) : Bool :=
  offs.all (fun o => match s.spadByte core p.launch o with
    | some k => isSpad k && engineClean s (.core core) 0 k 1
    | none => false)

theorem pressClean_spec {s : State} {core : Nat} {p : PressCmd} {offs : List Nat} (h : pressClean s core p offs = true) : PressClean s core p offs := by
  intro o ho
  have := List.all_eq_true.1 h o ho
  cases hk : s.spadByte core p.launch o with
  | none => rw [hk] at this; cases this
  | some k =>
    rw [hk] at this
    simp only [Bool.and_eq_true] at this
    exact ⟨k, rfl, this.1, engineClean_spec this.2⟩

/-- A plane of four rows of 32 elements s8. -/
def planeB : Plane := { fmt := some 12, geo := 0, rows := 4, cols := 32, vals := [(0, 5)], absent := [1], scales := [] }
/-- Press has the command alone, with that plane and a select unit of two ranks. -/
def runB5 (p : PressCmd) : State :=
  on (fun _ => wP5) (fun s => (spadOn s).modPress 0 (fun k => { k with owner := some 1, queue := [p], out := Map.set 0 k.out 0 1, active := planeB, select := some { k := 2, perRow := false, lines := 64, next := 0, first := 0, kept := [] } }))
/-- What `PressRuns` asks of every command. -/
def runs (s : State) (p : PressCmd) : Bool :=
  decide ((s.core 0).press.next = some p) && decide (p.num = some 1) && decide (p.rowsDone = 0) && !s.pressWaits 0 p && (s.core 0).press.lateFault p == none && s.pressDead 0 p == none

/-- A tile load, dense and sparse; streams of one row; the raw moves. -/
def lwB (pay : Nat) : PressCmd := cmdB (.mxlw (xx 0 1 0 pay)) (xx 0 1 0 pay)
def mmB (sparse : Bool) : PressCmd := if sparse then cmdB (.mxmms (xx 0 1 0 0)) (xx 0 1 0 0) else cmdB (.mxmm (xx 0 1 0 0)) (xx 0 1 0 0)

theorem witness_press_loads : (∀ pay ∈ [0, 2], let s := runB5 (lwB pay)
      runs s (lwB pay) = true ∧ bit (lwB pay).pay 0 = false ∧ pressClean s 0 (lwB pay) ((lwB pay).touches none) = true) ∧
    (∀ b ∈ [false, true], let s := runB5 (mmB b)
      runs s (mmB b) = true ∧ (mmB b).count = 1 ∧ pressClean s 0 (mmB b) ((mmB b).touches none) = true ∧ (s.tokWarp? (mmB b).token).isSome = true) := by decide +kernel

/-- An epilogue of one row of cells at 0, to nothing but the select unit, to the tile, or to a page; with scale and bias vectors at 0x800 and 0xC00. -/
def epB (pay : Nat) (pages : List (Nat × Leaf)) (opD : Nat) : PressCmd :=
  { cmdB (.mxep (xx 1 0 0 pay)) (xx 1 0 0 pay) with opA := 0, opB := 0x800, opB1 := 0xC00, pages := pages, opD := opD }
/-- The leaf of the identity page. -/
def leafB : Leaf := ((on id id).walk 1 0x4000).getD default

theorem witness_epilogue : (∀ p ∈ [epB (2 ^ 19) [] 0, epB (2 ^ 17 + 2 ^ 16 + 2 ^ 15) [] 0, epB (2 * 2 ^ 17 + 2 ^ 19) [(1, leafB)] 0x40000], let s := runB5 p
      runs s p = true ∧ p.count = 1 ∧ (p.dest ≠ 0 ∨ bit p.pay 19 = true) ∧ pressClean s 0 p (keysFrom p.opB 256) = true ∧ pressClean s 0 p (keysFrom p.opB1 256) = true ∧
      (elemFmt p.outFmt).isSome = true ∧ (s.core 0).press.select.isSome = true ∧
      (p.dest = 1 → s.spadKeys 0 1 (keysFrom (p.t.rowOff 0) p.outBytes) = .ok (keysFrom keyA p.outBytes)) ∧
      (p.dest = 2 → (p.pieces p.opD p.outBytes).map (fun (q : Piece) => (q.off, q.len)) = [(0, p.outBytes)] ∧ (p.pieces p.opD p.outBytes).all (fun q => s.regionAllows (s.worldOf 1) q.pa) = true)) ∧
    isSpad keyA = true := by decide +kernel

/-- A readout to 0x1000, and raw moves of three cells from 7 on. -/
def readB : PressCmd := { cmdB (.mxselRead (xx 0 0 0 0)) (xx 0 0 0 0) with opD := 0x1000 }
def movB (i : XArgs → Instr) : PressCmd := { cmdB (i (xx 0 0 0 2)) (xx 0 0 0 2) with opA := 0x1000, opD := 7 }

theorem witness_press_moves : runs (runB5 readB) readB = true ∧ (match (runB5 readB).spadKeys 0 1 (keysFrom 0x1000 1024) with | .ok l => decide (l = keysFrom keyB 1024) | .error _ => false) = true ∧
    ((runB5 readB).core 0).press.select.map Select.bytes = some 1024 ∧ runs (runB5 (movB .accld)) (movB .accld) = true ∧
    pressClean (runB5 (movB .accld)) 0 (movB .accld) ((movB .accld).touches none) = true ∧ runs (runB5 (movB .accst)) (movB .accst) = true ∧ (movB .accst).cells = 3 ∧
    (runB5 (movB .accst)).spadKeys 0 1 (keysFrom 0x1000 48) = .ok (keysFrom keyB 48) := by decide +kernel

/-- A load of the typed page at 0x80000000. -/
def pageB : PressCmd := { cmdB (.mxlw (xx 0 0 0 1)) (xx 0 0 0 1) with opA := 0x80000000, pages := [(2 ^ 13, { leafB with fmt := 12, frame := 0x40000000, big := false })] }

theorem witness_press_page : let s := runB5 pageB
    runs s pageB = true ∧ bit pageB.pay 0 = true ∧ planeFormat 12 = true ∧ pageB.opA % planeBytes 12 = 0 ∧
    pageB.pieces pageB.opA (planeBytes 12) = [{ leaf := { leafB with fmt := 12, frame := 0x40000000, big := false }, pa := 0x40000000, off := 0, len := planeBytes 12 }] ∧ leafB.okey = 0 ∧
    s.regionAllows (s.worldOf (s.launch pageB.launch).asid) 0x40000000 = true ∧ leafB.block = 0 ∧ ({ leafB with fmt := 12, geo := 1 } : Leaf).block ≠ 0 ∧
    s.poison = [] ∧ s.mixed = [] ∧ s.undef = [] ∧ s.hist = [] ∧ s.byteKeys = [] ∧ s.keys = [] := by decide +kernel

/-- An image at 0x100000, saved or loaded. -/
def imgB (i : XArgs → Instr) : PressCmd :=
  { cmdB (i (xx 0 2 0 0)) (xx 0 2 0 0) with opA := 0x100000, pages := (List.range 3).map (fun i => (4 + i, leafB)) }
/-- A machine whose memory holds these bytes, an image of `b`. -/
def imageFrom (s : State) (k : Nat) (l : List Byte) (b : Press) : State := { s with images := [(k, b)], mem := s.mem.write k l }

theorem witness_images : (∀ i ∈ [imgB .mxsave, imgB .mxload], runs (runB5 i) i = true ∧ i.opA % 4096 = 0 ∧ ((i.pieces i.opA imageBytes).map Piece.len).sum = imageBytes ∧
      (∀ q ∈ i.pieces i.opA imageBytes, q.pa = 0x100000 + q.off ∧ q.leaf.okey = 0 ∧ (runB5 i).regionAllows ((runB5 i).worldOf ((runB5 i).launch i.launch).asid) q.pa = true)) ∧
    (let s := runB5 (imgB .mxload)
     s.poison = [] ∧ s.mixed = [] ∧ s.undef = [] ∧ s.hist = [] ∧ s.byteKeys = [] ∧ s.keys = []) := by decide +kernel

theorem keysFrom_eq (k n : Nat) : keysFrom k n = (List.range n).map (k + ·) := by
  induction n generalizing k with
  | zero => rfl
  | succ n ih => simp [keysFrom, ih, List.range_succ_eq_map, Function.comp_def, Nat.add_assoc, Nat.add_comm 1]

theorem bytes_written (m : Memory) (k : Nat) (l : List Byte) : (m.write k l).bytes k l.length = l := by
  refine List.ext_getElem (by simp [Memory.bytes, keysFrom_eq]) (fun i h1 h2 => ?_)
  simp only [Memory.bytes, keysFrom_eq, List.getElem_map, List.getElem_range]
  exact Memory.byte_write m l k i _ (List.getElem?_eq_getElem h2)

theorem spadKeys_with (s : State) (l : List (Nat × Press)) (m : Memory) (core launch : Nat) (os : List Nat) :
    ({ s with images := l, mem := m } : State).spadKeys core launch os = s.spadKeys core launch os := by
  induction os with
  | nil => rfl
  | cons o r ih => simp only [State.spadKeys, ih]; rfl

theorem runs_with (s : State) (l : List (Nat × Press)) (m : Memory) (p : PressCmd) : runs { s with images := l, mem := m } p = runs s p := by
  unfold runs State.pressDead
  rw [spadKeys_with]
  rfl

theorem image_bytes (s : State) (k : Nat) (l : List Byte) (b : Press) : (imageFrom s k l b).mem.bytes k l.length = l := bytes_written _ _ _

/-- The image behind the cells is the one last saved there, and its bytes are that Press's still. -/
theorem witness_image_kept (k : Nat) (l : List Byte) (b : Press) : let s := imageFrom (runB5 (imgB .mxload)) k l b
    runs s (imgB .mxload) = true ∧ s.images = [(k, b)] ∧ s.mem.bytes k l.length = l ∧
    ∀ q ∈ (imgB .mxload).pieces (imgB .mxload).opA imageBytes, EngineClean s .dev (imgB .mxload).sinceOf q.leaf.okey q.pa q.len := by
  have h0 := witness_images.1 (imgB .mxload) (List.Mem.tail _ (List.Mem.head _))
  refine ⟨(runs_with _ _ _ _).trans h0.1, rfl, image_bytes _ _ _ _, fun q hq => ?_⟩
  rw [(h0.2.2.2 q hq).2.1]
  exact engineClean_plain (s := imageFrom (runB5 (imgB .mxload)) k l b) witness_images.2.1 witness_images.2.2.1 witness_images.2.2.2.1 witness_images.2.2.2.2.1 witness_images.2.2.2.2.2.1 witness_images.2.2.2.2.2.2 _ _ _ _

theorem witness_image_tail (b : Press) : let l := bytesOfNat (imageBytes - 12 * Config.accCells) (Config.imageTail b)
    (imageFrom (runB5 (imgB .mxload)) (0x100000 + 12 * Config.accCells) l b).mem.bytes (0x100000 + 12 * Config.accCells) l.length = l := image_bytes _ _ _ _

/-! ### Witnesses: the FLOAT cell -/

theorem witness_float_groups : let one : FVal := .fin false 1 0
    let p (a : FVal) (sa : Nat) : Prod := { a := a, w := one, sa := sa, sw := 127 }
    (p one 255).sa = 255 ∧ (p one 127).sa ≠ 255 ∧ (∃ x ∈ [p one 127, p .nan 127], x.a = .nan ∨ x.w = .nan) ∧
    (∀ x ∈ [p one 127, p (.fin true 1 0) 127], x.a.special = false ∧ x.w.special = false) ∧ cellFmt.decode (0 : BitVec 96).toNat = .fin false 0 (-16462) := by decide +kernel

theorem witness_float_sums : let one : FVal := .fin false 1 0
    FVal.num one * FVal.num one = 1 ∧ FVal.num one * FVal.num one + FVal.num (.fin true 1 0) * FVal.num one = 0 := by
  constructor <;> norm_num [FVal.num]
end Sys2Proof.Tests
end

section
/-! PROOF. Integer and bitwise instructions (R107 to R117). `aluR_completes` and `aluI_completes` say what such an instruction does to the machine; what is left is one equation or one reading of bits for each function on words, and these are the lemmas here. -/

namespace Sys2Proof.Machine

/-! ### Sums and products (R107, R108) -/

theorem add_eq_ofNat (a b : Word) : a + b = BitVec.ofNat 32 ((a.toNat + b.toNat) % 2 ^ 32) :=
  BitVec.eq_of_toNat_eq (by simp)

theorem sub_eq_ofInt (a b : Word) : a - b = BitVec.ofInt 32 ((a.toNat : Int) - b.toNat) := by
  apply BitVec.eq_of_toNat_eq
  simp only [BitVec.toNat_sub, BitVec.toNat_ofInt]
  omega

theorem mul_eq_ofNat (a b : Word) : a * b = BitVec.ofNat 32 (a.toNat * b.toNat % 2 ^ 32) :=
  BitVec.eq_of_toNat_eq (by simp)

theorem mul_add_eq_ofNat (d a b : Word) : a * b + d = BitVec.ofNat 32 ((a.toNat * b.toNat + d.toNat) % 2 ^ 32) :=
  BitVec.eq_of_toNat_eq (by simp)

/-- The quotient by 2^32 rounds down, so it agrees with bits [63:32] of a negative product too. -/
theorem mulhS_eq_extractLsb' (a b : Word) : mulhS a b = (BitVec.ofInt 64 (a.toInt * b.toInt)).extractLsb' 32 32 := by
  unfold mulhS
  generalize a.toInt * b.toInt = p
  apply BitVec.eq_of_toNat_eq
  simp only [BitVec.toNat_ofInt, BitVec.extractLsb'_toNat, Nat.shiftRight_eq_div_pow]
  omega

theorem mulhU_eq_extractLsb' (a b : Word) : mulhU a b = (BitVec.ofNat 64 (a.toNat * b.toNat)).extractLsb' 32 32 := by
  unfold mulhU
  generalize a.toNat * b.toNat = p
  apply BitVec.eq_of_toNat_eq
  simp only [BitVec.toNat_ofNat, BitVec.extractLsb'_toNat, Nat.shiftRight_eq_div_pow]
  omega

/-! ### Division (R109, Table 6-2) -/

/-- Table 6-2's row for the quotient 2^31 is what the general formula gives modulo 2^32. -/
theorem divS_eq_tdiv (a b : Word) : divS a b = if b = 0 then 0xFFFFFFFF else BitVec.ofInt 32 (a.toInt.tdiv b.toInt) := by
  unfold divS
  by_cases hover : a = 0x80000000 ∧ b = 0xFFFFFFFF
  · obtain ⟨rfl, rfl⟩ := hover; decide
  · rw [if_neg hover]

theorem modS_eq_sub (a b : Word) :
    modS a b = if b = 0 then 0xFFFFFFFF else BitVec.ofInt 32 (a.toInt - a.toInt.tdiv b.toInt * b.toInt) := by
  rw [Int.mul_comm, ← Int.tmod_def]
  unfold modS
  by_cases hover : a = 0x80000000 ∧ b = 0xFFFFFFFF
  · obtain ⟨rfl, rfl⟩ := hover; decide
  · rw [if_neg hover]

theorem divU_eq_div (a b : Word) : divU a b = if b = 0 then 0xFFFFFFFF else BitVec.ofNat 32 (a.toNat / b.toNat) := by
  rw [divU, BitVec.udiv_def]

theorem modU_eq_sub (a b : Word) :
    modU a b = if b = 0 then 0xFFFFFFFF else BitVec.ofNat 32 (a.toNat - a.toNat / b.toNat * b.toNat) := by
  rw [Nat.mul_comm, ← Nat.mod_eq_sub_mul_div, ← BitVec.toNat_umod, BitVec.ofNat_toNat, BitVec.setWidth_eq, modU]

/-! ### Minimum, maximum, magnitude and negation (R110) -/

theorem ite_slt_eq_min (a b : Word) : (if a.slt b then a else b) = BitVec.ofInt 32 (min a.toInt b.toInt) := by
  rw [min_def_lt, apply_ite (BitVec.ofInt 32), BitVec.ofInt_toInt, BitVec.ofInt_toInt]
  simp only [BitVec.slt_iff_toInt_lt]

theorem ite_slt_eq_max (a b : Word) : (if a.slt b then b else a) = BitVec.ofInt 32 (max a.toInt b.toInt) := by
  rw [max_def_lt, apply_ite (BitVec.ofInt 32), BitVec.ofInt_toInt, BitVec.ofInt_toInt]
  simp only [BitVec.slt_iff_toInt_lt]

theorem ite_ult_eq_min (a b : Word) : (if a.ult b then a else b) = BitVec.ofNat 32 (min a.toNat b.toNat) := by
  rw [min_def_lt, apply_ite (BitVec.ofNat 32), BitVec.ofNat_toNat, BitVec.ofNat_toNat]
  simp only [BitVec.setWidth_eq, BitVec.ult_iff_toNat_lt]

theorem ite_ult_eq_max (a b : Word) : (if a.ult b then b else a) = BitVec.ofNat 32 (max a.toNat b.toNat) := by
  rw [max_def_lt, apply_ite (BitVec.ofNat 32), BitVec.ofNat_toNat, BitVec.ofNat_toNat]
  simp only [BitVec.setWidth_eq, BitVec.ult_iff_toNat_lt]

theorem zero_sub_eq_ofInt (a : Word) : 0 - a = BitVec.ofInt 32 (-a.toInt) := by
  simp [BitVec.ofInt_neg]

theorem absW_eq_natAbs (a : Word) : absW a = BitVec.ofNat 32 a.toInt.natAbs := by
  rw [absW, ← BitVec.ofInt_natCast]
  cases h : a.msb with
  | false => rw [Int.natAbs_of_nonneg (BitVec.toInt_nonneg_of_msb_false h), BitVec.ofInt_toInt, if_neg Bool.false_ne_true]
  | true => rw [Int.ofNat_natAbs_of_nonpos (BitVec.toInt_neg_of_msb_true h).le, if_pos rfl, zero_sub_eq_ofInt]

/-! ### Shifts (R113 to R115) -/

theorem shiftLeft_eq_ofNat (a : Word) (n : Nat) : a <<< n = BitVec.ofNat 32 (a.toNat * 2 ^ n) :=
  BitVec.eq_of_toNat_eq (by simp [Nat.shiftLeft_eq])

theorem ushiftRight_eq_ofNat (a : Word) (n : Nat) : a >>> n = BitVec.ofNat 32 (a.toNat / 2 ^ n) := by
  apply BitVec.eq_of_toNat_eq
  rw [BitVec.toNat_ushiftRight, Nat.shiftRight_eq_div_pow, BitVec.toNat_ofNat]
  exact (Nat.mod_eq_of_lt (Nat.lt_of_le_of_lt (Nat.div_le_self _ _) a.isLt)).symm

/-! The model cuts amounts of 32 and more off; a shift of `BitVec` by the whole amount gives the same. -/

theorem shlW_eq_shiftLeft (a n : Word) : shlW a n = a <<< n.toNat := by
  unfold shlW
  split
  · rfl
  · next hge => exact (BitVec.shiftLeft_eq_zero (Nat.le_of_not_lt hge)).symm

theorem shrW_eq_ushiftRight (a n : Word) : shrW a n = a >>> n.toNat := by
  unfold shrW
  split
  · rfl
  · next hge => exact (BitVec.ushiftRight_eq_zero (Nat.le_of_not_lt hge)).symm

theorem sraW_eq_sshiftRight (a n : Word) : sraW a n = a.sshiftRight n.toNat := by
  unfold sraW
  split
  · rfl
  · next hge =>
    have hpast (i : Nat) : ¬ n.toNat + i < 32 := by omega
    apply BitVec.eq_of_getLsbD_eq
    intro i hi
    rw [BitVec.getLsbD_sshiftRight, if_neg (hpast i)]
    cases a.msb with
    | false => simp
    | true =>
      have hones : (0xFFFFFFFF : Word) = BitVec.allOnes 32 := rfl
      rw [if_pos rfl, hones, BitVec.getLsbD_allOnes]
      simp [hi]

theorem sraW_eq_ofInt (a n : Word) : sraW a n = BitVec.ofInt 32 (a.toInt / 2 ^ n.toNat) := by
  rw [sraW_eq_sshiftRight, BitVec.sshiftRight_eq, Int.shiftRight_eq_div_pow, Nat.cast_pow, Nat.cast_ofNat]

theorem setWidth_shiftLeft_eq_ofNat (x : BitVec 11) : (x.setWidth 32 : Word) <<< 21 = BitVec.ofNat 32 (x.toNat * 2 ^ 21) := by
  rw [shiftLeft_eq_ofNat, BitVec.toNat_setWidth_of_le (by decide)]

/-! ### Bit fields (R116) -/

theorem toInt_ofNat_eq_signedOf {w : Nat} (hw : 0 < w) (x : Nat) : (BitVec.ofNat w x).toInt = signedOf w x := by
  obtain ⟨k, rfl⟩ : ∃ k, w = k + 1 := ⟨w - 1, by omega⟩
  rw [BitVec.toInt_eq_toNat_cond, BitVec.toNat_ofNat, signedOf, Nat.add_sub_cancel]
  generalize x % 2 ^ (k + 1) = y
  have hdouble : 2 ^ (k + 1) = 2 * 2 ^ k := by rw [Nat.pow_succ, Nat.mul_comm]
  by_cases hy : 2 ^ k ≤ y
  · rw [if_pos hy, if_neg (by omega), Nat.cast_pow, Nat.cast_ofNat]
  · rw [if_neg hy, if_pos (by omega)]

/-- The signed reading of a field is its sign extension, of which each bit is known. -/
theorem ofInt_signedOf_eq_signExtend {w : Nat} (hw : 0 < w) (x : Nat) :
    BitVec.ofInt 32 (signedOf w x) = (BitVec.ofNat w x).signExtend 32 := by
  rw [BitVec.signExtend, toInt_ofNat_eq_signedOf hw]

theorem testBit_field (a : Word) (pos wid j : Nat) :
    (a.toNat / 2 ^ pos % 2 ^ wid).testBit j = (decide (j < wid) && a.getLsbD (pos + j)) := by
  rw [Nat.testBit_mod_two_pow, Nat.testBit_div_two_pow, BitVec.testBit_toNat, Nat.add_comm]

theorem getLsbD_ofNat_field (a : Word) (pos wid : Nat) {j : Nat} (hj : j < 32) :
    (BitVec.ofNat 32 (a.toNat / 2 ^ pos % 2 ^ wid)).getLsbD j = (decide (j < wid) && a.getLsbD (pos + j)) := by
  rw [BitVec.getLsbD_ofNat, testBit_field, decide_eq_true hj, Bool.true_and]

theorem getLsbD_ofInt_signedOf_field (a : Word) (pos : Nat) {wid j : Nat} (hw : 0 < wid) (hj : j < 32) :
    (BitVec.ofInt 32 (signedOf wid (a.toNat / 2 ^ pos % 2 ^ wid))).getLsbD j =
      if j < wid then a.getLsbD (pos + j) else a.getLsbD (pos + (wid - 1)) := by
  have hbit {i : Nat} (hi : i < wid) : (BitVec.ofNat wid (a.toNat / 2 ^ pos % 2 ^ wid)).getLsbD i = a.getLsbD (pos + i) := by
    rw [BitVec.getLsbD_ofNat, testBit_field, decide_eq_true hi, Bool.true_and, Bool.true_and]
  rw [ofInt_signedOf_eq_signExtend hw, BitVec.getLsbD_signExtend, decide_eq_true hj, Bool.true_and,
    BitVec.msb_eq_getLsbD_last, hbit (Nat.sub_one_lt_of_lt hw)]
  by_cases hin : j < wid
  · rw [if_pos hin, if_pos hin, hbit hin]
  · rw [if_neg hin, if_neg hin]

theorem getLsbD_bfxW (a b : Word) {j : Nat} (hj : j < 32) : (bfxW a b).getLsbD j =
    if j < fieldWid b then a.getLsbD (fieldPos b + j)
    else bit b.toNat 15 && decide (0 < fieldWid b) && a.getLsbD (fieldPos b + (fieldWid b - 1)) := by
  unfold bfxW
  by_cases hsigned : b.toNat / 2 ^ 15 % 2 = 1 ∧ 0 < fieldWid b
  · have htop : (bit b.toNat 15 && decide (0 < fieldWid b)) = true := by simpa [bit] using hsigned
    rw [if_pos hsigned, getLsbD_ofInt_signedOf_field a _ hsigned.2 hj, htop, Bool.true_and]
  · have htop : (bit b.toNat 15 && decide (0 < fieldWid b)) = false := by simpa [bit] using hsigned
    rw [if_neg hsigned, getLsbD_ofNat_field a _ _ hj, htop, Bool.false_and]
    by_cases hin : j < fieldWid b <;> simp [hin]

/-- The mask of BFI covers the field's bits. -/
theorem getLsbD_fieldMask (b : Word) {j : Nat} (hj : j < 32) :
    (BitVec.ofNat 32 ((2 ^ fieldWid b - 1) * 2 ^ fieldPos b)).getLsbD j =
      decide (fieldPos b ≤ j ∧ j < fieldPos b + fieldWid b) := by
  rw [BitVec.getLsbD_ofNat, Nat.testBit_mul_two_pow, Nat.testBit_two_pow_sub_one, decide_eq_true hj, Bool.true_and,
    ← Bool.decide_and, decide_eq_decide]
  omega

theorem getLsbD_bfiW (d a b : Word) {j : Nat} (hj : j < 32) : (bfiW d a b).getLsbD j =
    if fieldPos b ≤ j ∧ j < fieldPos b + fieldWid b then a.getLsbD (j - fieldPos b) else d.getLsbD j := by
  simp only [bfiW, BitVec.getLsbD_or, BitVec.getLsbD_and, BitVec.getLsbD_not, BitVec.getLsbD_shiftLeft, getLsbD_fieldMask b hj]
  by_cases hin : fieldPos b ≤ j ∧ j < fieldPos b + fieldWid b <;> simp [hin, hj]

/-! ### Counting and reversing bits (R117) -/

theorem popcount_eq_countP (a : Word) : popcount a = BitVec.ofNat 32 ((List.range 32).countP fun j => a.getLsbD j) := by
  rw [List.countP_eq_length_filter, popcount]

theorem lt_two_pow_bitLength (n : Nat) : n < 2 ^ bitLength n := by
  unfold bitLength
  split
  · next hn => simp [hn]
  · exact Nat.lt_log2_self

theorem bitLength_le_of_lt {n k : Nat} (h : n < 2 ^ k) : bitLength n ≤ k := by
  unfold bitLength
  split
  · exact Nat.zero_le k
  · next hn => exact (Nat.log2_lt hn).2 h

theorem testBit_bitLength_sub_one {n : Nat} (h : 0 < bitLength n) : n.testBit (bitLength n - 1) = true := by
  have hn : n ≠ 0 := by rintro rfl; exact absurd h (by decide)
  rw [bitLength, if_neg hn]
  exact Nat.testBit_log2 hn

theorem toNat_clzW (a : Word) : (clzW a).toNat = 32 - bitLength a.toNat := by
  rw [clzW, BitVec.toNat_ofNat, Nat.mod_eq_of_lt (by omega)]

theorem toNat_clzW_le (a : Word) : (clzW a).toNat ≤ 32 := (toNat_clzW a).trans_le (Nat.sub_le _ _)

/-- The zeros that CLZ counts lie above the bit length. -/
theorem getLsbD_above_clzW (a : Word) {j : Nat} (hj : 32 - (clzW a).toNat ≤ j) : a.getLsbD j = false := by
  have hlen := bitLength_le_of_lt a.isLt
  have hle : bitLength a.toNat ≤ j := by rw [toNat_clzW] at hj; omega
  rw [← BitVec.testBit_toNat]
  exact Nat.testBit_lt_two_pow ((lt_two_pow_bitLength _).trans_le (Nat.pow_le_pow_right (by decide) hle))

theorem getLsbD_at_clzW (a : Word) (h : (clzW a).toNat < 32) : a.getLsbD (31 - (clzW a).toNat) = true := by
  have hlen := bitLength_le_of_lt a.isLt
  rw [toNat_clzW] at h ⊢
  have htop : 31 - (32 - bitLength a.toNat) = bitLength a.toNat - 1 := by omega
  rw [htop, ← BitVec.testBit_toNat]
  exact testBit_bitLength_sub_one (by omega)

theorem getLsbD_brevW (a : Word) {j : Nat} (hj : j < 32) : (brevW a).getLsbD j = a.getLsbD (31 - j) := by
  have hmem := hasLane_maskOf ((List.range 32).filter fun j => a.getLsbD (31 - j)) j
  unfold hasLane at hmem
  rw [brevW, hmem]
  simp [hj]

/-! ### The instructions -/

/-- From a result given as a function of the lane to one of which a property is known. -/
theorem Completes.exists_words {i : Instr} {s : State} {c : Issue} {w : WarpCore} {r n : Nat} {fl : Flags} {g : Nat → Word}
    {Q : (Nat → Word) → Prop} (h : Completes i s fun t => RegResult s t c w r n (fun l _ => g l) fl) (hq : Q g) :
    Completes i s fun t => ∃ f : Nat → Word, RegResult s t c w r n (fun l _ => f l) fl ∧ Q f := by
  obtain ⟨t, ht, hr⟩ := h
  exact ⟨t, ht, g, hr, hq⟩

/-- Settles O1: each form is `aluR` or `aluI` of a function whose value modulo 2^32 is known. -/
theorem sumsAndProducts : Obligations.SumsAndProducts := by
  refine ⟨fun s c w => ⟨?add, ?sub, ?addi⟩, fun s c w => ⟨?mul, ?mulh, ?mulhU, ?mad⟩⟩
  case add => exact fun r h => aluR_completes _ exec_add h _ fun l => add_eq_ofNat _ _
  case sub => exact fun r h => aluR_completes _ exec_sub h _ fun l => sub_eq_ofInt _ _
  case addi => exact fun i h => aluI_completes _ exec_addi h _ fun l => add_eq_ofNat _ _
  case mul => exact fun r h => aluR_completes _ exec_mul h _ fun l => mul_eq_ofNat _ _
  case mulh => exact fun r h => aluR_completes _ exec_mulh h _ fun l => mulhS_eq_extractLsb' _ _
  case mulhU => exact fun r h => aluR_completes _ exec_mulhU h _ fun l => mulhU_eq_extractLsb' _ _
  case mad => exact fun r h => aluR_completes _ exec_mad h _ fun l => mul_add_eq_ofNat _ _ _

/-- Settles O2: Table 6-2's zero divisor stands apart, every other row is the truncated quotient and its remainder. -/
theorem divide : Obligations.Divide := by
  refine fun s c w => ⟨?div, ?mod, ?divU, ?modU⟩
  case div => exact fun r h => aluR_completes _ exec_div h _ fun l => divS_eq_tdiv _ _
  case mod => exact fun r h => aluR_completes _ exec_mod h _ fun l => modS_eq_sub _ _
  case divU => exact fun r h => aluR_completes _ exec_divU h _ fun l => divU_eq_div _ _
  case modU => exact fun r h => aluR_completes _ exec_modU h _ fun l => modU_eq_sub _ _

/-- Settles O3: comparisons of words are comparisons of their values; the bitwise forms are the model's own operation. -/
theorem minMaxAndLogic : Obligations.MinMaxAndLogic := by
  refine ⟨fun s c w => ⟨?min, ?minU, ?max, ?maxU, ?abs, ?neg⟩, fun s c w => ⟨?and, ?or, ?xor, ?not, ?andi, ?ori, ?xori⟩⟩
  case min => exact fun r h => aluR_completes _ exec_min h _ fun l => ite_slt_eq_min _ _
  case minU => exact fun r h => aluR_completes _ exec_minU h _ fun l => ite_ult_eq_min _ _
  case max => exact fun r h => aluR_completes _ exec_max h _ fun l => ite_slt_eq_max _ _
  case maxU => exact fun r h => aluR_completes _ exec_maxU h _ fun l => ite_ult_eq_max _ _
  case abs => exact fun r h => aluR_completes _ exec_abs h _ fun l => absW_eq_natAbs _
  case neg => exact fun r h => aluR_completes _ exec_neg h _ fun l => zero_sub_eq_ofInt _
  case and => exact fun r h => aluR_completes _ exec_and h _ fun l => rfl
  case or => exact fun r h => aluR_completes _ exec_or h _ fun l => rfl
  case xor => exact fun r h => aluR_completes _ exec_xor h _ fun l => rfl
  case not => exact fun r h => aluR_completes _ exec_not h _ fun l => rfl
  case andi => exact fun i h => aluI_completes _ exec_andi h _ fun l => rfl
  case ori => exact fun i h => aluI_completes _ exec_ori h _ fun l => rfl
  case xori => exact fun i h => aluI_completes _ exec_xori h _ fun l => rfl

/-- Settles O4: shifts by value, bit fields and counts bit by bit. -/
theorem shiftsAndFields : Obligations.ShiftsAndFields := by
  refine ⟨fun s c w => ⟨?shl, ?shr, ?sra, ?shli, ?lui⟩, fun s c w => ⟨?bfx, ?bfi, ?popc, ?clz, ?brev⟩⟩
  case shl => exact fun r h => aluR_completes _ exec_shl h _ fun l => (shlW_eq_shiftLeft _ _).trans (shiftLeft_eq_ofNat _ _)
  case shr => exact fun r h => aluR_completes _ exec_shr h _ fun l => (shrW_eq_ushiftRight _ _).trans (ushiftRight_eq_ofNat _ _)
  case sra => exact fun r h => aluR_completes _ exec_sra h _ fun l => sraW_eq_ofInt _ _
  case shli => exact fun i h => aluI_completes _ exec_shli h _ fun l => shiftLeft_eq_ofNat _ _
  case lui => exact fun i h => aluI_completes _ exec_lui h _ fun l => setWidth_shiftLeft_eq_ofNat _
  case bfx => exact fun r h => (aluR_completes _ exec_bfx h _ fun l => rfl).exists_words fun l j hj => getLsbD_bfxW _ _ hj
  case bfi => exact fun r h => (aluR_completes _ exec_bfi h _ fun l => rfl).exists_words fun l j hj => getLsbD_bfiW _ _ _ hj
  case popc => exact fun r h => aluR_completes _ exec_popc h _ fun l => popcount_eq_countP _
  case clz =>
    exact fun r h => (aluR_completes _ exec_clz h _ fun l => rfl).exists_words fun l =>
      ⟨toNat_clzW_le _, fun j hj => getLsbD_above_clzW _ hj, getLsbD_at_clzW _⟩
  case brev => exact fun r h => (aluR_completes _ exec_brev h _ fun l => rfl).exists_words fun l j hj => getLsbD_brevW _ hj

end Sys2Proof.Machine
end

section
/-! PROOF. Lane exchange, reductions and mask registers (R136, R137, R139 to R146). `State.perLane_spec` says what an instruction with one result for each lane does to the machine; what is left is a reading of the word that each function gives, and these are the lemmas here. -/

namespace Sys2Proof.Machine

/-! ### The two frames -/

/-- One result for each active lane, with its flags (R103). -/
theorem perLane_completes_flags {i : Instr} {s : State} {c : Issue} {w : WarpCore} {d : Reg} {body : Issue → WarpCore → Nat → Word × Flags}
    (he : exec i s = onWarp i s fun c w => s.perLane c d (body c w)) (h : Issuing s c w i) :
    Completes i s fun t => RegResult s t c w d.toNat 1 (fun l _ => (body c w l).1) (laneFlags c.lanes fun l => (body c w l).2) :=
  ⟨_, he.trans (onWarp_of h _), State.perLane_spec h.warp d _⟩

/-- One result for each active lane, without flags (R103). -/
theorem perLane_completes {i : Instr} {s : State} {c : Issue} {w : WarpCore} {d : Reg} {body : Issue → WarpCore → Nat → Word × Flags}
    (he : exec i s = onWarp i s fun c w => s.perLane c d (body c w)) (h : Issuing s c w i) (g : Nat → Word)
    (hg : ∀ l, body c w l = (g l, 0)) : Completes i s fun t => RegResult s t c w d.toNat 1 (fun l _ => g l) 0 := by
  have hflags := perLane_completes_flags he h
  simp only [hg] at hflags
  rwa [laneFlags, gatherFlags_none] at hflags

theorem WarpCore.mask_setMask_self (w : WarpCore) (n : Nat) (v : Mask) : (w.setMask n v).mask n = v &&& w.live := by
  rw [mask, setMask_k, setMask_live, Map.get_set_self, BitVec.and_assoc, BitVec.and_self]

theorem WarpCore.mask_setMask_ne (w : WarpCore) {n m : Nat} (v : Mask) (h : m ≠ n) : (w.setMask n v).mask m = w.mask m := by
  rw [mask, setMask_k, setMask_live, Map.get_set_ne _ _ _ h, mask]

@[simp] theorem WarpCore.mask_settle (w : WarpCore) (n : Nat) : w.settle.mask n = w.mask n := rfl

@[simp] theorem WarpCore.mask_place (w : WarpCore) (m : Mask) (prio pc n : Nat) (st : EState) : (w.place m prio pc st).mask n = w.mask n := rfl

/-- A mask write touches one mask register, and nothing of it is outstanding (R137). -/
theorem maskWrite_completes {i : Instr} {k : KArgs} {s : State} {c : Issue} {w : WarpCore} {f : Issue → WarpCore → Mask}
    (he : exec i s = maskWrite i k s f) (h : Issuing s c w i) :
    Completes i s fun t => MaskResult s t c w k.kd.toNat (f c w) := by
  refine ⟨_, he.trans (onWarp_of h _), ?_⟩
  rw [State.modRun_conclude]
  refine ⟨_, onlyWarp_modRun _ h.warp, ?_, fun m hm => ?_, ?_, WarpCore.stand_place_ready _ _ _ _⟩
  · simp only [WarpCore.mask_settle, WarpCore.mask_place, WarpCore.mask_setMask_self]
  · simp only [WarpCore.mask_settle, WarpCore.mask_place, w.mask_setMask_ne _ hm]
  · simp only [WarpCore.settle, WarpCore.place, WarpCore.setMask]

/-! ### SHFL (R139) -/

/-- The lane that a lane of SHFL aims at, inside its segment of `wid` lanes or not: `sub` is the mode and the width code. -/
def shuffleAim (sub l n : Nat) : Int :=
  let wid := 32 / 2 ^ (sub / 4 % 4)
  let base := l - l % wid
  if sub % 4 = 0 then base + n % wid else if sub % 4 = 1 then l - n else if sub % 4 = 2 then l + n else ((l ^^^ (n % wid) : Nat) : Int)

/-- The lane aimed at lies in the segment. -/
def ShuffleInside (sub l n : Nat) : Prop :=
  let wid := 32 / 2 ^ (sub / 4 % 4)
  let base := l - l % wid
  (base : Int) ≤ shuffleAim sub l n ∧ shuffleAim sub l n < base + wid

/-- The model finds a source lane just where the lane aimed at lies in the segment. -/
theorem shuffleSource_eq (sub l n : Nat) [Decidable (ShuffleInside sub l n)] :
    shuffleSource sub l n = if ShuffleInside sub l n then some (shuffleAim sub l n).toNat else none := by
  have inside (base wid x : Nat) : (if base ≤ x ∧ x < base + wid then some x else none) =
      if (base : Int) ≤ (x : Int) ∧ (x : Int) < base + wid then some (x : Int).toNat else none := by
    simp only [Int.toNat_natCast, Nat.cast_le, ← Nat.cast_add, Nat.cast_lt]
  simp only [ShuffleInside, shuffleSource, shuffleAim, Nat.div_mul_self_eq_mod_sub_self]
  by_cases habs : sub % 4 = 0
  · simpa only [if_pos habs, Nat.cast_add, Int.natCast_emod] using inside _ _ (_ + n % _)
  by_cases hup : sub % 4 = 1
  · simp only [if_neg habs, if_pos hup]
    by_cases hn : n ≤ l
    · rw [if_pos hn, ← Nat.cast_sub hn]
      exact inside _ _ (l - n)
    · rw [if_neg hn, if_neg (by omega)]
  by_cases hdown : sub % 4 = 2
  · simpa only [if_neg habs, if_neg hup, if_pos hdown, Nat.cast_add] using inside _ _ (l + n)
  · simpa only [if_neg habs, if_neg hup, if_neg hdown] using inside _ _ (l ^^^ n % _)

/-! ### VOTE and MATCH (R140, R142) -/

/-- The bits of a set of lanes chosen among the active ones by their values. -/
theorem hasLane_maskOf_filter {α : Type} (m : Mask) (f : Nat → α) (p : α → Bool) {k : Nat} (hk : k < 32) :
    hasLane (maskOf ((((lanesOf m).map fun l => (l, f l)).filter fun e => p e.2).map (·.1))) k = (hasLane m k && p (f k)) := by
  rw [hasLane_maskOf, decide_eq_true hk, Bool.true_and, Bool.eq_iff_iff]
  simp [mem_lanesOf, hk]

theorem ite_one_zero_eq_one (p : Prop) [Decidable p] : (if p then (1 : Word) else 0) = 1 ↔ p := by
  by_cases h : p <;> simp [h]

theorem voteWord_zero_or_one {mode : Nat} (h : mode ≠ 2) (vals : List (Nat × Word)) : voteWord mode vals = 0 ∨ voteWord mode vals = 1 := by
  have hbool (x : Bool) := (ite_eq_or_eq (x = true) (1 : Word) 0).symm
  simp only [voteWord, if_neg h]
  by_cases h0 : mode = 0
  · simpa only [if_pos h0] using hbool _
  by_cases h1 : mode = 1
  · simpa only [if_neg h0, if_pos h1] using hbool _
  · simpa only [if_neg h0, if_neg h1] using hbool _

section
variable (m : Mask) (f : Nat → Word)

theorem voteWord_any : voteWord 0 ((lanesOf m).map fun l => (l, f l)) = 1 ↔ ∃ l < 32, hasLane m l = true ∧ f l ≠ 0 := by
  refine (ite_one_zero_eq_one _).trans ?_
  simp only [List.any_map, List.any_eq_true, Function.comp_apply, decide_eq_true_eq, mem_lanesOf, and_assoc]

theorem voteWord_all : voteWord 1 ((lanesOf m).map fun l => (l, f l)) = 1 ↔ ∀ l < 32, hasLane m l = true → f l ≠ 0 := by
  refine (ite_one_zero_eq_one _).trans ?_
  simp only [List.all_map, List.all_eq_true, Function.comp_apply, decide_eq_true_eq, mem_lanesOf, and_imp]

theorem getLsbD_voteWord_ballot {l : Nat} (hl : l < 32) :
    (voteWord 2 ((lanesOf m).map fun l => (l, f l))).getLsbD l = (hasLane m l && decide (f l ≠ 0)) :=
  hasLane_maskOf_filter m f (fun v => decide (v ≠ 0)) hl

/-- The model compares every lane with the lowest one. -/
theorem voteWord_same : voteWord 3 ((lanesOf m).map fun l => (l, f l)) = 1 ↔
    ∀ l < 32, hasLane m l = true → ∀ k < 32, hasLane m k = true → f l = f k := by
  have hhead : voteWord 3 ((lanesOf m).map fun l => (l, f l)) = 1 ↔ ∀ l ∈ lanesOf m, f l = f (lowest m) := by
    refine (ite_one_zero_eq_one _).trans ?_
    simp only [List.all_map, List.all_eq_true, Function.comp_apply, decide_eq_true_eq]
    refine forall₂_congr fun l hl => ?_
    obtain ⟨r, hr⟩ := head_lanesOf (ne_zero_of_hasLane (mem_lanesOf.1 hl).2)
    simp [hr]
  rw [hhead]
  constructor
  · intro h l hl hml k hk hmk
    rw [h l (mem_lanesOf.2 ⟨hl, hml⟩), h k (mem_lanesOf.2 ⟨hk, hmk⟩)]
  · intro h l hl
    obtain ⟨hl32, hml⟩ := mem_lanesOf.1 hl
    obtain ⟨hlow, hmlow⟩ := mem_lanesOf.1 (lowest_mem (ne_zero_of_hasLane hml))
    exact h l hl32 hml _ hlow hmlow
end

/-- MATCH compares 32-bit values as pairs with a high half of 0. -/
theorem setWidth_64_eq_iff (a b : Word) : a.setWidth 64 = b.setWidth 64 ↔ a = b := by
  refine ⟨fun h => ?_, congrArg _⟩
  have := congrArg (BitVec.setWidth 32) h
  simpa using this

/-! ### SCANW (R141) -/

theorem scanTo_cons (op : Word → Word → Word × Flags) (x : Word) (xs : List Word) (i : Nat) :
    scanTo op (x :: xs) i = (xs.take i).foldl (fun a y => ((op a.1 y).1, a.2 ||| (op a.1 y).2)) (x, 0) := rfl

/-- The scan takes one step from each position to the next. -/
theorem scanTo_succ (op : Word → Word → Word × Flags) (xs : List Word) {i : Nat} (h : i + 1 < xs.length) :
    scanTo op xs (i + 1) = ((op (scanTo op xs i).1 xs[i + 1]).1, (scanTo op xs i).2 ||| (op (scanTo op xs i).1 xs[i + 1]).2) := by
  cases xs with
  | nil => exact absurd h (Nat.not_lt_zero _)
  | cons x xs =>
    rw [scanTo_cons, scanTo_cons, List.take_succ_eq_append_getElem (Nat.lt_of_succ_lt_succ h), List.foldl_append]
    rfl

/-! ### The instructions -/

/-- Settles O9: each form is `perLane` or `maskWrite` of a function whose value the lemmas above read. -/
theorem lanesAndMasks : Obligations.LanesAndMasks := by
  refine ⟨fun s c w => ⟨?shfl, ?vote, ?redw, ?scanw, ?matchLanes⟩,
    fun s c w => ⟨?kset, ?kmov, ?kpop, ?join, ?leave, ?klogAnd, ?klogOr, ?klogXor, ?klogAndn⟩⟩
  case shfl =>
    intro r h
    refine perLane_completes exec_shfl h _ fun l => ?_
    classical
    by_cases hin : ShuffleInside (sub r.px) l (r.vB s w l).toNat
    · rw [shuffleSource_eq, if_pos hin]
      exact congrArg (·, 0) (if_congr ⟨fun ha => ⟨hin.1, hin.2, ha⟩, fun hall => hall.2.2⟩ rfl rfl)
    · rw [shuffleSource_eq, if_neg hin]
      exact congrArg (·, 0) (if_neg fun hall => hin ⟨hall.1, hall.2.1⟩).symm
  case vote =>
    intro r h hmode
    obtain ⟨t, ht, hres⟩ := perLane_completes exec_vote h
      (fun _ => voteWord (sub r.px) ((lanesOf c.lanes).map fun l => (l, r.vA s w l))) fun _ => rfl
    refine ⟨t, ht, _, hres, fun h2 => voteWord_zero_or_one h2 _, fun h0 => ?_, fun h1 => ?_, fun h2 l hl => ?_, fun h3 => ?_⟩
    · rw [h0]; exact voteWord_any _ _
    · rw [h1]; exact voteWord_all _ _
    · rw [h2]; exact getLsbD_voteWord_ballot _ _ hl
    · rw [h3]; exact voteWord_same _ _
  case redw => exact fun r h => perLane_completes_flags exec_redw h
  case scanw =>
    intro r h
    obtain ⟨t, ht, hres⟩ := perLane_completes_flags exec_scanw h
    refine ⟨t, ht, _, _, hres, rfl, rfl, fun l hl => ?_⟩
    have hlen : l + 1 < (reduceInputs s w c.lanes r).length := by rw [reduceInputs, List.length_map, List.length_range]; omega
    have hstep := scanTo_succ (redOp (sub r.px)).1 _ hlen
    simp only [reduceInputs, List.getElem_map, List.getElem_range] at hstep ⊢
    rw [hstep]
    exact ⟨rfl, rfl⟩
  case matchLanes =>
    intro r h
    let val (l : Nat) : DWord := if sub r.px = 1 then r.pairA s w l else (r.vA s w l).setWidth 64
    have hres := perLane_completes exec_matchLanes h
      (fun l => maskOf ((((lanesOf c.lanes).map fun l => (l, val l)).filter fun e => decide (e.2 = val l)).map (·.1))) fun _ => rfl
    refine hres.exists_words fun l _ k hk => ?_
    refine (hasLane_maskOf_filter c.lanes val (fun v => decide (v = val l)) hk).trans ?_
    by_cases hpair : sub r.px = 1
    · simp only [val, if_pos hpair]
    · simp only [val, if_neg hpair, setWidth_64_eq_iff]
  case kset => exact fun k h => maskWrite_completes exec_kset h
  case kmov => exact fun k h => perLane_completes exec_kmov h _ fun _ => rfl
  case kpop =>
    refine fun k h => perLane_completes exec_kpop h _ fun _ => ?_
    rw [laneCount, lanesOf, ← List.countP_eq_length_filter]
    rfl
  case join => exact fun k h => maskWrite_completes exec_join h
  case leave => exact fun k h => maskWrite_completes exec_leave h
  case klogAnd => exact fun k h => maskWrite_completes exec_klogAnd h
  case klogOr => exact fun k h => maskWrite_completes exec_klogOr h
  case klogXor => exact fun k h => maskWrite_completes exec_klogXor h
  case klogAndn => exact fun k h => maskWrite_completes exec_klogAndn h

end Sys2Proof.Machine
end

section
/-! PROOF. EXIT (R157). A lane that is no callee leaves by `WarpCore.kill` alone; a warp with no lane left publishes its stores, and its slot is erased. -/

namespace Sys2Proof.Machine

/-! ### Lanes that stop living -/

theorem Table.find?_eq_none_of_not_mem {α : Type} {t : Table α} {q : Nat} (h : q ∉ t.map Prod.fst) : t.find? q = none := by
  induction t with
  | nil => rfl
  | cons e t ih =>
    rw [List.map_cons, List.mem_cons, not_or] at h
    rw [Table.find?_cons, if_neg h.1, ih h.2]

/-- Masks cut down to a set of lanes, where empty ones are dropped from the table. -/
theorem get_filterMap_and {k : Table Mask} (hk : (k.map Prod.fst).Nodup) (live : Mask) (n : Nat) :
    Map.get 0 (k.filterMap fun e => if e.2 &&& live = 0 then none else some (e.1, e.2 &&& live)) n = Map.get 0 k n &&& live := by
  induction k with
  | nil => simp
  | cons e k ih =>
    obtain ⟨hfresh, hk⟩ := List.nodup_cons.1 hk
    have ih := ih hk
    unfold Map.get at ih ⊢
    rw [Table.find?_cons, List.filterMap_cons]
    by_cases hempty : e.2 &&& live = 0
    · simp only [if_pos hempty]
      rw [ih]
      by_cases hn : n = e.1
      · subst hn
        rw [if_pos rfl, Table.find?_eq_none_of_not_mem hfresh, Option.getD_some, hempty]
        exact BitVec.zero_and
      · rw [if_neg hn]
    · simp only [if_neg hempty, Table.find?_cons]
      by_cases hn : n = e.1
      · rw [if_pos hn, if_pos hn]; rfl
      · rw [if_neg hn, if_neg hn, ih]

theorem WarpCore.mask_kill {w : WarpCore} (hk : (w.k.map Prod.fst).Nodup) (m : Mask) (n : Nat) : (w.kill m).mask n = w.mask n &&& ~~~m := by
  have hget := get_filterMap_and hk (w.live &&& ~~~m) n
  calc (w.kill m).mask n = Map.get 0 w.k n &&& (w.live &&& ~~~m) &&& (w.live &&& ~~~m) := congrArg (· &&& _) hget
    _ = w.mask n &&& ~~~m := by rw [BitVec.and_assoc, BitVec.and_self, ← BitVec.and_assoc, mask]

/-- The end of a lane leaves its frame and stack registers. -/
theorem WarpCore.lane_kill (w : WarpCore) (m : Mask) (l : Nat) :
    ((w.kill m).lane l).fp = (w.lane l).fp ∧ ((w.kill m).lane l).sp = (w.lane l).sp := by
  unfold WarpCore.lane
  simp only [WarpCore.kill, List.getElem?_map, List.getElem?_zipIdx]
  cases w.lanes[l]? with
  | none => exact ⟨rfl, rfl⟩
  | some x => by_cases hl : hasLane m l = true <;> simp [hl]

@[simp] theorem WarpCore.held?_kill (w : WarpCore) (m : Mask) (l : Nat) (p : Loc) : (w.kill m).held? l p = w.held? l p := by
  cases p with
  | none => rfl
  | thread n => rfl
  | uni n => rfl
  | fp => exact (w.lane_kill m l).1
  | sp => exact (w.lane_kill m l).2

@[simp] theorem WarpCore.held?_drainRegs (w : WarpCore) (l : Nat) (p : Loc) : w.drainRegs.held? l p = w.held? l p := by
  cases p <;> rfl

/-- Settling gives no entry to a lane that had none. -/
theorem WarpCore.entryOf_settle_eq_none {w : WarpCore} {l : Nat} (h : AllEntries (fun _ _ _ => False) l w.frontier) :
    w.settle.entryOf l = none := by
  have hreleased (ns : List Nat) (fr : List Entry) (hfr : AllEntries (fun _ _ _ => False) l fr) :
      AllEntries (fun _ _ _ => False) l (ns.foldl (fun fr n => Machine.releaseOn w.handlerMask (w.mask n) n fr) fr) := by
    induction ns generalizing fr with
    | nil => exact hfr
    | cons n ns ih => exact ih _ (hfr.releaseOn fun _ _ _ => id)
  have hsettled : AllEntries (fun _ _ _ => False) l w.settle.frontier := (hreleased _ _ h).mergeFrontier
  exact List.find?_eq_none.2 hsettled

theorem WarpCore.entryOf_kill_settle {w : WarpCore} {m : Mask} {l : Nat} (hl : hasLane m l = true) : (w.kill m).settle.entryOf l = none := by
  refine WarpCore.entryOf_settle_eq_none fun e he hel => ?_
  rw [hasLane_takeLanes he hel] at hl
  cases hl

/-! ### What a publication leaves: the instruction in progress -/

theorem State.cur_foldl {β : Type} (f : State → β → State) (hf : ∀ s b, (f s b).cur = s.cur) (l : List β) (s : State) :
    (l.foldl f s).cur = s.cur := by
  induction l generalizing s with
  | nil => rfl
  | cons b l ih => exact (ih _).trans (hf s b)

@[simp] theorem State.modWarp_cur (s : State) (wid : Nat) (f : WarpCore → WarpCore) : (s.modWarp wid f).cur = s.cur := by
  unfold State.modWarp
  split <;> rfl

@[simp] theorem State.recall_cur (s : State) (p : Party) (k n : Nat) : (s.recall p k n).cur = s.cur := by
  unfold State.recall
  dsimp only
  split <;> rfl

@[simp] theorem State.touch_cur (s : State) (p : Party) (k n : Nat) : (s.touch p k n).cur = s.cur := by
  unfold State.touch
  dsimp only
  split <;> rfl

@[simp] theorem State.countDrop_cur (s : State) (k n : Nat) : (s.countDrop k n).cur = s.cur := by
  unfold State.countDrop
  split <;> rfl

@[simp] theorem State.rekey_cur (s : State) (okey k n : Nat) : (s.rekey okey k n).cur = s.cur := by
  unfold State.rekey
  dsimp only
  split <;> rfl

@[simp] theorem State.scrub_cur (s : State) (x : Nat) : (s.scrub x).cur = s.cur := by
  unfold State.scrub
  dsimp only
  split <;> rfl

@[simp] theorem State.endReg_cur (s : State) (id code : Nat) : (s.endReg id code).cur = s.cur := by
  unfold State.endReg
  split
  · rfl
  · split <;> rfl

@[simp] theorem State.reevaluateOwners_cur (s : State) (k n : Nat) : (s.reevaluateOwners k n).cur = s.cur := by
  unfold State.reevaluateOwners
  refine State.cur_foldl _ (fun s e => ?_) _ s
  split
  · exact s.endReg_cur _ _
  · rfl

@[simp] theorem State.reevaluate_cur (s : State) (k n : Nat) : (s.reevaluate k n).cur = s.cur := by
  unfold State.reevaluate
  refine (State.reevaluateOwners_cur _ k n).trans ((State.cur_foldl _ (fun s (e : Nat × Registration) => s.endReg_cur e.1 1) _ _).trans ?_)
  split <;> rfl

@[simp] theorem State.homeWrite_cur (s : State) (b : Writer) (sc : Scope) (a : Option Scope) (okey k : Nat) (data : List Byte) :
    (s.homeWrite b sc a okey k data).cur = s.cur := by
  unfold State.homeWrite
  split
  · rfl
  · refine (State.reevaluate_cur _ _ _).trans ?_
    refine (State.cur_foldl _ State.scrub_cur _ _).trans ?_
    exact (State.cur_foldl _ (fun s x => s.recall_cur _ _ _) _ _).trans (s.rekey_cur _ _ _)

@[simp] theorem State.spoilSync_cur (s : State) (k n : Nat) : (s.spoilSync k n).cur = s.cur := by
  unfold State.spoilSync
  dsimp only
  split <;> rfl

@[simp] theorem State.spoilArea_cur (s : State) (w : WarpCore) (p : Pending) : (s.spoilArea w p).cur = s.cur := by
  unfold State.spoilArea State.spoilDarner
  split
  · rfl
  · refine State.cur_foldl _ (fun s e => ?_) _ s
    exact State.cur_foldl _ (fun s c => s.modCore_cur c _) _ s

@[simp] theorem State.atomicAt_cur (s : State) (b : Writer) (p : Party) (sc : Scope) (okey k size op x y : Nat) :
    (s.atomicAt b p sc okey k size op x y).1.cur = s.cur := by
  simp only [State.atomicAt, State.spoilSync_cur, State.homeWrite_cur, State.countDrop_cur, State.recall_cur, State.touch_cur]

@[simp] theorem State.perform_cur (s : State) (wid : Nat) (w : WarpCore) (sc : Scope) (p : Pending) : (s.perform wid w sc p).cur = s.cur := by
  unfold State.perform
  split
  · rfl
  split
  · split
    · exact s.modWarp_cur _ _
    · rfl
  split
  · simp only [State.spoilArea_cur, State.spoilSync_cur, State.homeWrite_cur]
  · simp only [State.modWarp_cur, State.spoilArea_cur, State.atomicAt_cur]

@[simp] theorem State.publish_cur (s : State) (wid : Nat) (sc : Scope) : (s.publish wid sc).cur = s.cur := by
  unfold State.publish State.publishSome
  split
  · rfl
  · rw [State.widen_cur]
    split
    · rfl
    · exact (State.cur_foldl _ (fun s p => s.perform_cur _ _ _ p) _ _).trans (s.modWarp_cur _ _)

/-- A warp without buffered stores publishes nothing new: memory stays. -/
theorem State.publish_mem_of_stores_nil {s : State} {wid : Nat} {w : WarpCore} (hw : s.warp? wid = some w) (hst : w.stores = []) (sc : Scope) :
    (s.publish wid sc).mem = s.mem := by
  have hany : s.anyWarp? wid = some w := by rw [State.anyWarp?, hw]
  unfold State.publish State.publishSome
  simp only [hany, hst, List.take_nil, List.foldl_nil, State.widen_mem]
  unfold State.modWarp
  split <;> rfl

/-! ### EXIT -/

/-- The lanes are no callees of any call, and no gather group runs on them. -/
def NoCallees (w : WarpCore) (m : Mask) : Prop := ∀ l < 32, hasLane m l = true → (w.lane l).role = .none ∧ (w.lane l).hosts = []

theorem State.endLane_of_plain (s : State) (core : Nat) {x : LaneState} (hr : x.role = .none) (hh : x.hosts = []) : s.endLane core x = s := by
  rw [State.endLane, hr, hh]; rfl

/-- Lanes that are no callees end without an effect on any call (R157). -/
theorem State.exitLanes_of_noCallees {s : State} {wid : Nat} {w : WarpCore} {m : Mask} (hw : s.warp? wid = some w) (hm : NoCallees w m) :
    s.exitLanes wid m =
      if w.live &&& ~~~m = 0 then (s.modRun wid (·.kill m)).endWarp wid else s.modRun wid (·.kill m) := by
  have hends (ls : List Nat) (hls : ∀ l ∈ ls, l < 32 ∧ hasLane m l = true) (s : State) :
      ls.foldl (fun s l => s.endLane w.core (w.lane l)) s = s := by
    induction ls generalizing s with
    | nil => rfl
    | cons l ls ih =>
      obtain ⟨hl, hml⟩ := hls l List.mem_cons_self
      obtain ⟨hr, hh⟩ := hm l hl hml
      rw [List.foldl_cons, State.endLane_of_plain _ _ hr hh]
      exact ih (fun k hk => hls k (List.mem_cons_of_mem _ hk)) s
  unfold State.exitLanes
  simp only [hw]
  rw [hends]
  intro l hl
  obtain ⟨hl, hml⟩ := mem_lanesOf.1 hl
  rw [hasLane_and, Bool.and_eq_true] at hml
  exact ⟨hl, hml.1⟩

/-- A warp that runs no task and has no help frame ends: it publishes, and its slot is free. -/
theorem State.endWarp_erases {s : State} {wid : Nat} {x : Warp} (hx : s.warps.find? wid = some x) (hhelp : x.help = []) (htask : x.run.task = 0) :
    ∃ v : State, s.endWarp wid = { v with warps := v.warps.erase wid } ∧ v.cur = s.cur ∧ v.mem = (s.publish wid .dev).mem := by
  unfold State.endWarp State.boundary
  simp only [hx, hhelp, htask, List.isEmpty_nil, if_pos, Bool.false_eq_true, if_false]
  refine ⟨_, rfl, ?_, ?_⟩
  · by_cases hdrop : x.run.drop = true <;> simp [hdrop, State.dropRegs]
  · by_cases hdrop : x.run.drop = true <;> simp [hdrop, State.dropRegs]

theorem WarpCore.doomedOf_eq_nil {w : WarpCore} {m : Mask} (h : Undoomed w m) : w.doomedOf m = [] := by
  have hnone : (lanesOf m).filter (fun l => (w.lane l).doomed) = [] := by
    refine List.filter_eq_nil_iff.2 fun l hl => ?_
    obtain ⟨hl, hml⟩ := mem_lanesOf.1 hl
    simp [h l hl hml]
  rw [WarpCore.doomedOf, hnone, List.map_nil]

/-- EXIT performs the warp's register writes, and its lanes exit, where no CANCEL trap falls due: where other lanes stay, or none is doomed. -/
theorem exec_exit_of_uncancelled {s : State} {c : Issue} {w : WarpCore} {r : RArgs} (h : Issuing s c w (.exit r))
    (hc : w.live &&& ~~~c.lanes = 0 → Undoomed w c.lanes) :
    exec (.exit r) s = .next (({ s.modRun c.wid WarpCore.drainRegs with cur := none } : State).exitLanes c.wid c.lanes).settleCalls := by
  have hnone : (w.doomedOf c.lanes).filter (fun _ => decide (w.live &&& ~~~c.lanes = 0)) = [] := by
    by_cases hlast : w.live &&& ~~~c.lanes = 0
    · rw [WarpCore.doomedOf_eq_nil (hc hlast), List.filter_nil]
    · exact List.filter_eq_nil_iff.2 fun _ _ => by simpa using hlast
  refine exec_exit.trans ((onWarp_of h _).trans (congrArg Host.Outcome.next ?_))
  unfold State.orCancelIf
  rw [hnone]

/-- Once the register writes are performed and the lanes of EXIT are out of their warp. -/
def State.lanesGone (s : State) (c : Issue) : State :=
  { s.modRun c.wid (fun w => w.drainRegs.settle.kill c.lanes) with cur := none }

theorem exec_exit_of_noCallees {s : State} {c : Issue} {w : WarpCore} {r : RArgs} (h : Issuing s c w (.exit r)) (hm : NoCallees w c.lanes)
    (hc : w.live &&& ~~~c.lanes = 0 → Undoomed w c.lanes) :
    exec (.exit r) s =
      .next (if w.live &&& ~~~c.lanes = 0 then (s.lanesGone c).endWarp c.wid else s.lanesGone c).settleCalls := by
  have hdrained : ({ s.modRun c.wid WarpCore.drainRegs with cur := none } : State).warp? c.wid = some w.drainRegs.settle := by
    have hrun := State.warp?_modRun s c.wid WarpCore.drainRegs
    rwa [h.warp] at hrun
  have hgone : ({ s.modRun c.wid WarpCore.drainRegs with cur := none } : State).modRun c.wid (·.kill c.lanes) = s.lanesGone c :=
    congrArg (fun t : State => { t with cur := none }) (s.modRun_modRun c.wid WarpCore.drainRegs (·.kill c.lanes))
  rw [exec_exit_of_uncancelled h hc, State.exitLanes_of_noCallees hdrained hm, hgone]
  rfl

/-- Settles O23: EXIT is `kill` after the register writes are performed; where it leaves no lane, `endWarp` follows. -/
theorem lanesExit : Obligations.LanesExit := by
  intro s c w r h hk hm
  refine ⟨fun hstay => ?_, fun hlast hundoomed htask hhelp => ?_⟩
  · have hexec := exec_exit_of_noCallees h hm fun hlast => absurd hlast hstay
    rw [if_neg hstay] at hexec
    refine ⟨_, _, hexec, onlyWarp_modRun _ h.warp, rfl, fun l _ hl => WarpCore.entryOf_kill_settle hl, fun n => ?_, fun l p => ?_, ?_⟩
    · exact WarpCore.mask_kill (w := w.drainRegs.settle) hk c.lanes n
    · simp only [WarpCore.held?_settle, WarpCore.held?_kill, WarpCore.held?_drainRegs]
    · simp only [WarpCore.settle, WarpCore.kill, WarpCore.drainRegs]
  · have hexec := exec_exit_of_noCallees h hm fun _ => hundoomed
    rw [if_pos hlast] at hexec
    obtain ⟨x, hx, rfl⟩ := Option.map_eq_some_iff.1 h.warp
    have hgone : (s.lanesGone c).warps.find? c.wid = some { x with run := (x.run.drainRegs.settle.kill c.lanes).settle } :=
      (Table.find?_modify_self _ _ _).trans (congrArg (Option.map _) hx)
    obtain ⟨v, hv, hcur, hmem⟩ := State.endWarp_erases hgone (hhelp x hx) htask
    refine ⟨_, hexec, ?_, ?_, fun hstores a => ?_⟩
    · rw [hv]; exact hcur
    · rw [hv]; exact Table.find?_erase_self _ _
    · have hpub := State.publish_mem_of_stores_nil (congrArg (Option.map Warp.run) hgone) hstores .dev
      rw [hv]
      exact congrArg (Memory.byte · a) (hmem.trans hpub)

end Sys2Proof.Machine
end

section
/-! PROOF. What a write at the home does (R202, R205, R222, R408): the bytes that it leaves, the registrations that it ends, and all that it leaves alone. `State.homeWrite_lands` cuts it in two: the bytes land, and then the line's registrations are evaluated. -/

namespace Sys2Proof.Machine

/-! ### What is left alone -/

/-- Two states of a warp agree but for where lanes stand, and in which wait. -/
def WarpCore.SameButFrontier (w w' : WarpCore) : Prop := { w' with frontier := w.frontier } = w

theorem WarpCore.SameButFrontier.trans {a b c : WarpCore} (hab : a.SameButFrontier b) (hbc : b.SameButFrontier c) : a.SameButFrontier c := by
  have hca : { c with frontier := a.frontier } = { b with frontier := a.frontier } := congrArg (fun x : WarpCore => { x with frontier := a.frontier }) hbc
  exact hca.trans hab

theorem WarpCore.SameButFrontier.held? {w w' : WarpCore} (h : w.SameButFrontier w') (l : Nat) (p : Loc) : w'.held? l p = w.held? l p := by
  have hp : ({ w' with frontier := w.frontier } : WarpCore).held? l p = w.held? l p := congrArg (fun x : WarpCore => x.held? l p) h
  rw [← hp]
  cases p <;> rfl

/-- Every warp stays, and only where its lanes stand changes; every context keeps its world. -/
structure State.KeepsWarps (s t : State) : Prop where
  world : ∀ asid, t.worldOf asid = s.worldOf asid
  warp : ∀ k w, s.warp? k = some w → ∃ w', t.warp? k = some w' ∧ w.SameButFrontier w'

theorem State.KeepsWarps.trans {s t u : State} (hst : s.KeepsWarps t) (htu : t.KeepsWarps u) : s.KeepsWarps u where
  world asid := (htu.world asid).trans (hst.world asid)
  warp k w hw := by
    obtain ⟨w₁, hw₁, h₁⟩ := hst.warp k w hw
    obtain ⟨w₂, hw₂, h₂⟩ := htu.warp k w₁ hw₁
    exact ⟨w₂, hw₂, h₁.trans h₂⟩

theorem State.KeepsWarps.of_eq {s t : State} (hw : t.warps = s.warps) (hc : t.ctxs = s.ctxs) : s.KeepsWarps t where
  world asid := by unfold State.worldOf; rw [hc]
  warp k w h := ⟨w, by unfold State.warp? at h ⊢; rw [hw, h], rfl⟩

/-- `t` with the bytes of `s`, what is known of them and what is counted of them, and with its cores, whose Darner state a write may spoil (R246). -/
def State.withBytesOf (t s : State) : State :=
  { t with mem := s.mem, hist := s.hist, seq := s.seq, byteKeys := s.byteKeys, poison := s.poison, undef := s.undef, cores := s.cores, counters := s.counters }

/-- `t` with the registrations of `s` and those who may hear of their end: warps, queues and graphs (R220). -/
def State.withOwnersOf (t s : State) : State :=
  { t with regs := s.regs, warps := s.warps, saved := s.saved, marks := s.marks, ctxs := s.ctxs, graphs := s.graphs }

/-- Only the publication order and the history change (R206). -/
structure State.OnlyHist (s t : State) : Prop where
  rest : { t with hist := s.hist, seq := s.seq } = s

/-- Only bytes and what is known of them change. -/
structure State.OnlyBytes (s t : State) : Prop where
  rest : t.withBytesOf s = s

/-- Registrations end, and their owners hear of it: nothing else of the machine changes. -/
structure State.OnlyEnds (s t : State) : Prop extends State.KeepsWarps s t where
  rest : t.withOwnersOf s = s

/-- All that a write at the home may change. -/
structure State.OnlyWrites (s t : State) : Prop extends State.KeepsWarps s t where
  rest : (t.withBytesOf s).withOwnersOf s = s

theorem State.OnlyHist.refl (s : State) : s.OnlyHist s := ⟨rfl⟩

theorem State.OnlyHist.trans {s t u : State} (hst : s.OnlyHist t) (htu : t.OnlyHist u) : s.OnlyHist u where
  rest := (congrArg (fun v : State => { v with hist := s.hist, seq := s.seq }) htu.rest :).trans hst.rest

theorem State.OnlyHist.onlyBytes {s t : State} (h : s.OnlyHist t) : s.OnlyBytes t where
  rest := (congrArg (·.withBytesOf s) h.rest :)

theorem State.OnlyBytes.trans {s t u : State} (hst : s.OnlyBytes t) (htu : t.OnlyBytes u) : s.OnlyBytes u where
  rest := (congrArg (·.withBytesOf s) htu.rest :).trans hst.rest

theorem State.OnlyEnds.refl (s : State) : s.OnlyEnds s := ⟨.of_eq rfl rfl, rfl⟩

theorem State.OnlyEnds.trans {s t u : State} (hst : s.OnlyEnds t) (htu : t.OnlyEnds u) : s.OnlyEnds u where
  toKeepsWarps := hst.toKeepsWarps.trans htu.toKeepsWarps
  rest := (congrArg (·.withOwnersOf s) htu.rest :).trans hst.rest

theorem State.OnlyWrites.trans {s t u : State} (hst : s.OnlyWrites t) (htu : t.OnlyWrites u) : s.OnlyWrites u where
  toKeepsWarps := hst.toKeepsWarps.trans htu.toKeepsWarps
  rest := (congrArg (fun v => (v.withBytesOf s).withOwnersOf s) htu.rest :).trans hst.rest

theorem State.OnlyBytes.onlyWrites {s t : State} (h : s.OnlyBytes t) : s.OnlyWrites t where
  toKeepsWarps := .of_eq (congrArg State.warps h.rest :) (congrArg State.ctxs h.rest :)
  rest := (congrArg (·.withOwnersOf s) h.rest :)

theorem State.OnlyEnds.onlyWrites {s t : State} (h : s.OnlyEnds t) : s.OnlyWrites t where
  toKeepsWarps := h.toKeepsWarps
  rest := (congrArg (·.withBytesOf s) h.rest :)

theorem State.OnlyWrites.refl (s : State) : s.OnlyWrites s := (State.OnlyEnds.refl s).onlyWrites

/-- The worlds that reach an address stay (R406). -/
theorem State.OnlyWrites.regionAllows {s t : State} (h : s.OnlyWrites t) (world : Bool) (pa : Nat) : t.regionAllows world pa = s.regionAllows world pa :=
  (congrArg (fun v : State => v.regionAllows world pa) h.rest :)

theorem State.OnlyWrites.warpWorld {s t : State} (h : s.OnlyWrites t) (w : WarpCore) : t.warpWorld w = s.warpWorld w :=
  (h.world _).trans (congrArg (fun v : State => s.worldOf (v.asidOf w)) h.rest :)

/-! ### Bytes and words -/

theorem mem_keysFrom {k n x : Nat} : x ∈ keysFrom k n ↔ k ≤ x ∧ x < k + n := by
  induction n generalizing k with
  | zero => simp [keysFrom]
  | succ n ih => rw [keysFrom, List.mem_cons, ih]; omega

theorem mem_wordKeys {k n x : Nat} (hn : 0 < n) : x ∈ wordKeys k n ↔ x % 4 = 0 ∧ k / 4 ≤ x / 4 ∧ x / 4 ≤ (k + n - 1) / 4 := by
  rw [wordKeys, if_neg (by omega), List.mem_map]
  constructor
  · rintro ⟨i, hi, rfl⟩
    have := List.mem_range.1 hi
    omega
  · rintro ⟨h4, hlo, hhi⟩
    exact ⟨x / 4 - k / 4, List.mem_range.2 (by omega), by omega⟩

@[simp] theorem length_bytesOfNat (n v : Nat) : (bytesOfNat n v).length = n := by
  induction n generalizing v with
  | zero => rfl
  | succ n ih => rw [bytesOfNat, List.length_cons, ih]

theorem getElem?_bytesOfNat {n i : Nat} (v : Nat) (hi : i < n) : (bytesOfNat n v)[i]? = some (BitVec.ofNat 8 (v / 256 ^ i)) := by
  induction n generalizing v i with
  | zero => omega
  | succ n ih =>
    cases i with
    | zero => simp [bytesOfNat]
    | succ i => rw [bytesOfNat, List.getElem?_cons_succ, ih _ (by omega), Nat.div_div_eq_div_mul, pow_succ']

/-- Bytes written and read back. -/
theorem Memory.bytes_write (m : Memory) (k : Nat) (data : List Byte) : (m.write k data).bytes k data.length = data := by
  have hread (i : Nat) : ∀ d : List Byte, (∀ j b, d[j]? = some b → (m.write k data).byte (i + j) = b) → (m.write k data).bytes i d.length = d := by
    intro d
    induction d generalizing i with
    | nil => intro _; rfl
    | cons b d ih =>
      intro h
      have htail := ih (i + 1) fun j c hj => by rw [Nat.add_assoc, Nat.add_comm 1]; exact h (j + 1) c hj
      exact congrArg₂ List.cons (h 0 b rfl) htail
  exact hread k data fun j b hj => m.byte_write data k j b hj

theorem Memory.byte_foldl_set {l : List Nat} (m : Memory) (f : Memory → Nat → Byte) {a : Nat} (h : a ∉ l) :
    Memory.byte (l.foldl (fun m k => Map.set 0 m k (f m k)) m) a = m.byte a := by
  induction l generalizing m with
  | nil => rfl
  | cons k l ih =>
    rw [List.mem_cons, not_or] at h
    exact (ih _ h.2).trans (Map.get_set_ne 0 m _ h.1)

/-- A run of a list's changes, each of which a preorder allows, is allowed. -/
theorem State.foldl_rel {β : Type} {R : State → State → Prop} (hrefl : ∀ s, R s s) (htrans : ∀ {s t u}, R s t → R t u → R s u)
    (f : State → β → State) (hf : ∀ s b, R s (f s b)) (l : List β) (s : State) : R s (l.foldl f s) :=
  List.foldlRecOn l f (hrefl s) fun t ht b _ => htrans ht (hf t b)

/-! ### Undefined contents (R4, R209) -/

theorem inRanges_append (l m : List (Nat × Nat)) (a : Nat) : inRanges (l ++ m) a = (inRanges l a || inRanges m a) := List.any_append

/-- Outside the keys that are cut, ranges stay. -/
theorem inRanges_cutRanges {lo hi a : Nat} (h : a < lo ∨ hi ≤ a) (l : List (Nat × Nat)) : inRanges (cutRanges lo hi l) a = inRanges l a := by
  unfold cutRanges
  split
  · rfl
  · rename_i hlt
    rw [inRanges, inRanges, List.any_flatten, List.any_map]
    refine congrArg (fun p => List.any l p) (funext fun r => ?_)
    rw [Bool.eq_iff_iff]
    simp only [Function.comp_apply, List.any_filter, List.any_cons, List.any_nil, Bool.or_false, Bool.or_eq_true, Bool.and_eq_true, decide_eq_true_eq]
    omega

/-- What a write leaves of the ranges, outside its own keys; an atomic leaves them all. -/
theorem inRanges_of_written {lo hi a : Nat} (h : a < lo ∨ hi ≤ a) (c : Prop) [Decidable c] (bad l : List (Nat × Nat)) (ha : inRanges l a = true) :
    inRanges (if c then l else bad ++ cutRanges lo hi l) a = true := by
  split
  · exact ha
  · rw [inRanges_append, inRanges_cutRanges h, ha, Bool.or_true]

/-- A byte stays undefined while the ranges hold it. -/
theorem State.isUndef_mono {s t : State} {a : Nat} (hm : t.mixed = s.mixed) (hu : inRanges s.undef a = true → inRanges t.undef a = true)
    (h : s.isUndef a = true) : t.isUndef a = true := by
  unfold State.isUndef State.torn at h ⊢
  rw [hm]
  exact Bool.or_eq_true_iff.2 ((Bool.or_eq_true_iff.1 h).imp_right hu)

/-! ### A write's bytes land -/

theorem State.recall_onlyHist (s : State) (p : Party) (k n : Nat) : s.OnlyHist (s.recall p k n) := by
  unfold State.recall
  dsimp only
  split
  · exact ⟨rfl⟩
  · exact ⟨rfl⟩

theorem State.rekey_onlyBytes (s : State) (okey k n : Nat) : s.OnlyBytes (s.rekey okey k n) := by
  unfold State.rekey
  dsimp only
  split
  · exact ⟨rfl⟩
  · exact ⟨rfl⟩

/-- Under the key in force nothing is decrypted anew (R408). -/
theorem State.rekey_of_keyInForce {s : State} {okey k n : Nat} (h : KeyInForce s okey k n) : s.rekey okey k n = s := by
  have hno : (isPhys k && (keysFrom k n).any (s.otherKey okey)) = false := by
    rcases h with hspad | htag
    · have hphys : isPhys k = false := by
        have hbase : spadBase ≤ k := of_decide_eq_true hspad
        exact decide_eq_false (by rw [spadBase] at hbase; omega)
      rw [hphys, Bool.false_and]
    · have hany : (keysFrom k n).any (s.otherKey okey) = false := by
        rw [List.any_eq_false]
        intro x hx
        obtain ⟨hlo, hhi⟩ := mem_keysFrom.1 hx
        simp [State.otherKey, htag x hlo hhi]
      rw [hany, Bool.and_false]
  unfold State.rekey
  simp only [hno, Bool.false_eq_true, if_false]

/-- Words are made ready for a write: only bytes of undefined contents in them may change, in memory and in their newest writes (R4). -/
structure State.Scrubbed (ws : List Nat) (s t : State) : Prop where
  rest : { t with mem := s.mem, hist := s.hist } = s
  byte : ∀ a, s.isUndef a = false ∨ a / 4 * 4 ∉ ws → t.mem.byte a = s.mem.byte a

theorem State.scrub_scrubbed {ws : List Nat} {x : Nat} (s : State) (hx : x ∈ ws) (h4 : x % 4 = 0) : State.Scrubbed ws s (s.scrub x) := by
  unfold State.scrub
  dsimp only
  split
  · exact ⟨rfl, fun _ _ => rfl⟩
  · refine ⟨rfl, fun a ha => Memory.byte_foldl_set s.mem (fun _ y => s.freeBits [61, y] 8) fun hbad => ?_⟩
    obtain ⟨hkey, hundef⟩ := List.mem_filter.1 hbad
    rcases ha with hdef | hout
    · rw [hdef] at hundef; cases hundef
    · rw [mem_keysFrom] at hkey
      rw [show a / 4 * 4 = x by omega] at hout
      exact hout hx

theorem State.foldl_scrub {ws : List Nat} (h4 : ∀ x ∈ ws, x % 4 = 0) (s : State) : State.Scrubbed ws s (ws.foldl (fun s x => s.scrub x) s) := by
  refine List.foldlRecOn ws _ ⟨rfl, fun _ _ => rfl⟩ fun t ht x hx => ?_
  obtain ⟨hrest, hbyte⟩ := ht
  obtain ⟨hrest', hbyte'⟩ := t.scrub_scrubbed hx (h4 x hx)
  refine ⟨(congrArg (fun v : State => { v with mem := s.mem, hist := s.hist }) hrest' :).trans hrest, fun a ha => ?_⟩
  have hundef : t.isUndef a = s.isUndef a := (congrArg (State.isUndef · a) hrest :)
  rw [hbyte' a (by rwa [hundef]), hbyte a ha]

/-- The machine just before a write of `n` bytes lands: they are under the writer's key, what other cores hold of their words is recalled, and the words are made ready. -/
def State.readied (s : State) (p : Party) (okey k n : Nat) : State :=
  (wordKeys k n).foldl (fun s x => s.scrub x) ((partWords k n).foldl (fun s x => s.recall p x 4) (s.rekey okey k n))

theorem State.recalls_onlyHist (s : State) (p : Party) (ws : List Nat) : s.OnlyHist (ws.foldl (fun s x => s.recall p x 4) s) :=
  State.foldl_rel State.OnlyHist.refl State.OnlyHist.trans _ (fun s x => s.recall_onlyHist p x 4) ws s

theorem State.readied_scrubbed (s : State) (p : Party) (okey k : Nat) {n : Nat} (hn : 0 < n) :
    ∃ v : State, (s.rekey okey k n).OnlyHist v ∧ State.Scrubbed (wordKeys k n) v (s.readied p okey k n) :=
  ⟨_, State.recalls_onlyHist _ p (partWords k n), State.foldl_scrub (fun _ hx => ((mem_wordKeys hn).1 hx).1) _⟩

/-- What `readied` leaves. -/
theorem State.readied_onlyBytes (s : State) (p : Party) (okey k : Nat) {n : Nat} (hn : 0 < n) : s.OnlyBytes (s.readied p okey k n) := by
  obtain ⟨v, hv, hscrub⟩ := s.readied_scrubbed p okey k hn
  have hbytes : v.OnlyBytes (s.readied p okey k n) := ⟨(congrArg (·.withBytesOf v) hscrub.rest :)⟩
  exact (s.rekey_onlyBytes okey k n).trans (hv.onlyBytes.trans hbytes)

theorem State.readied_undef (s : State) (p : Party) (okey k : Nat) {n : Nat} (hn : 0 < n) : (s.readied p okey k n).undef = s.undef := by
  obtain ⟨v, hv, hscrub⟩ := s.readied_scrubbed p okey k hn
  have hrekey : (s.rekey okey k n).undef = s.undef := by
    unfold State.rekey
    dsimp only
    split <;> rfl
  exact (congrArg State.undef hscrub.rest :).trans ((congrArg State.undef hv.rest :).trans hrekey)

/-- Under the key in force, `readied` changes no byte but those of undefined contents in the words of the write. -/
theorem State.readied_of_keyInForce {s : State} {okey k n : Nat} (h : KeyInForce s okey k n) (hn : 0 < n) (p : Party) :
    (s.readied p okey k n).byteKeys = s.byteKeys ∧
      ∀ a, s.isUndef a = false ∨ a / 4 * 4 ∉ wordKeys k n → (s.readied p okey k n).mem.byte a = s.mem.byte a := by
  obtain ⟨v, hv, hscrub⟩ := s.readied_scrubbed p okey k hn
  rw [State.rekey_of_keyInForce h] at hv
  refine ⟨(congrArg State.byteKeys hscrub.rest :).trans (congrArg State.byteKeys hv.rest :), fun a ha => ?_⟩
  have hundef : v.isUndef a = s.isUndef a := (congrArg (State.isUndef · a) hv.rest :)
  rw [hscrub.byte a (by rwa [hundef])]
  exact (congrArg (fun u : State => u.mem.byte a) hv.rest :)

/-- The bytes `data` have landed from `k` on, and no registration is evaluated yet. -/
structure State.Lands (s : State) (okey k : Nat) (data : List Byte) (u : State) : Prop extends State.OnlyBytes s u where
  byte : ∀ i b, data[i]? = some b → u.mem.byte (k + i) = b
  bytes : u.mem.bytes k data.length = data
  others : KeyInForce s okey k data.length → u.byteKeys = s.byteKeys ∧
    ∀ a, a < k ∨ k + data.length ≤ a → s.isUndef a = false ∨ a / 4 * 4 ∉ wordKeys k data.length → u.mem.byte a = s.mem.byte a
  undef : ∀ a, a < k ∨ k + data.length ≤ a → s.isUndef a = true → u.isUndef a = true

/-- A write at the home is a landing, and then the evaluation of the line's registrations. -/
theorem State.homeWrite_lands (s : State) (b : Writer) (sc : Scope) (atomic : Option Scope) (okey k : Nat) {data : List Byte} (hd : data ≠ []) :
    ∃ u : State, s.Lands okey k data u ∧ s.homeWrite b sc atomic okey k data = u.reevaluate k data.length := by
  have hn : 0 < data.length := List.length_pos_iff.2 hd
  have hempty : data.isEmpty = false := by simpa using hd
  have hready := s.readied_onlyBytes b.party okey k hn
  have hmixed : (s.readied b.party okey k data.length).mixed = s.mixed := (congrArg State.mixed hready.rest :)
  have hundef := s.readied_undef b.party okey k hn
  unfold State.homeWrite
  simp only [hempty, Bool.false_eq_true, if_false]
  refine ⟨_, ?_, rfl⟩
  refine ⟨hready.trans ⟨rfl⟩, fun i x => Memory.byte_write _ data k i x, Memory.bytes_write _ k data, fun hkey => ?_, fun a hout ha => ?_⟩
  · obtain ⟨hkeys, hbyte⟩ := State.readied_of_keyInForce hkey hn b.party
    exact ⟨hkeys, fun a hout ha => (Memory.byte_write_outside _ data hout).trans (hbyte a ha)⟩
  · have hin (h : inRanges s.undef a = true) : inRanges (s.readied b.party okey k data.length).undef a = true := by rwa [hundef]
    exact State.isUndef_mono hmixed (fun h => inRanges_of_written hout _ _ _ (hin h)) ha

/-! ### Registrations end (R220, R222, R259) -/

theorem State.recordIf_onlyEnds (s : State) (wid : Nat) (which : Wait → Mask → Bool) (code : Nat) : s.OnlyEnds (s.recordIf wid which code) where
  world _ := rfl
  rest := rfl
  warp k w hw := by
    obtain ⟨x, hx, rfl⟩ := Option.map_eq_some_iff.1 hw
    by_cases hk : k = wid
    · subst hk
      exact ⟨x.run.recordIf which code, congrArg (Option.map Warp.run) ((Table.find?_modify_self _ _ _).trans (congrArg _ hx)), rfl⟩
    · exact ⟨x.run, congrArg (Option.map Warp.run) ((Table.find?_modify_ne _ _ hk).trans hx), rfl⟩

theorem State.endReg_onlyEnds (s : State) (id code : Nat) : s.OnlyEnds (s.endReg id code) := by
  have herased : s.OnlyEnds { s with regs := s.regs.erase id } := ⟨.of_eq rfl rfl, rfl⟩
  unfold State.endReg
  cases s.regs.find? id with
  | none => exact .refl s
  | some r =>
    dsimp only
    cases r.owner with
    | warp wid _ => exact herased.trans (State.recordIf_onlyEnds _ wid _ code)
    | darner wid _ _ => exact herased.trans (State.recordIf_onlyEnds _ wid _ code)
    | queue asid q =>
      refine herased.trans ⟨⟨fun a => ?_, fun k w hw => ⟨w, hw, rfl⟩⟩, rfl⟩
      unfold State.worldOf
      by_cases ha : a = asid
      · subst ha
        simp only [Table.find?_modify_self]
        cases s.ctxs.find? a <;> rfl
      · simp only [Table.find?_modify_ne _ _ ha]
    | graph g => exact herased.trans ⟨.of_eq rfl rfl, rfl⟩

theorem Table.mem_of_find? {α : Type} {t : Table α} {q : Nat} {v : α} (h : t.find? q = some v) : (q, v) ∈ t := by
  induction t with
  | nil => cases h
  | cons e t ih =>
    rw [Table.find?_cons] at h
    split at h
    · rename_i hq
      cases h
      exact List.mem_cons.2 (.inl (by rw [hq]))
    · exact List.mem_cons_of_mem e (ih h)

theorem Table.erase_of_find?_none {α : Type} {t : Table α} {q : Nat} (h : t.find? q = none) : t.erase q = t := by
  refine List.filter_eq_self.2 fun e he => decide_eq_true fun heq => ?_
  induction t with
  | nil => cases he
  | cons x t ih =>
    rw [Table.find?_cons] at h
    split at h
    · cases h
    · rename_i hne
      rcases List.mem_cons.1 he with rfl | he
      · exact hne heq.symm
      · exact ih h he

/-- The entry of a registration that ended is free (R230). -/
@[simp] theorem State.endReg_regs (s : State) (id code : Nat) : (s.endReg id code).regs = s.regs.erase id := by
  unfold State.endReg
  cases h : s.regs.find? id with
  | none => exact (Table.erase_of_find?_none h).symm
  | some r =>
    dsimp only
    cases r.owner with
    | warp wid _ => rfl
    | darner wid _ _ => rfl
    | queue asid q => rfl
    | graph g => rfl

theorem State.noteMet_onlyEnds (s : State) (k n : Nat) : s.OnlyEnds (s.noteMet k n) := ⟨.of_eq rfl rfl, rfl⟩

theorem State.reevaluateOwners_onlyEnds (s : State) (k n : Nat) : s.OnlyEnds (s.reevaluateOwners k n) := by
  refine State.foldl_rel State.OnlyEnds.refl State.OnlyEnds.trans _ (fun s e => ?_) _ s
  cases s.ownerEnds e.2 with
  | none => exact .refl s
  | some code => exact s.endReg_onlyEnds e.1 code

/-- What the evaluation of a line starts from: where the bytes lie in a saved bank, the waits there have their notes (R224). -/
def State.noted (s : State) (k n : Nat) : State := if savedBase ≤ k then s.noteMet k n else s

theorem State.noted_onlyEnds (s : State) (k n : Nat) : s.OnlyEnds (s.noted k n) := by
  unfold State.noted
  split
  · exact s.noteMet_onlyEnds k n
  · exact .refl s

/-- The registrations that the evaluation of a line wakes (R222). -/
def State.woken (s : State) (k n : Nat) : Table Registration :=
  s.regs.filter fun e =>
    (match e.2.place with | .inFlight => false | .held => false | _ => true) && decide (e.2.key < savedBase) &&
      decide (k / 128 ≤ e.2.key / 128) && decide (e.2.key / 128 ≤ (k + n - 1) / 128) && s.regHolds e.2 && s.inTime e.2

/-- Every registration of a list ends with a code. -/
def State.endAll (s : State) (es : Table Registration) (code : Nat) : State := es.foldl (fun s e => s.endReg e.1 code) s

theorem State.reevaluate_eq (s : State) (k n : Nat) :
    s.reevaluate k n = ((s.noted k n).endAll ((s.noted k n).woken k n) 1).reevaluateOwners k n := rfl

theorem State.endAll_onlyEnds (s : State) (es : Table Registration) (code : Nat) : s.OnlyEnds (s.endAll es code) :=
  State.foldl_rel State.OnlyEnds.refl State.OnlyEnds.trans _ (fun s (e : Nat × Registration) => s.endReg_onlyEnds e.1 code) es s

/-- What ended is gone; every other registration stays. -/
theorem State.find?_regs_endAll (s : State) (es : Table Registration) (code id : Nat) :
    (s.endAll es code).regs.find? id = if id ∈ es.map Prod.fst then none else s.regs.find? id := by
  unfold State.endAll
  induction es generalizing s with
  | nil => rfl
  | cons e es ih =>
    rw [List.foldl_cons, ih, State.endReg_regs]
    by_cases hid : id = e.1
    · subst hid
      rw [Table.find?_erase_self, if_pos (List.mem_map_of_mem List.mem_cons_self), ite_self]
    · rw [Table.find?_erase_ne _ hid, List.map_cons]
      exact if_congr (by rw [List.mem_cons, or_iff_right hid]) rfl rfl

theorem State.reevaluate_onlyEnds (s : State) (k n : Nat) : s.OnlyEnds (s.reevaluate k n) := by
  rw [State.reevaluate_eq]
  exact (s.noted_onlyEnds k n).trans ((State.endAll_onlyEnds _ _ 1).trans (State.reevaluateOwners_onlyEnds _ k n))

/-! ### The whole write -/

theorem State.homeWrite_onlyWrites (s : State) (b : Writer) (sc : Scope) (atomic : Option Scope) (okey k : Nat) (data : List Byte) :
    s.OnlyWrites (s.homeWrite b sc atomic okey k data) := by
  by_cases hd : data = []
  · subst hd; exact .refl s
  · obtain ⟨u, hland, heq⟩ := s.homeWrite_lands b sc atomic okey k hd
    rw [heq]
    exact hland.toOnlyBytes.onlyWrites.trans (u.reevaluate_onlyEnds k data.length).onlyWrites

/-- The bytes of a write read back. -/
theorem State.homeWrite_bytes (s : State) (b : Writer) (sc : Scope) (atomic : Option Scope) (okey k : Nat) {data : List Byte} (hd : data ≠ []) :
    (s.homeWrite b sc atomic okey k data).mem.bytes k data.length = data := by
  obtain ⟨u, hland, heq⟩ := s.homeWrite_lands b sc atomic okey k hd
  rw [heq, State.reevaluate_mem, hland.bytes]

/-- The bytes `data` took their place from `k` on under the key in force: every other byte stays but those of undefined contents in the words of which they fill a part (R4), none of the others is defined again, and no key changed. -/
structure State.Places (s : State) (k : Nat) (data : List Byte) (t : State) : Prop extends State.OnlyWrites s t where
  stored : StoredAmong s t k data
  keys : t.byteKeys = s.byteKeys
  undef : ∀ a, a < k ∨ k + data.length ≤ a → s.isUndef a = true → t.isUndef a = true

theorem State.homeWrite_places {s : State} {okey k : Nat} {data : List Byte} (hd : data ≠ []) (hkey : KeyInForce s okey k data.length)
    (b : Writer) (sc : Scope) (atomic : Option Scope) : s.Places k data (s.homeWrite b sc atomic okey k data) := by
  obtain ⟨u, hland, heq⟩ := s.homeWrite_lands b sc atomic okey k hd
  obtain ⟨hkeys, hothers⟩ := hland.others hkey
  have hends := u.reevaluate_onlyEnds k data.length
  refine ⟨s.homeWrite_onlyWrites b sc atomic okey k data, fun a => ?_, ?_, fun a hout ha => ?_⟩
  · rw [heq, State.reevaluate_mem]
    split
    · rename_i hin
      have hx := List.getElem?_eq_getElem (l := data) (i := a - k) (by omega)
      rw [hx, Option.getD_some, ← hland.byte _ _ hx, Nat.add_sub_cancel' hin.1]
    · rename_i hout
      exact fun ha => hothers a (by omega) ha
  · rw [heq]
    exact (congrArg State.byteKeys hends.rest :).trans hkeys
  · rw [heq]
    exact (congrArg (State.isUndef · a) hends.rest :).trans (hland.undef a hout ha)

end Sys2Proof.Machine
end

section
/-! PROOF. Buffered stores reach memory (R204, R205, R222). `State.perform_places` says what one store does at its place; a boundary performs them in order, and `Published` is what it has reached after each. -/

namespace Sys2Proof.Machine

/-! ### One store takes its place -/

theorem State.modWarp_of_resident {s : State} {wid : Nat} {w : WarpCore} (hw : s.warp? wid = some w) (f : WarpCore → WarpCore) :
    s.modWarp wid f = s.modRun wid f := by
  obtain ⟨x, hx, rfl⟩ := Option.map_eq_some_iff.1 hw
  unfold State.modWarp
  rw [if_pos (by rw [hx]; rfl)]

theorem State.anyWarp?_of_resident {s : State} {wid : Nat} {w : WarpCore} (hw : s.warp? wid = some w) : s.anyWarp? wid = some w := by
  rw [State.anyWarp?, hw]

/-- A change of a resident warp, wherever it is looked for. -/
theorem State.warp?_modWarp {s : State} {wid : Nat} {w : WarpCore} (hw : s.warp? wid = some w) (f : WarpCore → WarpCore) :
    (s.modWarp wid f).warp? wid = some (f w).settle := by
  rw [State.modWarp_of_resident hw, State.warp?_modRun, hw]; rfl

/-- The machine but for its warps. -/
theorem State.modWarp_rest (s : State) (wid : Nat) (f : WarpCore → WarpCore) : { s.modWarp wid f with warps := s.warps, saved := s.saved } = s := by
  unfold State.modWarp
  split <;> rfl

theorem State.spoilSync_onlyBytes (s : State) (k n : Nat) : s.OnlyBytes (s.spoilSync k n) := by
  unfold State.spoilSync
  dsimp only
  split <;> exact ⟨rfl⟩

theorem State.isUndef_spoilSync (s : State) (k n : Nat) {a : Nat} (h : s.isUndef a = true) : (s.spoilSync k n).isUndef a = true := by
  refine State.isUndef_mono (congrArg State.mixed (s.spoilSync_onlyBytes k n).rest :) (fun ha => ?_) h
  unfold State.spoilSync
  dsimp only
  split
  · exact ha
  · rw [inRanges_append, ha, Bool.or_true]

@[simp] theorem State.spoilSync_mem (s : State) (k n : Nat) : (s.spoilSync k n).mem = s.mem := by
  unfold State.spoilSync
  dsimp only
  split <;> rfl

@[simp] theorem State.spoilSync_byteKeys (s : State) (k n : Nat) : (s.spoilSync k n).byteKeys = s.byteKeys := by
  unfold State.spoilSync
  dsimp only
  split <;> rfl

/-- Only the cores change. -/
structure State.OnlyCores (s t : State) : Prop where
  rest : { t with cores := s.cores } = s

theorem State.OnlyCores.refl (s : State) : s.OnlyCores s := ⟨rfl⟩

theorem State.OnlyCores.trans {s t u : State} (hst : s.OnlyCores t) (htu : t.OnlyCores u) : s.OnlyCores u where
  rest := (congrArg (fun v : State => { v with cores := s.cores }) htu.rest :).trans hst.rest

theorem State.OnlyCores.onlyBytes {s t : State} (h : s.OnlyCores t) : s.OnlyBytes t where
  rest := (congrArg (·.withBytesOf s) h.rest :)

/-- A write of a wave spoils the Darner state of cores (R246). -/
theorem State.spoilArea_onlyCores (s : State) (w : WarpCore) (p : Pending) : s.OnlyCores (s.spoilArea w p) := by
  unfold State.spoilArea State.spoilDarner
  split
  · exact .refl s
  · refine State.foldl_rel State.OnlyCores.refl State.OnlyCores.trans _ (fun s e => ?_) _ s
    refine State.foldl_rel State.OnlyCores.refl State.OnlyCores.trans _ (fun s c => ?_) _ s
    exact ⟨rfl⟩

/-- A buffered store that its warp's world lets it make, under the key in force. -/
def Pending.Ready (s : State) (w : WarpCore) (p : Pending) : Prop :=
  0 < p.size ∧ (p.bank = true ∨ s.regionAllows (s.warpWorld w) p.key = true) ∧ KeyInForce s p.okey p.key p.size

/-- A buffered store that is no mark and no RED takes its place (R205, R222). -/
theorem State.perform_places {s : State} {w : WarpCore} {p : Pending} (wid : Nat) (sc : Scope) (hmark : p.mark = false) (hred : p.red = none)
    (hp : p.Ready s w) : s.Places p.key (bytesOfNat p.size p.data) (s.perform wid w sc p) := by
  obtain ⟨hsize, hallowed, hkey⟩ := hp
  have hgoes : (!p.bank && !s.regionAllows (s.warpWorld w) p.key) = false := by
    rcases hallowed with h | h <;> simp [h]
  have hdata : bytesOfNat p.size p.data ≠ [] := List.ne_nil_of_length_pos (by rw [length_bytesOfNat]; exact hsize)
  have hwrite := State.homeWrite_places hdata (by rw [length_bytesOfNat]; exact hkey) { w.writer with queue := p.queue } (if p.bank then .core else sc) none
  unfold State.perform
  simp only [hmark, hgoes, hred, Bool.false_eq_true, if_false]
  generalize s.homeWrite _ _ _ _ _ _ = t at hwrite ⊢
  have hsync := t.spoilSync_onlyBytes p.key p.size
  have harea := (t.spoilSync p.key p.size).spoilArea_onlyCores w p
  refine ⟨hwrite.toOnlyWrites.trans (hsync.trans harea.onlyBytes).onlyWrites, fun a => ?_, ?_, fun a hout ha => ?_⟩
  · have hmem : ((t.spoilSync p.key p.size).spoilArea w p).mem = t.mem := (congrArg State.mem harea.rest :).trans (t.spoilSync_mem _ _)
    rw [hmem]
    exact hwrite.stored a
  · exact (congrArg State.byteKeys harea.rest :).trans ((t.spoilSync_byteKeys _ _).trans hwrite.keys)
  · exact (congrArg (State.isUndef · a) harea.rest :).trans (t.isUndef_spoilSync _ _ (hwrite.undef a hout ha))

/-- After other writes under keys in force a store is still ready. -/
theorem Pending.Ready.after {s t : State} {w : WarpCore} {p : Pending} (hp : p.Ready s w) (h : s.OnlyWrites t) (hk : t.byteKeys = s.byteKeys) :
    p.Ready t w := by
  obtain ⟨hsize, hallowed, hkey⟩ := hp
  refine ⟨hsize, by rwa [h.regionAllows, h.warpWorld], hkey.imp_right fun htag x hlo hhi => ?_⟩
  have htagAt : t.tagAt x = s.tagAt x := by unfold State.tagAt; rw [hk]
  have hkeyTag : t.keyTag p.okey = s.keyTag p.okey := (congrArg (State.keyTag · p.okey) h.rest :)
  rw [htagAt, hkeyTag, htag x hlo hhi]

/-- Nor does it depend on what warps hold. -/
theorem Pending.Ready.modWarp {s : State} {w : WarpCore} {p : Pending} (hp : p.Ready s w) (wid : Nat) (f : WarpCore → WarpCore) :
    p.Ready (s.modWarp wid f) w :=
  (congrArg (fun v : State => p.Ready v w) (s.modWarp_rest wid f) :).mpr hp

/-! ### The oldest store of a warp -/

/-- Where the oldest store is no queue entry, no other may take its place before it (R205, R217). -/
theorem WarpCore.nextStores_of_queue_none {w : WarpCore} {p : Pending} {rest : List Pending} (hst : w.stores = p :: rest) (hq : p.queue = none) :
    w.nextStores = [0] := by
  unfold WarpCore.nextStores
  rw [hst, List.length_cons, List.range_succ_eq_map, List.filter_cons_of_pos (by simp), List.filter_map]
  refine congrArg (List.cons 0) ?_
  rw [List.map_eq_nil_iff, List.filter_eq_nil_iff]
  intro i _
  simp only [Function.comp_apply, Nat.succ_ne_zero, decide_false, Bool.false_or]
  cases ((p :: rest)[i.succ]?).bind (·.queue) with
  | none => exact Bool.false_ne_true
  | some q => simp [hq]

theorem exec_homeWrite_of_oldest {s : State} {wid : Nat} {w : WarpCore} {p : Pending} {rest : List Pending} (hw : s.warp? wid = some w)
    (hst : w.stores = p :: rest) (hq : p.queue = none) :
    ∃ sc, exec (.homeWrite wid) s = .next ((s.modWarp wid fun w => { w with stores := w.stores.eraseIdx 0 }).perform wid w sc p) := by
  refine ⟨if s.pick [14, wid] 2 = 0 then .dev else .sys, exec_homeWrite.trans (congrArg Host.Outcome.next ?_)⟩
  unfold State.publishAt
  simp only [State.anyWarp?_of_resident hw, WarpCore.nextStores_of_queue_none hst hq, State.choose]
  simp only [hst, List.getElem?_cons_zero]

/-! ### A boundary -/

/-- The byte that a buffered store has for a key. -/
theorem Pending.byteAt?_of_store {p : Pending} (hmark : p.mark = false) (hred : p.red = none) (a : Nat) :
    p.byteAt? a = if p.key ≤ a ∧ a < p.key + p.size then (bytesOfNat p.size p.data)[a - p.key]? else none := by
  simp only [Pending.byteAt?, hmark, hred, Option.isNone_none, Bool.not_false, Bool.true_and, Bool.and_eq_true, decide_eq_true_eq]
  refine if_ctx_congr Iff.rfl (fun h => ?_) fun _ => rfl
  rw [getElem?_bytesOfNat p.data (by omega)]

theorem Pending.byteAt?_of_mark {p : Pending} (hmark : p.mark = true) (a : Nat) : p.byteAt? a = none := by
  simp [Pending.byteAt?, hmark]

theorem overlay_append (ps : List Pending) (p : Pending) (a : Nat) (b : Byte) : overlay (ps ++ [p]) a b = (p.byteAt? a).getD (overlay ps a b) :=
  List.foldl_concat ..

/-- The buffered stores `ps` have taken their places, in order (R205): every byte has its latest store's, but for those whose contents stay undefined. -/
structure State.Published (s : State) (ps : List Pending) (t : State) : Prop extends State.OnlyWrites s t where
  keys : t.byteKeys = s.byteKeys
  byte : ∀ a, (t.isUndef a = false ∨ ∀ p ∈ ps, p.mark = true ∨ a / 4 * 4 ∉ wordKeys p.key p.size) → t.mem.byte a = overlay ps a (s.mem.byte a)

theorem State.Published.nil (s : State) : s.Published [] s := ⟨.refl s, rfl, fun _ _ => rfl⟩

/-- One more store, or a mark. -/
theorem State.Published.perform {s t : State} {ps : List Pending} {w : WarpCore} {p : Pending} (h : s.Published ps t) (wid : Nat) (sc : Scope)
    (hred : p.red = none) (hp : p.mark = true ∨ p.Ready s w) : s.Published (ps ++ [p]) (t.perform wid w sc p) := by
  by_cases hmark : p.mark = true
  · have hsame : t.perform wid w sc p = t := by unfold State.perform; rw [if_pos hmark]
    rw [hsame]
    refine ⟨h.toOnlyWrites, h.keys, fun a ha => ?_⟩
    rw [overlay_append, p.byteAt?_of_mark hmark, Option.getD_none]
    exact h.byte a (ha.imp_right fun hall q hq => hall q (List.mem_append_left _ hq))
  · have hplaces := State.perform_places wid sc (Bool.eq_false_iff.2 hmark) hred ((hp.resolve_left hmark).after h.toOnlyWrites h.keys)
    refine ⟨h.toOnlyWrites.trans hplaces.toOnlyWrites, hplaces.keys.trans h.keys, fun a ha => ?_⟩
    have hstored := hplaces.stored a
    rw [length_bytesOfNat] at hstored
    rw [overlay_append, p.byteAt?_of_store (Bool.eq_false_iff.2 hmark) hred]
    by_cases hin : p.key ≤ a ∧ a < p.key + p.size
    · rw [if_pos hin] at hstored ⊢
      rw [hstored, getElem?_bytesOfNat p.data (by omega)]
      rfl
    · rw [if_neg hin] at hstored ⊢
      rw [Option.getD_none]
      have hout : a < p.key ∨ p.key + (bytesOfNat p.size p.data).length ≤ a := by rw [length_bytesOfNat]; omega
      have hbefore : t.isUndef a = false ∨ ∀ q ∈ ps ++ [p], q.mark = true ∨ a / 4 * 4 ∉ wordKeys q.key q.size := by
        refine ha.imp_left fun hdef => ?_
        by_contra hundef
        rw [hplaces.undef a hout (Bool.eq_true_of_not_eq_false hundef)] at hdef
        cases hdef
      rw [hstored (hbefore.imp_right fun hall => (hall p (by simp)).resolve_left hmark)]
      exact h.byte a (hbefore.imp_right fun hall q hq => hall q (List.mem_append_left _ hq))

theorem State.Published.foldl {s t : State} {done ps : List Pending} {w : WarpCore} (h : s.Published done t) (wid : Nat) (sc : Scope)
    (hred : ∀ p ∈ ps, p.red = none) (hp : ∀ p ∈ ps, p.mark = true ∨ p.Ready s w) :
    s.Published (done ++ ps) (ps.foldl (fun s p => s.perform wid w sc p) t) := by
  induction ps generalizing done t with
  | nil => rwa [List.append_nil]
  | cons p ps ih =>
    rw [List.append_cons]
    exact ih (h.perform wid sc (hred p List.mem_cons_self) (hp p List.mem_cons_self)) (fun q hq => hred q (List.mem_cons_of_mem _ hq))
      fun q hq => hp q (List.mem_cons_of_mem _ hq)

/-- The machine when a boundary of a resident warp has performed its stores. -/
def State.performed (s : State) (wid : Nat) (w : WarpCore) (sc : Scope) : State :=
  w.stores.foldl (fun s p => s.perform wid w sc p) (s.modWarp wid fun v => { v with stores := v.stores.drop w.stores.length })

/-- A boundary performs the stores of its warp, widens their publication, and may refresh the warp (R204). -/
theorem State.boundary_eq {s : State} {wid : Nat} {w : WarpCore} (hw : s.warp? wid = some w) (sc : Scope) (refresh : Bool) :
    s.boundary wid sc refresh =
      if refresh then ((s.performed wid w sc).widen wid sc).refreshWarp wid else (s.performed wid w sc).widen wid sc := by
  unfold State.boundary State.publish State.publishSome State.performed
  simp only [State.anyWarp?_of_resident hw, List.take_length]

/-- A refresh starts a warp's reads anew (R206), and changes nothing else. -/
theorem State.refreshWarp_spec {s : State} {wid : Nat} {w : WarpCore} (hw : s.warp? wid = some w) :
    (s.refreshWarp wid).warp? wid = some ({ w with refresh := s.seq, reads := [] } : WarpCore).settle ∧
      { s.refreshWarp wid with warps := s.warps, saved := s.saved } = s :=
  ⟨State.warp?_modWarp hw _, s.modWarp_rest wid _⟩

/-- The running state of the warp whose stores a boundary performs, and the bytes then. -/
theorem State.performed_spec {s : State} {wid : Nat} {w : WarpCore} (hw : s.warp? wid = some w) (sc : Scope) (hred : NoReds w)
    (hp : ∀ p ∈ w.stores, p.mark = true ∨ p.Ready s w) :
    (∀ a, ((s.performed wid w sc).isUndef a = false ∨ ∀ p ∈ w.stores, p.mark = true ∨ a / 4 * 4 ∉ wordKeys p.key p.size) →
      (s.performed wid w sc).mem.byte a = overlay w.stores a (s.mem.byte a)) ∧
    ∃ w', (s.performed wid w sc).warp? wid = some w' ∧ w'.stores = [] ∧ { w' with stores := w.stores, frontier := w.frontier } = w := by
  have hdone := (State.Published.nil (s.modWarp wid fun v => { v with stores := v.stores.drop w.stores.length })).foldl wid sc hred
    fun p hpm => (hp p hpm).imp_right (·.modWarp wid _)
  rw [List.nil_append] at hdone
  refine ⟨fun a ha => ?_, ?_⟩
  · have hmem : (s.modWarp wid fun v => { v with stores := v.stores.drop w.stores.length }).mem = s.mem := (congrArg State.mem (s.modWarp_rest wid _) :)
    rw [← hmem]
    exact hdone.byte a ha
  · obtain ⟨w', hw', hsame⟩ := hdone.warp wid _ (State.warp?_modWarp hw _)
    refine ⟨w', hw', ?_, (congrArg (fun x : WarpCore => { x with stores := w.stores, frontier := w.frontier }) hsame :)⟩
    exact (congrArg WarpCore.stores hsame :).trans List.drop_length

/-- A warp whose registers are another's holds what that one holds. -/
theorem WarpCore.held?_congr {w w' : WarpCore} (hregs : w'.regs = w.regs) (hw : w'.w = w.w) (hlanes : w'.lanes = w.lanes) (l : Nat) (p : Loc) :
    w'.held? l p = w.held? l p := by
  cases p <;> simp only [WarpCore.held?, WarpCore.lane, hregs, hw, hlanes]

/-- Settles O13: the oldest store is performed as `State.perform_places` says; a boundary performs all as `State.performed_spec` says. -/
theorem storesReachMemory : Obligations.StoresReachMemory := by
  refine ⟨fun s wid w p rest hw hst hmark hred hqueue hsize hallowed hkey => ?_, fun s wid w sc refresh hw hreds hready => ?_⟩
  · obtain ⟨sc, hexec⟩ := exec_homeWrite_of_oldest hw hst hqueue
    have hp : p.Ready s w := ⟨hsize, hallowed, hkey⟩
    have hplaces := State.perform_places wid sc hmark hred (hp.modWarp wid fun w => { w with stores := w.stores.eraseIdx 0 })
    refine ⟨_, hexec, ?_, ?_⟩
    · exact (congrArg (fun v : State => StoredAmong v _ p.key (bytesOfNat p.size p.data)) (s.modWarp_rest wid _) :).mp hplaces.stored
    · obtain ⟨w', hw', hsame⟩ := hplaces.warp wid _ (State.warp?_modWarp hw _)
      refine ⟨w', hw', ?_, (congrArg (fun x : WarpCore => { x with stores := w.stores, frontier := w.frontier }) hsame :)⟩
      have hstores : w'.stores = w.stores.eraseIdx 0 := (congrArg WarpCore.stores hsame :)
      rw [hstores, hst]
      rfl
  · obtain ⟨hbyte, w₁, hw₁, hstores, hrest⟩ := State.performed_spec hw sc hreds hready
    have hheld (l : Nat) (p : Loc) : w₁.held? l p = w.held? l p :=
      WarpCore.held?_congr (congrArg WarpCore.regs hrest :) (congrArg WarpCore.w hrest :) (congrArg WarpCore.lanes hrest :) l p
    rw [State.boundary_eq hw]
    cases refresh with
    | false =>
      refine ⟨hbyte, w₁, hw₁, hstores, ?_, ?_, hheld⟩
      · exact ⟨(congrArg WarpCore.refresh hrest :), (congrArg WarpCore.reads hrest :)⟩
      · exact (congrArg (fun x : WarpCore => { x with refresh := w.refresh, reads := w.reads }) hrest :)
    | true =>
      obtain ⟨hw₂, hsame⟩ := State.refreshWarp_spec (s := (s.performed wid w sc).widen wid sc) hw₁
      simp only [if_true]
      refine ⟨fun a ha => ?_, _, hw₂, hstores, ⟨(congrArg State.seq hsame.symm :), rfl⟩, ?_, fun l p => ?_⟩
      · refine (congrArg (fun v : State => v.mem.byte a) hsame :).trans (hbyte a (ha.imp_left fun hdef => ?_))
        exact (congrArg (State.isUndef · a) hsame :).symm.trans hdef
      · exact (congrArg (fun x : WarpCore => { x with refresh := w.refresh, reads := w.reads }) hrest :)
      · exact (WarpCore.held?_congr rfl rfl rfl l p).trans (hheld l p)

end Sys2Proof.Machine
end

section
/-! PROOF. The barrier network (R236 to R240). A boundary leaves the groups alone (`State.boundary_keepsGroups`), so BARR counts an arrival on the group as it stood; BSETM writes the group's entry, and where it empties the group it ends the waits on it. -/

namespace Sys2Proof.Machine

/-! ### A boundary leaves the groups alone -/

/-- The groups, their generation words' places and the slots with a warp stay. -/
structure State.KeepsGroups (s t : State) : Prop where
  barriers : t.barriers = s.barriers
  fw : t.fw = s.fw
  resident : ∀ k w, s.warp? k = some w → ∃ w', t.warp? k = some w'

theorem State.KeepsGroups.refl (s : State) : s.KeepsGroups s := ⟨rfl, rfl, fun _ w hw => ⟨w, hw⟩⟩

theorem State.KeepsGroups.trans {s t u : State} (hst : s.KeepsGroups t) (htu : t.KeepsGroups u) : s.KeepsGroups u where
  barriers := htu.barriers.trans hst.barriers
  fw := htu.fw.trans hst.fw
  resident k w hw := by
    obtain ⟨w₁, hw₁⟩ := hst.resident k w hw
    exact htu.resident k w₁ hw₁

theorem State.OnlyWrites.keepsGroups {s t : State} (h : s.OnlyWrites t) : s.KeepsGroups t where
  barriers := (congrArg State.barriers h.rest :)
  fw := (congrArg State.fw h.rest :)
  resident k w hw := (h.warp k w hw).imp fun _ h => h.1

theorem State.modWarp_keepsGroups (s : State) (wid : Nat) (f : WarpCore → WarpCore) : s.KeepsGroups (s.modWarp wid f) where
  barriers := (congrArg State.barriers (s.modWarp_rest wid f) :)
  fw := (congrArg State.fw (s.modWarp_rest wid f) :)
  resident k w hw := by
    by_cases hk : k = wid
    · subst hk
      exact ⟨_, State.warp?_modWarp hw f⟩
    · unfold State.modWarp
      split
      · exact ⟨w, (s.warp?_modRun_ne f hk).trans hw⟩
      · exact ⟨w, hw⟩

theorem State.touch_onlyBytes (s : State) (p : Party) (k n : Nat) : s.OnlyBytes (s.touch p k n) := by
  unfold State.touch
  dsimp only
  split <;> exact ⟨rfl⟩

theorem State.countDrop_onlyBytes (s : State) (k n : Nat) : s.OnlyBytes (s.countDrop k n) := by
  unfold State.countDrop
  split <;> exact ⟨rfl⟩

theorem State.atomicAt_onlyWrites (s : State) (b : Writer) (p : Party) (sc : Scope) (okey k size op x y : Nat) :
    s.OnlyWrites (s.atomicAt b p sc okey k size op x y).1 := by
  have hread := (s.touch_onlyBytes p k size).trans ((State.recall_onlyHist _ p k size).onlyBytes.trans (State.countDrop_onlyBytes _ k size))
  exact hread.onlyWrites.trans ((State.homeWrite_onlyWrites ..).trans (State.spoilSync_onlyBytes ..).onlyWrites)

theorem State.perform_keepsGroups (s : State) (wid : Nat) (w : WarpCore) (sc : Scope) (p : Pending) : s.KeepsGroups (s.perform wid w sc p) := by
  unfold State.perform
  split
  · exact .refl s
  split
  · split
    · exact (s.modWarp_keepsGroups wid _).trans ⟨rfl, rfl, fun _ w hw => ⟨w, hw⟩⟩
    · exact ⟨rfl, rfl, fun _ w hw => ⟨w, hw⟩⟩
  split
  · exact ((s.homeWrite_onlyWrites _ _ _ _ _ _).trans ((State.spoilSync_onlyBytes _ _ _).trans (State.spoilArea_onlyCores _ w p).onlyBytes).onlyWrites).keepsGroups
  · refine .trans ?_ (State.modWarp_keepsGroups ..)
    exact ((State.atomicAt_onlyWrites ..).trans (State.spoilArea_onlyCores ..).onlyBytes.onlyWrites).keepsGroups

theorem State.boundary_keepsGroups {s : State} {wid : Nat} {w : WarpCore} (hw : s.warp? wid = some w) (sc : Scope) (refresh : Bool) :
    s.KeepsGroups (s.boundary wid sc refresh) := by
  have hperformed : s.KeepsGroups ((s.performed wid w sc).widen wid sc) :=
    (s.modWarp_keepsGroups wid _).trans
      ((State.foldl_rel State.KeepsGroups.refl State.KeepsGroups.trans _ (fun s p => s.perform_keepsGroups wid w sc p) _ _).trans
        ⟨rfl, rfl, fun _ w hw => ⟨w, hw⟩⟩)
  rw [State.boundary_eq hw]
  split
  · exact hperformed.trans (State.modWarp_keepsGroups ..)
  · exact hperformed

/-! ### An arrival (R236, R238) -/

/-- The group as its last expected arrival leaves it. -/
def Barrier.opened (b : Barrier) : Barrier := { b.takeHeld with arrived := 0, gen := b.gen + 1 }

theorem State.arrive_of_last {s : State} {g : Nat} (h : (s.barrier g).arrived + 1 = (s.barrier g).expect) :
    s.arrive g = { s with barriers := s.barriers.insert g (s.barrier g).opened }.homeWrite { wid := none, core := none } .dev none 0 (s.genWord g)
      (bytesOfNat 4 ((s.barrier g).gen + 1).toNat) := by
  unfold State.arrive
  rw [if_pos h]
  rfl

theorem State.arrive_of_more {s : State} {g : Nat} (h : (s.barrier g).arrived + 1 ≠ (s.barrier g).expect) :
    s.arrive g = { s with barriers := s.barriers.insert g { s.barrier g with arrived := (s.barrier g).arrived + 1 } } := by
  unfold State.arrive
  rw [if_neg h]

/-- A group's entry reads as it was put. -/
theorem State.barrier_of_insert {s t : State} {g : Nat} {b : Barrier} (h : t.barriers = s.barriers.insert g b) : t.barrier g = b := by
  rw [State.barrier, h, Table.find?_insert_self, Option.getD_some]

/-- An arrival is counted; the last expected one sets the count to 0 and raises the generation, in the group and in its generation word. No warp goes. -/
theorem State.arrive_spec (s : State) (g : Nat) :
    let b := s.barrier g
    ((s.arrive g).barrier g).arrived = (if b.arrived + 1 = b.expect then 0 else b.arrived + 1) ∧
      ((s.arrive g).barrier g).gen = (if b.arrived + 1 = b.expect then b.gen + 1 else b.gen) ∧
      (b.arrived + 1 = b.expect → (s.arrive g).mem.bytes (s.genWord g) 4 = bytesOfNat 4 (b.gen + 1).toNat) ∧
      ∀ k w, s.warp? k = some w → ∃ w', (s.arrive g).warp? k = some w' := by
  intro b
  by_cases hlast : b.arrived + 1 = b.expect
  · have hdata : bytesOfNat 4 (b.gen + 1).toNat ≠ [] := List.ne_nil_of_length_pos (by rw [length_bytesOfNat]; omega)
    have hkeeps := (State.homeWrite_onlyWrites { s with barriers := s.barriers.insert g b.opened } { wid := none, core := none } .dev none 0 (s.genWord g)
      (bytesOfNat 4 (b.gen + 1).toNat)).keepsGroups
    have hbytes := State.homeWrite_bytes { s with barriers := s.barriers.insert g b.opened } { wid := none, core := none } .dev none 0 (s.genWord g) hdata
    rw [length_bytesOfNat] at hbytes
    rw [if_pos hlast, if_pos hlast, State.arrive_of_last hlast, State.barrier_of_insert hkeeps.barriers]
    exact ⟨rfl, rfl, fun _ => hbytes, hkeeps.resident⟩
  · rw [if_neg hlast, if_neg hlast, State.arrive_of_more hlast, State.barrier_of_insert rfl]
    exact ⟨rfl, rfl, fun h => absurd h hlast, fun _ w hw => ⟨w, hw⟩⟩

/-! ### How BARR and BSETM go on -/

theorem State.orCancel_of_undoomed {s : State} {c : Issue} {w : WarpCore} (h : Undoomed w c.lanes) (body : State → Issue → State) :
    s.orCancel c w body = body s c := by
  unfold State.orCancel State.orCancelIf
  rw [WarpCore.doomedOf_eq_nil h]
  rfl

theorem WarpCore.raise_zero (w : WarpCore) : w.raise 0 = w :=
  congrArg (fun f => { w with flags := f }) (BitVec.or_zero (x := w.flags))

/-- The same words for every active lane, and the lanes go on. -/
theorem State.gave_giveAll {s : State} {c : Issue} {w : WarpCore} (hw : s.warp? c.wid = some w) (d : Nat) (vals : List Word) :
    Gave s ((s.giveAll c d vals).conclude c []) c d vals := by
  obtain ⟨hsame, hholds, hother⟩ := WarpCore.writeRun_spec s w c.lanes d vals.length (fun _ => vals) fun _ _ => rfl
  have hres := regResult_of (fl := 0) hw (fun w => WarpCore.writeRun s w d ((lanesOf c.lanes).map fun l => (l, vals))) hsame hholds hother
  simp only [WarpCore.raise_zero] at hres
  exact ⟨w, hw, hres⟩

/-- Going on leaves memory, the registrations and the groups. -/
theorem State.conclude_nil_rest (s : State) (c : Issue) : (s.conclude c []).mem = s.mem ∧ (s.conclude c []).regs = s.regs ∧ (s.conclude c []).barriers = s.barriers := by
  rw [State.conclude_nil]
  exact ⟨rfl, rfl, rfl⟩

theorem State.barrier_conclude_nil (s : State) (c : Issue) (g : Nat) : (s.conclude c []).barrier g = s.barrier g := by
  obtain ⟨-, -, hbarriers⟩ := s.conclude_nil_rest c
  rw [State.barrier, hbarriers, State.barrier]

/-- An instruction that changes no register of its warp goes on. -/
theorem State.conclude_stands {s : State} {c : Issue} {w : WarpCore} (hw : s.warp? c.wid = some w) :
    ∃ w', (s.conclude c []).warp? c.wid = some w' ∧ SameRegs w w' ∧ Stand w' c.lanes c.prio c.next .ready := by
  have hrun := s.warp?_modRun c.wid fun w => w.place c.lanes c.prio c.next .ready
  rw [hw] at hrun
  rw [State.conclude_nil]
  refine ⟨_, hrun, fun l p => ?_, WarpCore.stand_place_ready _ _ _ _⟩
  rw [WarpCore.held?_settle, WarpCore.held?_place]

/-! ### BSETM (R240) -/

/-- With an expected count of 0 the group is empty, and no wait on it stays; no byte changes, and of the warps only where lanes wait. -/
theorem State.unconfigure_spec (s : State) (g : Nat) :
    (s.unconfigure g).barrier g = { Barrier.fresh with gen := (s.barrier g).gen } ∧ SameMemory s (s.unconfigure g) ∧
      (∀ id x, (s.unconfigure g).regs.find? id = some x → ¬ (x.cmp = 8 ∧ x.key = s.genWord g)) ∧
      ∀ k w, s.warp? k = some w → ∃ w', (s.unconfigure g).warp? k = some w' ∧ w.SameButFrontier w' := by
  let emptied : State := { s with barriers := s.barriers.insert g { Barrier.fresh with gen := (s.barrier g).gen } }
  let hit : Table Registration := s.regs.filter fun e => decide (e.2.cmp = 8) && decide (e.2.key = s.genWord g)
  have hends := emptied.endAll_onlyEnds hit 3
  have heq : s.unconfigure g = emptied.endAll hit 3 := rfl
  rw [heq]
  refine ⟨State.barrier_of_insert (congrArg State.barriers hends.rest :), fun a => (congrArg (fun v : State => v.mem.byte a) hends.rest :), ?_, hends.warp⟩
  intro id x hx hwaits
  rw [State.find?_regs_endAll] at hx
  split at hx
  · cases hx
  · rename_i hnot
    refine hnot (List.mem_map.2 ⟨(id, x), List.mem_filter.2 ⟨Table.mem_of_find? hx, ?_⟩, rfl⟩)
    simp [hwaits]

/-- What BSETM makes of a group (R240): its members and expected count, at once when no arrival is outstanding, else held. -/
def Barrier.configure (b : Barrier) (q : Nat) : Barrier :=
  let b' := { b with heldSet := some (bits q 3 0, bits q 8 4, bits q 11 9, bits q 14 12, BitVec.ofNat 64 (q / 2 ^ 64), bits q 55 32) }
  if b.arrived = 0 then b'.takeHeld else b'

/-! ### The instructions -/

theorem exec_barr_of_member {s : State} {c : Issue} {w : WarpCore} {r : RArgs} (h : Issuing s c w (.barr r)) (hundoomed : Undoomed w c.lanes)
    {g : Nat} (hg : groupNumber r s w c.lead = g) (hfault : s.barrFault w g = none) :
    exec (.barr r) s = .next ((((s.boundary c.wid .dev true).arrive g).giveAll c r.d.toNat [(s.barrier g).gen]).conclude c []) := by
  refine exec_barr.trans ((onWarp_of h _).trans (congrArg Host.Outcome.next ?_))
  rw [State.orCancel_of_undoomed hundoomed]
  simp only [hg, hfault]

theorem exec_bsetm_of_allowed {s : State} {c : Issue} {w : WarpCore} {r : RArgs} (h : Issuing s c w (.bsetm r)) {g q : Nat}
    (hg : groupNumber r s w c.lead = g) (hgroup : s.groupOf (s.asidOf w) g = true) (hq : s.rdQuad w c.lead r.b.toNat posB = q) (hzero : bits q 31 15 = 0)
    (hrect : (s.launch w.launch).holdsRect (bits q 3 0) (bits q 8 4) (bits q 11 9) (bits q 14 12) = true) :
    exec (.bsetm r) s = .next ((if bits q 55 32 = 0 then s.unconfigure g
      else { s with barriers := s.barriers.insert g ((s.barrier g).configure q) }).conclude c []) := by
  refine exec_bsetm.trans ((onWarp_of h _).trans (congrArg Host.Outcome.next ?_))
  simp only [hg, hgroup, hq, hzero, hrect, Bool.not_true, Bool.false_eq_true, if_false, ne_eq, not_true_eq_false, or_self]
  split <;> rfl

/-- Settles O20: BARR by `State.boundary_keepsGroups` and `State.arrive_spec`; BSETM by `State.unconfigure_spec`, or as the entry that it puts. -/
theorem barriers : Obligations.Barriers := by
  intro s c w r g b
  constructor
  · intro h hundoomed hgroup hexpect hmember
    have hfault : s.barrFault w g = none := by
      unfold State.barrFault
      rw [hgroup, if_neg (by decide), if_neg hexpect, if_neg (by rw [hmember]; decide)]
    have hkeeps := State.boundary_keepsGroups h.warp .dev true
    obtain ⟨harrived, hgen, hword, hresident⟩ := (s.boundary c.wid .dev true).arrive_spec g
    have hbarrier : (s.boundary c.wid .dev true).barrier g = b := by rw [State.barrier, hkeeps.barriers]; rfl
    have hplace : (s.boundary c.wid .dev true).genWord g = s.fw.genWords + 4 * g := by rw [State.genWord, hkeeps.fw]
    rw [hbarrier] at harrived hgen hword
    rw [hplace] at hword
    obtain ⟨w₁, hw₁⟩ := hkeeps.resident c.wid w h.warp
    obtain ⟨w₂, hw₂⟩ := hresident c.wid w₁ hw₁
    refine ⟨_, exec_barr_of_member (g := g) h hundoomed rfl hfault, State.gave_giveAll hw₂ r.d.toNat [b.gen], ?_⟩
    obtain ⟨hmem, -, -⟩ := (((s.boundary c.wid .dev true).arrive g).giveAll c r.d.toNat [b.gen]).conclude_nil_rest c
    rw [State.barrier_conclude_nil, hmem]
    exact ⟨harrived, hgen, hword⟩
  · intro h hgroup q rect hzero hrect
    have hexec := exec_bsetm_of_allowed (g := g) (q := q) h rfl hgroup rfl hzero hrect
    by_cases he : bits q 55 32 = 0
    · rw [if_pos he] at hexec
      obtain ⟨hbarrier, hmem, hregs, hwarps⟩ := s.unconfigure_spec g
      obtain ⟨w₁, hw₁, hsame⟩ := hwarps c.wid w h.warp
      obtain ⟨w₂, hw₂, hheld, hstand⟩ := State.conclude_stands hw₁
      obtain ⟨hmem', hregs', -⟩ := (s.unconfigure g).conclude_nil_rest c
      refine ⟨_, hexec, ?_⟩
      beta_reduce
      rw [State.barrier_conclude_nil, hbarrier, hregs']
      refine ⟨fun a => ?_, ⟨w₂, hw₂, fun l p => (hheld l p).trans (hsame.held? l p), hstand⟩, fun _ => ⟨rfl, rfl, rfl, rfl, hregs⟩,
        fun h => absurd he h, fun h => absurd he h⟩
      rw [hmem']
      exact hmem a
    · rw [if_neg he] at hexec
      let set : State := { s with barriers := s.barriers.insert g (b.configure q) }
      obtain ⟨w₂, hw₂, hheld, hstand⟩ := State.conclude_stands (s := set) h.warp
      obtain ⟨hmem', -, -⟩ := set.conclude_nil_rest c
      have hset : set.barrier g = b.configure q := State.barrier_of_insert (s := s) rfl
      refine ⟨_, hexec, ?_⟩
      beta_reduce
      rw [State.barrier_conclude_nil, hset]
      refine ⟨fun a => by rw [hmem'], ⟨w₂, hw₂, hheld, hstand⟩, fun h => absurd h he, fun _ hnone => ?_, fun _ hsome => ?_⟩
      · rw [Barrier.configure, if_pos hnone]
        exact ⟨rfl, rfl, rfl, rfl⟩
      · rw [Barrier.configure, if_neg hsome]
        exact ⟨rfl, rfl, rfl⟩

end Sys2Proof.Machine
end

section
/-! PROOF. The ends of registrations (R221 to R228). An arrival reads its word and goes by what it finds (`State.evalReg_of_sure`). A write at the home evaluates the line: `State.reevaluate_wakes` and `State.reevaluate_stays` say which of its registrations end. -/

namespace Sys2Proof.Machine

/-! ### What a registration reads (R221) -/

/-- A registration's read depends on no registration, and on no wait. -/
theorem State.OnlyEnds.watched {s t : State} (h : s.OnlyEnds t) (r : Registration) : t.watched r = s.watched r := by
  have hdenied : t.deniedReg r = s.deniedReg r := by
    unfold State.deniedReg
    rw [h.onlyWrites.regionAllows, h.world]
  have hfree : t.free = s.free := (congrArg State.free h.rest :)
  have hbytes : t.homeBytes [21] r.okey r.key r.size = s.homeBytes [21] r.okey r.key r.size :=
    (congrArg (State.homeBytes · [21] r.okey r.key r.size) h.rest :)
  unfold State.watched
  rw [hdenied, hfree, hbytes]

/-- Clean bytes read as memory holds them. -/
theorem State.homeBytes_of_clean {s : State} {okey k n : Nat} (h : CleanBytes s okey k n) (about : List Nat) :
    s.homeBytes about okey k n = s.mem.bytes k n := by
  obtain ⟨hkey, hclean⟩ := h
  refine List.map_congr_left fun x hx => ?_
  obtain ⟨hlo, hhi⟩ := mem_keysFrom.1 hx
  obtain ⟨hpoison, hdefined⟩ := hclean x hlo hhi
  have hunder : (!isPhys x || decide (s.tagAt x = s.keyTag okey)) = true := by
    rcases hkey with hspad | htag
    · have hbase : spadBase ≤ k := of_decide_eq_true hspad
      have hphys : isPhys x = false := decide_eq_false (by rw [spadBase] at hbase; omega)
      rw [hphys]; rfl
    · rw [decide_eq_true (htag x hlo hhi), Bool.or_true]
  rw [State.underKey, if_pos hunder, State.found, if_neg (by simpa using hpoison), if_neg (by rw [hdefined]; decide)]

theorem State.watched_of_clean {s : State} {r : Registration} (hshadow : r.shadow = false) (hdenied : s.deniedReg r = false)
    (hclean : CleanBytes s r.okey r.key r.size) : s.watched r = natOfBytes (s.mem.bytes r.key r.size) := by
  simp only [State.watched, hdenied, hshadow, Bool.false_eq_true, if_false, State.homeBytes_of_clean hclean]

theorem State.touch_of_settled {s : State} {p : Party} {k n : Nat} (h : ∀ y ∈ wordKeys k n, offends p (s.histOf y) = false) : s.touch p k n = s := by
  have hbad : (wordKeys k n).filter (fun x => offends p (s.histOf x) && !inRanges s.undef x) = [] :=
    List.filter_eq_nil_iff.2 fun y hy => by simp [h y hy]
  unfold State.touch
  simp only [hbad, List.isEmpty_nil, if_true]

theorem State.struck_of_clean {s : State} {okey k n : Nat} (h : CleanBytes s okey k n) : s.struck k n = false := by
  refine List.any_eq_false.2 fun x hx hin => ?_
  rw [Bool.and_eq_true, decide_eq_true_eq, decide_eq_true_eq] at hin
  exact (h.2 x hin.1 hin.2).1 hx

/-- A sure read recalls what other cores hold of the word, and finds what memory holds. -/
theorem State.readReg_of_sure {s : State} {r : Registration} (h : SureReg s r) :
    s.readReg r = (s.recall r.party r.key r.size, natOfBytes (s.mem.bytes r.key r.size)) := by
  obtain ⟨hshadow, hclean, hdenied, hsettled⟩ := h
  have hrecall := s.recall_onlyHist r.party r.key r.size
  have hstruck := State.struck_of_clean hclean
  have hclean' : CleanBytes (s.recall r.party r.key r.size) r.okey r.key r.size :=
    (congrArg (fun v => CleanBytes v r.okey r.key r.size) hrecall.rest :).mpr hclean
  have hdenied' : (s.recall r.party r.key r.size).deniedReg r = false := (congrArg (State.deniedReg · r) hrecall.rest :).trans hdenied
  have hdrop : (s.recall r.party r.key r.size).countDrop r.key r.size = s.recall r.party r.key r.size := by
    rw [State.countDrop, State.struck_of_clean hclean', if_neg Bool.false_ne_true]
  unfold State.readReg
  simp only [hdenied, hstruck, Bool.or_self, Bool.false_eq_true, if_false, State.touch_of_settled hsettled, hdrop,
    State.watched_of_clean hshadow hdenied' hclean', State.recall_mem]

/-! ### An end is recorded (R220, R229) -/

theorem State.recorded_endReg {s u : State} {id wid tok : Nat} {r : Registration} (hu : s.OnlyHist u) (hfind : s.regs.find? id = some r)
    (howner : r.owner = .warp wid tok) (code : Nat) : Recorded s (u.endReg id code) wid id code := by
  have hmem : u.mem = s.mem := (congrArg State.mem hu.rest :)
  have hregs : u.regs = s.regs := (congrArg State.regs hu.rest :)
  have hwarps : u.warps = s.warps := (congrArg State.warps hu.rest :)
  refine ⟨by rw [State.endReg_regs, Table.find?_erase_self], fun a => by rw [State.endReg_mem, hmem], fun x hx => ?_⟩
  have hend : u.endReg id code = { u with regs := u.regs.erase id }.recordIf wid (fun t _ => decide (t.kind.reg? = some id)) code := by
    simp only [State.endReg, hregs, hfind, howner]
  rw [hend]
  refine (Table.find?_modify_self _ _ _).trans ?_
  rw [hwarps, hx]
  rfl

/-! ### Arrival (R221, R225 to R228) -/

section
variable {s : State} {r : Registration} {id wid tok : Nat} (h : SureReg s r) (howner : r.owner = .warp wid tok) (p : RegPlace)
include h

/-- The word satisfies it: it ends with OK_NOW. -/
theorem State.evalReg_of_holds (hholds : cmpHolds r.cmp r.w64 (natOfBytes (s.mem.bytes r.key r.size)) r.operand = true) :
    s.evalReg id r p = (s.recall r.party r.key r.size).endReg id 0 := by
  unfold State.evalReg
  simp only [State.readReg_of_sure h, hholds, if_true]

include howner

/-- It does not, and its timeout is 0: it ends with TIMEOUT. -/
theorem State.evalReg_of_zero (hholds : ¬ cmpHolds r.cmp r.w64 (natOfBytes (s.mem.bytes r.key r.size)) r.operand = true) (hzero : r.zero = true) :
    s.evalReg id r p = (s.recall r.party r.key r.size).endReg id 2 := by
  unfold State.evalReg
  simp only [State.readReg_of_sure h, if_neg hholds, State.ownerEnds, howner, hzero, if_true]

/-- Else it joins the entry that agrees with it, or has one of its own. -/
theorem State.evalReg_of_waits (hholds : ¬ cmpHolds r.cmp r.w64 (natOfBytes (s.mem.bytes r.key r.size)) r.operand = true) (hzero : ¬ r.zero = true) :
    (∀ k, s.twin id r = some k → s.evalReg id r p = (s.recall r.party r.key r.size).joinReg id k r) ∧
      (s.twin id r = none → s.evalReg id r p =
        { (s.recall r.party r.key r.size).recallExclusive (r.key / 128) with regs := s.regs.insert id { r with place := p } }) := by
  have hregs : (s.recall r.party r.key r.size).regs = s.regs := (congrArg State.regs (s.recall_onlyHist r.party r.key r.size).rest :)
  have htwin : (s.recall r.party r.key r.size).twin id r = s.twin id r := by unfold State.twin; rw [hregs]
  unfold State.evalReg
  simp only [State.readReg_of_sure h, if_neg hholds, if_neg hzero, State.ownerEnds, howner, htwin]
  refine ⟨fun k hk => ?_, fun hnone => ?_⟩
  · simp only [hk]
  · simp only [hnone, hregs]
end

/-- An entry that agrees with a registration is another one (R225). -/
theorem State.twin_ne {s : State} {id k : Nat} {r : Registration} (h : s.twin id r = some k) : k ≠ id := by
  obtain ⟨e, he, rfl⟩ := Option.map_eq_some_iff.1 h
  have hmem := List.mem_of_mem_head? he
  have hpred := (List.mem_filter.1 hmem).2
  simp only [Bool.and_eq_true, decide_eq_true_eq] at hpred
  tauto

theorem State.register_of_held {s : State} {id : Nat} {r : Registration} (hfind : s.regs.find? id = some r) (htwin : s.twin id r = none)
    (hplace : s.admitPlace r.key = .held) : s.register id = { s with regs := s.regs.insert id { r with place := .held } } := by
  simp only [State.register, hfind, htwin, hplace, Option.isSome_none, Bool.false_eq_true, if_false]

/-- Where an entry agrees with it, or there is room, a registration is evaluated, for a place of its own where none agrees. -/
theorem State.register_of_room {s : State} {id : Nat} {r : Registration} (hfind : s.regs.find? id = some r)
    (hroom : s.twin id r ≠ none ∨ s.admitPlace r.key ≠ .held) :
    ∃ p, s.register id = s.evalReg id r p ∧ (s.twin id r = none → p = s.admitPlace r.key) := by
  cases htwin : s.twin id r with
  | some k => exact ⟨r.place, by simp only [State.register, hfind, htwin, Option.isSome_some, if_true], fun h => by cases h⟩
  | none =>
    refine ⟨s.admitPlace r.key, ?_, fun _ => rfl⟩
    simp only [State.register, hfind, htwin, Option.isSome_none, Bool.false_eq_true, if_false]
    cases hplace : s.admitPlace r.key with
    | held => exact absurd hplace (hroom.resolve_left fun h => h htwin)
    | _ => rfl

theorem State.joinReg_spec (s : State) (id k : Nat) (r : Registration) :
    (s.joinReg id k r).mem = s.mem ∧ (s.joinReg id k r).regs = (s.regs.erase id).modify k fun x =>
      { x with lanes := x.lanes ||| r.lanes, also := if x.va = r.va ∨ r.va ∈ x.also then x.also else r.va :: x.also } := by
  unfold State.joinReg
  cases r.owner <;> exact ⟨rfl, rfl⟩

/-- How an arrival ends. -/
theorem State.register_spec {s : State} {id wid tok : Nat} {r : Registration} (hfind : s.regs.find? id = some r) (howner : r.owner = .warp wid tok)
    (hsure : SureReg s r) (hroom : s.twin id r ≠ none ∨ s.admitPlace r.key ≠ .held) :
    if cmpHolds r.cmp r.w64 (natOfBytes (s.mem.bytes r.key r.size)) r.operand then Recorded s (s.register id) wid id 0
    else if r.zero then Recorded s (s.register id) wid id 2
    else SameMemory s (s.register id) ∧
      (s.twin id r = none → (s.register id).warps = s.warps ∧ (s.register id).regs = s.regs.insert id { r with place := s.admitPlace r.key }) ∧
      ∀ k x, s.twin id r = some k → s.regs.find? k = some x → (s.register id).regs.find? id = none ∧
        (s.register id).regs.find? k = some { x with lanes := x.lanes ||| r.lanes, also := if x.va = r.va ∨ r.va ∈ x.also then x.also else r.va :: x.also } := by
  obtain ⟨p, heq, hp⟩ := State.register_of_room hfind hroom
  have hrecall := s.recall_onlyHist r.party r.key r.size
  have hregs : (s.recall r.party r.key r.size).regs = s.regs := (congrArg State.regs hrecall.rest :)
  have hwarps : (s.recall r.party r.key r.size).warps = s.warps := (congrArg State.warps hrecall.rest :)
  rw [heq]
  split
  · rename_i hholds
    rw [State.evalReg_of_holds hsure p hholds]
    exact State.recorded_endReg hrecall hfind howner 0
  · rename_i hholds
    split
    · rename_i hzero
      rw [State.evalReg_of_zero hsure howner p hholds hzero]
      exact State.recorded_endReg hrecall hfind howner 2
    · rename_i hzero
      obtain ⟨hjoins, halone⟩ := State.evalReg_of_waits hsure howner p hholds hzero
      cases htwin : s.twin id r with
      | none =>
        rw [halone htwin, hp htwin]
        exact ⟨fun a => congrArg (Memory.byte · a) (s.recall_mem _ _ _), fun _ => ⟨hwarps, rfl⟩, fun k x hk => by cases hk⟩
      | some k =>
        have hne := State.twin_ne htwin
        obtain ⟨hmem, hjoined⟩ := (s.recall r.party r.key r.size).joinReg_spec id k r
        rw [hregs] at hjoined
        rw [hjoins k htwin, hjoined]
        refine ⟨fun a => congrArg (Memory.byte · a) (hmem.trans (s.recall_mem _ _ _)), fun h => absurd h (Option.some_ne_none k), fun k' x hk hx => ?_⟩
        cases hk
        refine ⟨?_, ?_⟩
        · rw [Table.find?_modify_ne _ _ hne.symm, Table.find?_erase_self]
        · rw [Table.find?_modify_self, Table.find?_erase_ne _ hne, hx]
          rfl

/-! ### Deadlines (R224) -/

theorem exec_pegRegistration_of_inFlight {s : State} {id : Nat} {r : Registration} (hfind : s.regs.find? id = some r) (hplace : r.place = .inFlight) :
    exec (.pegRegistration id) s = .next (s.register id) := by
  rw [exec_pegRegistration, execPegRegistration]
  simp only [hfind, hplace, if_true]

theorem exec_pegRetry_of_inTime {s : State} {id : Nat} {r : Registration} (hfind : s.regs.find? id = some r) (hplace : r.place = .held)
    (hdeadline : ∀ d, r.deadline = some d → s.ns ≤ d) : exec (.pegRetry id) s = .next (s.register id) := by
  rw [exec_pegRetry, execPegRetry]
  simp only [hfind, hplace, if_true]
  cases hd : r.deadline with
  | none => rfl
  | some d => simp only [decide_eq_true_eq, if_neg (Nat.not_lt.2 (hdeadline d hd))]

theorem exec_pegRetry_of_late {s : State} {id d : Nat} {r : Registration} (hfind : s.regs.find? id = some r) (hplace : r.place = .held)
    (hdeadline : r.deadline = some d) (hlate : d < s.ns) : exec (.pegRetry id) s = .next (s.endReg id 2) := by
  rw [exec_pegRetry, execPegRetry]
  simp only [hfind, hplace, hdeadline, hlate, if_true, decide_true]

/-- At its home, in a monitor or held; the two other places keep no deadline here. -/
theorem exec_pegTimeout_of_deadline {s : State} {id d : Nat} {r : Registration} (hfind : s.regs.find? id = some r) (hflight : r.place ≠ .inFlight)
    (hwarp : r.place ≠ .warp) (hdeadline : r.deadline = some d) : exec (.pegTimeout id) s = .next (if d < s.ns then s.endReg id 2 else s) := by
  rw [exec_pegTimeout, execPegTimeout]
  simp only [hfind, hdeadline]

/-- An entry stands in the frontier of a resident warp. -/
def State.HasEntry (s : State) (wid : Nat) (e : Entry) : Prop := ∃ w, s.warps.find? wid = some w ∧ e ∈ w.run.frontier

/-- A wait with this code recorded. -/
def Entry.coded (e : Entry) (b : Bool) (q : Wait) (code : Nat) : Entry := { e with state := .wait b { q with code := some code } }

section
variable {s : State} {wid k : Nat} {e : Entry} {b : Bool} {q : Wait} (h : s.HasEntry wid e) (he : e.state = .wait b q)
include h he

/-- A wait that is picked and has no code takes the code. -/
theorem State.HasEntry.recordIf_picked {which : Wait → Mask → Bool} (hpick : which q e.lanes = true) (hcode : q.code = none) (code : Nat) :
    (s.recordIf wid which code).HasEntry wid (e.coded b q code) := by
  obtain ⟨x, hx, hmem⟩ := h
  refine ⟨x.recordIf which code, (Table.find?_modify_self _ _ _).trans (congrArg _ hx), List.mem_map.2 ⟨e, hmem, ?_⟩⟩
  simp only [he, hpick, hcode, Option.isNone_none, Bool.and_self, if_true, Entry.coded]

/-- A wait that is not picked, or has a code, stays as it is (R229). -/
theorem State.HasEntry.recordIf_kept {which : Wait → Mask → Bool} (hkept : which q e.lanes = false ∨ q.code ≠ none) (code : Nat) :
    (s.recordIf k which code).HasEntry wid e := by
  obtain ⟨x, hx, hmem⟩ := h
  by_cases hk : wid = k
  · subst hk
    refine ⟨x.recordIf which code, (Table.find?_modify_self _ _ _).trans (congrArg _ hx), List.mem_map.2 ⟨e, hmem, ?_⟩⟩
    have hno : (which q e.lanes && q.code.isNone) = false := by
      rcases hkept with hw | hc
      · rw [hw, Bool.false_and]
      · rw [Option.isNone_eq_false_iff.2 (Option.ne_none_iff_isSome.1 hc), Bool.and_false]
    simp only [he, hno, Bool.false_eq_true, if_false]
  · exact ⟨x, (Table.find?_modify_ne _ _ hk).trans hx, hmem⟩
end

/-- The waits of a warp whose own deadline has passed have TIMEOUT, and the registrations that it kept for them are gone. -/
theorem State.warpDeadline_spec {s : State} {wid id d tok : Nat} {r : Registration} (hfind : s.regs.find? id = some r) (howner : r.owner = .warp wid tok)
    (hplace : r.place = .warp) (hdeadline : r.deadline = some d) (hlate : d < s.ns) (hmet : r.met = false) :
    (s.warpDeadline wid).regs.find? id = none ∧ ∀ e b q, s.HasEntry wid e → e.state = .wait b q → q.kind = .mem id → q.deadline = r.deadline → q.code = none →
      (s.warpDeadline wid).HasEntry wid (e.coded b q 2) := by
  constructor
  · unfold State.warpDeadline
    dsimp only
    refine Table.find?_eq_none_of_not_mem fun hin => ?_
    obtain ⟨e, he, rfl⟩ := List.mem_map.1 hin
    have hgone := (List.mem_filter.1 he).2
    rw [Bool.not_eq_true', List.any_eq_false] at hgone
    refine hgone (e.1, r) (List.mem_filter.2 ⟨Table.mem_of_find? hfind, ?_⟩) (decide_eq_true rfl)
    simp only [hplace, hmet, howner, hdeadline, hlate, decide_true, Bool.not_false, Bool.and_self]
  · intro e b q hentry he hkind hdq hcode
    refine (hentry.recordIf_picked he ?_ hcode 2 :)
    simp only [hkind, hfind, hplace, hmet, hdq, hdeadline, hlate, decide_true, Bool.not_false, Bool.and_self]

/-! ### A write evaluates the line (R222, R224, R259) -/

/-- What the write satisfies of a wait in a saved bank (R224): its bytes touch the word, which then holds the comparison in time. -/
def State.MetBy (s : State) (k n : Nat) (r : Registration) : Prop :=
  savedBase ≤ k ∧ k < r.key + r.size ∧ r.key < k + n ∧ s.regHolds r = true ∧ s.inTime r = true

/-- A registration as the evaluation of a line finds it. -/
def State.notedReg (s : State) (k n : Nat) (r : Registration) : Registration :=
  if savedBase ≤ k then
    if decide (k < r.key + r.size) && decide (r.key < k + n) && s.regHolds r && s.inTime r then { r with met := true } else r
  else r

theorem State.notedReg_rest (s : State) (k n : Nat) (r : Registration) : { s.notedReg k n r with met := r.met } = r := by
  unfold State.notedReg
  split
  · split <;> rfl
  · rfl

theorem State.notedReg_met (s : State) (k n : Nat) (r : Registration) : (s.notedReg k n r).met = true ↔ r.met = true ∨ s.MetBy k n r := by
  unfold State.notedReg State.MetBy
  by_cases hsaved : savedBase ≤ k
  · rw [if_pos hsaved]
    split
    · rename_i hmet
      simp only [Bool.and_eq_true, decide_eq_true_eq, and_assoc] at hmet
      exact ⟨fun _ => .inr ⟨hsaved, hmet⟩, fun _ => rfl⟩
    · rename_i hnot
      simp only [Bool.and_eq_true, decide_eq_true_eq, and_assoc] at hnot
      exact ⟨.inl, fun h => h.resolve_right fun hmet => hnot hmet.2⟩
  · rw [if_neg hsaved]
    exact ⟨.inl, fun h => h.resolve_right fun hmet => hsaved hmet.1⟩

theorem State.noted_regs (s : State) (k n : Nat) : (s.noted k n).regs = s.regs.map fun e => (e.1, s.notedReg k n e.2) := by
  unfold State.noted State.notedReg
  by_cases hsaved : savedBase ≤ k
  · simp only [if_pos hsaved]
    refine List.map_congr_left fun e _ => ?_
    split <;> rfl
  · simp only [if_neg hsaved]
    exact (List.map_id _).symm

theorem State.noted_warps (s : State) (k n : Nat) : (s.noted k n).warps = s.warps := by
  unfold State.noted
  split <;> rfl

/-- A write wakes a registration of its lines whose word then holds its comparison, in time (R222). -/
def State.Wakes (s : State) (k n : Nat) (r : Registration) : Prop :=
  r.place ≠ .inFlight ∧ r.place ≠ .held ∧ r.key < savedBase ∧ k / 128 ≤ r.key / 128 ∧ r.key / 128 ≤ (k + n - 1) / 128 ∧
    s.regHolds r = true ∧ s.inTime r = true

theorem State.mem_woken {s : State} {k n : Nat} {e : Nat × Registration} : e ∈ s.woken k n ↔ e ∈ s.regs ∧ s.Wakes k n e.2 := by
  rw [State.woken, List.mem_filter]
  refine and_congr_right fun _ => ?_
  unfold State.Wakes
  cases e.2.place <;> simp [and_assoc]

theorem Table.find?_of_mem {α : Type} {t : Table α} {q : Nat} {v : α} (hnodup : (t.map Prod.fst).Nodup) (h : (q, v) ∈ t) : t.find? q = some v := by
  induction t with
  | nil => cases h
  | cons e t ih =>
    obtain ⟨hfresh, hnodup⟩ := List.nodup_cons.1 hnodup
    rw [Table.find?_cons]
    rcases List.mem_cons.1 h with rfl | h
    · rw [if_pos rfl]
    · rw [if_neg, ih hnodup h]
      rintro rfl
      exact hfresh (List.mem_map.2 ⟨_, h, rfl⟩)

/-- A wait that rests on another registration, or that has a code, keeps its place when a registration ends. -/
theorem State.HasEntry.endReg_kept {s : State} {wid id : Nat} {e : Entry} {b : Bool} {q : Wait} (h : s.HasEntry wid e) (he : e.state = .wait b q)
    (hkept : q.kind.reg? ≠ some id ∨ q.code ≠ none) (code : Nat) : (s.endReg id code).HasEntry wid e := by
  have herased : ({ s with regs := s.regs.erase id } : State).HasEntry wid e := h
  have hpick := hkept.imp_left fun h : q.kind.reg? ≠ some id => decide_eq_false h
  unfold State.endReg
  cases s.regs.find? id with
  | none => exact h
  | some r =>
    dsimp only
    cases r.owner with
    | warp k tok => exact herased.recordIf_kept he hpick code
    | darner k tok c => exact herased.recordIf_kept he hpick code
    | queue asid x => exact h
    | graph g => exact h

/-- A wait of a registration that ends has the code. -/
theorem State.HasEntry.endReg_coded {s : State} {wid id tok : Nat} {r : Registration} {e : Entry} {b : Bool} {q : Wait} (h : s.HasEntry wid e)
    (he : e.state = .wait b q) (hfind : s.regs.find? id = some r) (howner : r.owner = .warp wid tok) (hreg : q.kind.reg? = some id)
    (hcode : q.code = none) (code : Nat) : (s.endReg id code).HasEntry wid (e.coded b q code) := by
  have herased : ({ s with regs := s.regs.erase id } : State).HasEntry wid e := h
  have hrecorded := herased.recordIf_picked (which := fun t _ => decide (t.kind.reg? = some id)) he (decide_eq_true hreg) hcode code
  simpa only [State.endReg, hfind, howner] using hrecorded

theorem State.HasEntry.endAll_kept {s : State} {wid : Nat} {e : Entry} {b : Bool} {q : Wait} (h : s.HasEntry wid e) (he : e.state = .wait b q)
    (hcode : q.code ≠ none) (es : Table Registration) (code : Nat) : (s.endAll es code).HasEntry wid e := by
  unfold State.endAll
  exact List.foldlRecOn (motive := fun t => State.HasEntry t wid e) es _ h fun _ ht _ _ => State.HasEntry.endReg_kept ht he (.inr hcode) code

/-- Among registrations that end, the waits of each have the code. -/
theorem State.HasEntry.endAll_coded {s : State} {wid id tok : Nat} {r : Registration} {e : Entry} {b : Bool} {q : Wait} (h : s.HasEntry wid e)
    (he : e.state = .wait b q) {es : Table Registration} (hmem : id ∈ es.map Prod.fst) (hfind : s.regs.find? id = some r)
    (howner : r.owner = .warp wid tok) (hreg : q.kind.reg? = some id) (hcode : q.code = none) (code : Nat) :
    (s.endAll es code).HasEntry wid (e.coded b q code) := by
  induction es generalizing s with
  | nil => cases hmem
  | cons x es ih =>
    by_cases hx : x.1 = id
    · have hcoded := h.endReg_coded he hfind howner hreg hcode code
      rw [← hx] at hcoded
      exact State.HasEntry.endAll_kept hcoded rfl (Option.some_ne_none code) es code
    · have hkept : (s.endReg x.1 code).HasEntry wid e := h.endReg_kept he (.inl (by rw [hreg]; exact fun h => hx (Option.some.inj h).symm)) code
      refine ih hkept ((List.mem_cons.1 hmem).resolve_left (Ne.symm hx)) ?_
      rw [State.endReg_regs, Table.find?_erase_ne _ (Ne.symm hx), hfind]

theorem State.mem_regs_of_endAll {s : State} {es : Table Registration} {code : Nat} {e : Nat × Registration} (h : e ∈ (s.endAll es code).regs) : e ∈ s.regs := by
  unfold State.endAll at h
  revert h
  refine List.foldlRecOn (motive := fun t => e ∈ State.regs t → e ∈ s.regs) es _ id fun t ht x _ h => ht ?_
  rw [State.endReg_regs] at h
  exact List.mem_of_mem_filter h

/-- The registrations that the evaluation of owner records looks at (R259). -/
def State.ownerHits (s : State) (k n : Nat) : Table Registration :=
  s.regs.filter fun e =>
    match e.2.place, e.2.owner with
    | .inFlight, _ => false
    | .held, _ => false
    | _, .darner _ _ (some c) => decide (c < k + n) && decide (k < c + 8)
    | _, _ => false

theorem State.owner_of_ownerHits {s : State} {k n : Nat} {e : Nat × Registration} (h : e ∈ s.ownerHits k n) :
    e ∈ s.regs ∧ ∃ wid tok c, e.2.owner = .darner wid tok (some c) := by
  obtain ⟨hmem, hpick⟩ := List.mem_filter.1 h
  refine ⟨hmem, ?_⟩
  split at hpick
  · cases hpick
  · cases hpick
  · rename_i howner _ _
    exact ⟨_, _, _, howner⟩
  · cases hpick

/-- What holds when an owner record's registrations may end: of the machine after each of them. -/
theorem State.reevaluateOwners_induction {s : State} {k n : Nat} {P : State → Prop} (h : P s)
    (hstep : ∀ t, P t → ∀ e ∈ s.ownerHits k n, ∀ code, P (t.endReg e.1 code)) : P (s.reevaluateOwners k n) := by
  unfold State.reevaluateOwners
  refine List.foldlRecOn (s.ownerHits k n) _ h fun t ht e he => ?_
  cases t.ownerEnds e.2 with
  | none => exact ht
  | some code => exact hstep t ht e he code

section
variable {s : State} {k n id : Nat} {r : Registration} (hfind : s.regs.find? id = some r)
include hfind

theorem State.find?_noted_regs : (s.noted k n).regs.find? id = some (s.notedReg k n r) := by
  rw [State.noted_regs, Table.find?_map s.regs (fun _ => s.notedReg k n), hfind, Option.map_some]

/-- A registration that the write wakes is gone, and its waits have OK_WOKEN. -/
theorem State.reevaluate_wakes (hwakes : (s.noted k n).Wakes k n (s.notedReg k n r)) :
    (s.reevaluate k n).regs.find? id = none ∧ ∀ wid tok e b q, r.owner = .warp wid tok → s.HasEntry wid e → e.state = .wait b q → q.kind = .mem id →
      q.code = none → (s.reevaluate k n).HasEntry wid (e.coded b q 1) := by
  have hnoted := State.find?_noted_regs (k := k) (n := n) hfind
  have hmem : id ∈ ((s.noted k n).woken k n).map Prod.fst := List.mem_map.2 ⟨_, State.mem_woken.2 ⟨Table.mem_of_find? hnoted, hwakes⟩, rfl⟩
  rw [State.reevaluate_eq]
  constructor
  · refine State.reevaluateOwners_induction (P := fun t => t.regs.find? id = none) ?_ fun t ht e _ code => ?_
    · rw [State.find?_regs_endAll, if_pos hmem]
    · rw [State.endReg_regs]
      by_cases he : id = e.1
      · subst he; exact Table.find?_erase_self _ _
      · rw [Table.find?_erase_ne _ he, ht]
  · intro wid tok e b q howner hentry he hkind hcode
    have howner' : (s.notedReg k n r).owner = .warp wid tok := (congrArg Registration.owner (s.notedReg_rest k n r) :).trans howner
    have hentry' : (s.noted k n).HasEntry wid e := by rwa [State.HasEntry, State.noted_warps]
    have hcoded := hentry'.endAll_coded he hmem hnoted howner' (by rw [hkind]; rfl) hcode 1
    exact State.reevaluateOwners_induction (P := fun t => t.HasEntry wid (e.coded b q 1)) hcoded
      fun t ht x _ code => State.HasEntry.endReg_kept ht rfl (.inr (Option.some_ne_none 1)) code

/-- One that it does not wake stays as it is noted, when no owner record ends it. -/
theorem State.reevaluate_stays (hnodup : (s.regs.map Prod.fst).Nodup) (hwakes : ¬ (s.noted k n).Wakes k n (s.notedReg k n r))
    (howner : ∀ wid tok x, r.owner ≠ .darner wid tok (some x)) : (s.reevaluate k n).regs.find? id = some (s.notedReg k n r) := by
  have hnoted := State.find?_noted_regs (k := k) (n := n) hfind
  have hnodup' : ((s.noted k n).regs.map Prod.fst).Nodup := by
    rw [State.noted_regs, List.map_map]
    exact hnodup
  have honly (e : Nat × Registration) (he : e ∈ (s.noted k n).regs) (hid : e.1 = id) : e.2 = s.notedReg k n r := by
    have hfound := Table.find?_of_mem hnodup' he
    rw [hid, hnoted] at hfound
    exact (Option.some.inj hfound).symm
  have hsleeps : id ∉ ((s.noted k n).woken k n).map Prod.fst := by
    intro hin
    obtain ⟨e, he, hid⟩ := List.mem_map.1 hin
    obtain ⟨hmem, hwoken⟩ := State.mem_woken.1 he
    rw [honly e hmem hid] at hwoken
    exact hwakes hwoken
  rw [State.reevaluate_eq]
  refine State.reevaluateOwners_induction (P := fun t => t.regs.find? id = some (s.notedReg k n r)) ?_ fun t ht e he code => ?_
  · rw [State.find?_regs_endAll, if_neg hsleeps, hnoted]
  · obtain ⟨hmem, wid, tok, x, hdarner⟩ := State.owner_of_ownerHits he
    have hne : id ≠ e.1 := by
      intro hid
      rw [honly e (State.mem_regs_of_endAll hmem) hid.symm] at hdarner
      exact howner wid tok x ((congrArg Registration.owner (s.notedReg_rest k n r) :).symm.trans hdarner)
    rw [State.endReg_regs, Table.find?_erase_ne _ hne, ht]
end

theorem State.inTime_iff (s : State) (r : Registration) : s.inTime r = true ↔ ∀ d, r.deadline = some d → s.ns ≤ d := by
  unfold State.inTime
  cases r.deadline <;> simp

/-- What the evaluation of a line reads is what a registration reads when it is over. -/
theorem State.watched_reevaluate (s : State) (k n : Nat) (r : Registration) : (s.reevaluate k n).watched r = s.watched r :=
  (s.reevaluate_onlyEnds k n).watched r

/-- When a write wakes a registration, as it reads at the end of the write. -/
theorem State.wakes_iff (s : State) (k n : Nat) (r : Registration) :
    (s.noted k n).Wakes k n (s.notedReg k n r) ↔ r.place ≠ .inFlight ∧ r.place ≠ .held ∧ r.key < savedBase ∧ k / 128 ≤ r.key / 128 ∧
      r.key / 128 ≤ (k + n - 1) / 128 ∧ cmpHolds r.cmp r.w64 ((s.reevaluate k n).watched r) r.operand = true ∧ ∀ d, r.deadline = some d → s.ns ≤ d := by
  have hreg : (s.noted k n).Wakes k n (s.notedReg k n r) = (s.noted k n).Wakes k n r := (congrArg ((s.noted k n).Wakes k n) (s.notedReg_rest k n r) :)
  have hns : (s.noted k n).ns = s.ns := (congrArg State.ns (s.noted_onlyEnds k n).rest :)
  rw [hreg, State.Wakes, State.inTime_iff, State.regHolds, (s.noted_onlyEnds k n).watched, State.watched_reevaluate, hns]

/-- Settles O19: arrivals by `State.register_spec`, deadlines by the meanings above, writes by `State.reevaluate_wakes` and `State.reevaluate_stays`. -/
theorem registrations : Obligations.Registrations := by
  refine ⟨fun s id r wid tok hfind howner => ⟨?arrival, ?late, ?timeout, ?own⟩, ?write⟩
  case arrival =>
    intro i hi
    have hexec : exec i s = .next (s.register id) := by
      rcases hi with ⟨rfl, hflight⟩ | ⟨rfl, hheld, hdeadline⟩
      · exact exec_pegRegistration_of_inFlight hfind hflight
      · exact exec_pegRetry_of_inTime hfind hheld hdeadline
    exact ⟨_, hexec, State.register_of_held hfind, State.register_spec hfind howner⟩
  case late =>
    intro d hdeadline hheld hlate
    exact ⟨_, exec_pegRetry_of_late hfind hheld hdeadline hlate, State.recorded_endReg (.refl s) hfind howner 2⟩
  case timeout =>
    intro d hdeadline hflight hwarp
    have hexec := exec_pegTimeout_of_deadline hfind hflight hwarp hdeadline
    refine ⟨fun hlate => ?_, fun htime => ?_⟩
    · rw [if_pos hlate] at hexec
      exact ⟨_, hexec, State.recorded_endReg (.refl s) hfind howner 2⟩
    · rwa [if_neg (Nat.not_lt.2 htime)] at hexec
  case own =>
    intro hplace d hdeadline hlate
    refine ⟨_, exec_warpWaitDeadline, fun _ => rfl, fun hmet => ?_⟩
    obtain ⟨hgone, hcoded⟩ := State.warpDeadline_spec hfind howner hplace hdeadline hlate hmet
    exact ⟨hgone, fun x e b q hx hmem he hkind hdq hcode => hcoded e b q ⟨x, hx, hmem⟩ he hkind hdq hcode⟩
  case write =>
    intro s by_ sc atomic okey k data id r hdata hfind hnodup t wakes
    obtain ⟨u, hland, heq⟩ := s.homeWrite_lands by_ sc atomic okey k hdata
    have hregs : u.regs = s.regs := (congrArg State.regs hland.rest :)
    have hwarps : u.warps = s.warps := (congrArg State.warps hland.rest :)
    have hns : u.ns = s.ns := (congrArg State.ns hland.rest :)
    rw [← hregs] at hfind hnodup
    have hiff : (u.noted k data.length).Wakes k data.length (u.notedReg k data.length r) ↔ wakes := by
      rw [State.wakes_iff, ← heq, hns]
    have hmet : u.MetBy k data.length r ↔ savedBase ≤ k ∧ k < r.key + r.size ∧ r.key < k + data.length ∧
        cmpHolds r.cmp r.w64 (t.watched r) r.operand = true ∧ ∀ d, r.deadline = some d → s.ns ≤ d := by
      have hwatched : t.watched r = u.watched r := (congrArg (State.watched · r) heq).trans (u.watched_reevaluate k data.length r)
      rw [State.MetBy, State.inTime_iff, State.regHolds, hwatched, hns]
    refine ⟨fun h => ?_, fun h howner => ?_⟩
    · obtain ⟨hgone, hcoded⟩ := State.reevaluate_wakes hfind (hiff.2 h)
      rw [← heq] at hgone hcoded
      exact ⟨hgone, fun wid tok w e b q howner hw hmem he hkind hcode => hcoded wid tok e b q howner ⟨w, by rwa [hwarps], hmem⟩ he hkind hcode⟩
    · have hstays := State.reevaluate_stays hfind hnodup (fun hw => h (hiff.1 hw)) howner
      rw [← heq] at hstays
      exact ⟨_, hstays, u.notedReg_rest k data.length r, (u.notedReg_met k data.length r).trans (or_congr_right hmet)⟩

end Sys2Proof.Machine
end

section
/-! PROOF. What a Darner does on its own (R245, R247 to R249, R415). What a Darner reads and writes leaves the Darners' entries, the ASIDs of launches and the ends of contexts alone (`State.KeepsWork`), and so does a launch's coming to a core; so the record that a Darner claims starts in the slot that was free (`State.startTask_spec`), and a fault finds the launch that it stops (`State.stopLaunch_spec`). -/

namespace Sys2Proof.Machine

/-! ### What an access of a Darner leaves alone -/

/-- A change of an entry that keeps some part of it keeps that part of the whole table. -/
theorem Table.map_find?_modify {α β : Type} {f : α → α} {g : α → β} (hf : ∀ x, g (f x) = g x) (t : Table α) (q p : Nat) :
    ((t.modify q f).find? p).map g = (t.find? p).map g := by
  by_cases hp : p = q
  · subst hp
    rw [Table.find?_modify_self, Option.map_map]
    exact congrArg (Option.map · _) (funext hf)
  · rw [Table.find?_modify_ne _ _ hp]

/-- Whether a context has ended (R390); none where there is no context. -/
def State.ctxEnded (s : State) (asid : Nat) : Option Bool := (s.ctxs.find? asid).map Context.ended

/-- The Darners, the ASIDs of launches, the Darner faults that wait and the ends of contexts stay. -/
structure State.KeepsWork (s t : State) : Prop where
  darners : ∀ core, (t.core core).darners = (s.core core).darners
  asids : ∀ id, (t.launches.find? id).map Launch.asid = (s.launches.find? id).map Launch.asid
  faults : t.darnerFaults = s.darnerFaults
  ended : ∀ asid, t.ctxEnded asid = s.ctxEnded asid

theorem State.KeepsWork.of_eq {s t : State} (hcores : t.cores = s.cores) (hlaunches : t.launches = s.launches)
    (hfaults : t.darnerFaults = s.darnerFaults) (hctxs : t.ctxs = s.ctxs) : s.KeepsWork t where
  darners core := by rw [State.core, hcores, State.core]
  asids id := by rw [hlaunches]
  faults := hfaults
  ended asid := by rw [State.ctxEnded, hctxs, State.ctxEnded]

theorem State.KeepsWork.refl (s : State) : s.KeepsWork s := .of_eq rfl rfl rfl rfl

theorem State.KeepsWork.trans {s t u : State} (hst : s.KeepsWork t) (htu : t.KeepsWork u) : s.KeepsWork u where
  darners core := (htu.darners core).trans (hst.darners core)
  asids id := (htu.asids id).trans (hst.asids id)
  faults := htu.faults.trans hst.faults
  ended asid := (htu.ended asid).trans (hst.ended asid)

theorem State.KeepsWork.foldl {β : Type} (f : State → β → State) (hf : ∀ (s : State) b, s.KeepsWork (f s b)) (l : List β) (s : State) :
    s.KeepsWork (l.foldl f s) :=
  State.foldl_rel State.KeepsWork.refl State.KeepsWork.trans f hf l s

theorem State.KeepsWork.darner {s t : State} (h : s.KeepsWork t) (core launch : Nat) : t.darner core launch = s.darner core launch := by
  rw [State.darner, h.darners, State.darner]

theorem State.KeepsWork.asid {s t : State} (h : s.KeepsWork t) (id : Nat) : (t.launch id).asid = (s.launch id).asid := by
  have hget (u : State) : (u.launch id).asid = ((u.launches.find? id).map Launch.asid).getD 0 := by
    rw [State.launch]
    cases u.launches.find? id <;> rfl
  rw [hget, hget, h.asids]

theorem State.OnlyHist.keepsWork {s t : State} (h : s.OnlyHist t) : s.KeepsWork t :=
  .of_eq (congrArg State.cores h.rest :) (congrArg State.launches h.rest :) (congrArg State.darnerFaults h.rest :) (congrArg State.ctxs h.rest :)

theorem State.modLaunch_keepsWork (s : State) (id : Nat) {f : Launch → Launch} (hf : ∀ l, (f l).asid = l.asid) : s.KeepsWork (s.modLaunch id f) where
  darners _ := rfl
  asids _ := Table.map_find?_modify hf _ _ _
  faults := rfl
  ended _ := rfl

theorem State.modCtx_keepsWork (s : State) (asid : Nat) {f : Context → Context} (hf : ∀ c, (f c).ended = c.ended) :
    s.KeepsWork { s with ctxs := s.ctxs.modify asid f } where
  darners _ := rfl
  asids _ := rfl
  faults := rfl
  ended _ := Table.map_find?_modify hf _ _ _

theorem State.core_modCore (s : State) (core k : Nat) (f : Core → Core) :
    (s.modCore core f).core k = if k = core then f (s.core core) else s.core k := by
  rw [State.core, State.modCore_cores, Table.find?_insert]
  split <;> rfl

theorem State.modCore_keepsWork (s : State) (core : Nat) {f : Core → Core} (hf : ∀ k, (f k).darners = k.darners) : s.KeepsWork (s.modCore core f) where
  darners k := by
    rw [State.core_modCore]
    split
    · next h => rw [hf, h]
    · rfl
  asids _ := rfl
  faults := rfl
  ended _ := rfl

theorem State.modBank_keepsWork (s : State) (core b : Nat) (f : Bank → Bank) : s.KeepsWork (s.modBank core b f) :=
  s.modCore_keepsWork core fun _ => rfl

theorem State.touch_keepsWork (s : State) (p : Party) (k n : Nat) : s.KeepsWork (s.touch p k n) := by
  unfold State.touch
  dsimp only
  split <;> exact .of_eq rfl rfl rfl rfl

theorem State.countDrop_keepsWork (s : State) (k n : Nat) : s.KeepsWork (s.countDrop k n) := by
  unfold State.countDrop
  split <;> exact .of_eq rfl rfl rfl rfl

theorem State.rekey_keepsWork (s : State) (okey k n : Nat) : s.KeepsWork (s.rekey okey k n) := by
  unfold State.rekey
  dsimp only
  split <;> exact .of_eq rfl rfl rfl rfl

theorem State.scrub_keepsWork (s : State) (x : Nat) : s.KeepsWork (s.scrub x) := by
  unfold State.scrub
  dsimp only
  split <;> exact .of_eq rfl rfl rfl rfl

theorem State.endReg_keepsWork (s : State) (id code : Nat) : s.KeepsWork (s.endReg id code) := by
  unfold State.endReg
  cases s.regs.find? id with
  | none => exact .refl s
  | some r =>
    dsimp only
    cases r.owner with
    | warp wid _ => exact .of_eq rfl rfl rfl rfl
    | darner wid _ _ => exact .of_eq rfl rfl rfl rfl
    | queue asid q =>
      refine .trans (t := { s with regs := s.regs.erase id }) (.of_eq rfl rfl rfl rfl) ?_
      dsimp only
      exact State.modCtx_keepsWork { s with regs := s.regs.erase id } asid fun _ => rfl
    | graph g => exact .of_eq rfl rfl rfl rfl

theorem State.endAll_keepsWork (s : State) (es : Table Registration) (code : Nat) : s.KeepsWork (s.endAll es code) :=
  .foldl _ (fun s (e : Nat × Registration) => s.endReg_keepsWork e.1 code) es s

theorem State.reevaluateOwners_keepsWork (s : State) (k n : Nat) : s.KeepsWork (s.reevaluateOwners k n) := by
  refine .foldl _ (fun s e => ?_) _ s
  cases s.ownerEnds e.2 with
  | none => exact .refl s
  | some code => exact s.endReg_keepsWork e.1 code

theorem State.noted_keepsWork (s : State) (k n : Nat) : s.KeepsWork (s.noted k n) := by
  unfold State.noted
  split
  · exact .of_eq rfl rfl rfl rfl
  · exact .refl s

theorem State.reevaluate_keepsWork (s : State) (k n : Nat) : s.KeepsWork (s.reevaluate k n) := by
  rw [State.reevaluate_eq]
  exact (s.noted_keepsWork k n).trans ((State.endAll_keepsWork _ _ 1).trans (State.reevaluateOwners_keepsWork _ k n))

theorem State.readied_keepsWork (s : State) (p : Party) (okey k n : Nat) : s.KeepsWork (s.readied p okey k n) :=
  (s.rekey_keepsWork okey k n).trans ((State.recalls_onlyHist _ p _).keepsWork.trans (.foldl _ State.scrub_keepsWork _ _))

theorem State.homeWrite_keepsWork (s : State) (b : Writer) (sc : Scope) (atomic : Option Scope) (okey k : Nat) (data : List Byte) :
    s.KeepsWork (s.homeWrite b sc atomic okey k data) := by
  unfold State.homeWrite
  split
  · exact .refl s
  · dsimp only
    refine .trans ?_ (State.reevaluate_keepsWork _ k data.length)
    exact (s.readied_keepsWork b.party okey k data.length).trans (.of_eq rfl rfl rfl rfl)

theorem State.fillLine_keepsWork (s : State) (l : Leaf) (pa : Nat) : s.KeepsWork (s.fillLine l pa) := .of_eq rfl rfl rfl rfl

theorem State.fillSpan_keepsWork (s : State) (l : Leaf) (pa n : Nat) : s.KeepsWork (s.fillSpan l pa n) := by
  unfold State.fillSpan
  split
  · exact .refl s
  · exact .foldl _ (fun s i => s.fillLine_keepsWork l _) _ s

theorem State.noteWalk_keepsWork (s : State) (asid va : Nat) : s.KeepsWork (s.noteWalk asid va) := by
  unfold State.noteWalk
  split
  · exact .refl s
  · exact .foldl _ (fun s k => (s.recall_onlyHist .dev k 8).keepsWork.trans (State.countDrop_keepsWork _ k 8)) _ s

theorem State.lookup_keepsWork (s : State) (holder : Party) (asid va : Nat) : s.KeepsWork (s.lookup holder asid va).1 := by
  have hwalk := s.noteWalk_keepsWork asid va
  unfold State.lookup
  dsimp only
  split
  · exact hwalk
  · split
    · exact .refl s
    · exact hwalk.trans (.of_eq rfl rfl rfl rfl)

theorem State.translate_keepsWork (s : State) (holder : Party) (asid : Nat) (world : Bool) (acc : Acc) (va : Nat) :
    s.KeepsWork (s.translate holder asid world acc va).1 := by
  have hlook := s.lookup_keepsWork holder asid va
  unfold State.translate
  generalize s.lookup holder asid va = r at hlook ⊢
  rcases r with ⟨t, _ | l, fresh⟩
  · exact hlook
  · dsimp only
    split
    · exact hlook
    split
    · exact hlook
    split
    · exact .refl s
    split
    · exact hlook
    · exact hlook

theorem State.engineTranslate_keepsWork (s : State) (holder : Party) (asid : Nat) (acc : Acc) (va : Nat) :
    s.KeepsWork (s.engineTranslate holder asid acc va).1 := by
  have htr := s.translate_keepsWork holder asid (s.worldOf asid) acc va
  unfold State.engineTranslate
  generalize s.translate holder asid (s.worldOf asid) acc va = r at htr ⊢
  rcases r with ⟨t, e | ⟨l, pa⟩⟩
  · exact htr
  · dsimp only
    split
    · exact htr
    · exact htr

theorem State.ctxRead_keepsWork (s : State) (asid va n : Nat) : s.KeepsWork (s.ctxRead asid va n).1 := by
  have htr := s.engineTranslate_keepsWork .dev asid .load va
  unfold State.ctxRead
  generalize s.engineTranslate .dev asid .load va = r at htr ⊢
  rcases r with ⟨t, e | ⟨l, pa⟩⟩
  · exact htr
  · exact htr.trans ((t.touch_keepsWork .dev pa n).trans ((State.recall_onlyHist _ .dev pa n).keepsWork.trans
      ((State.fillSpan_keepsWork _ l pa n).trans (State.countDrop_keepsWork _ pa n))))

theorem State.ctxWrite_keepsWork (s : State) (asid va : Nat) (data : List Byte) : s.KeepsWork (s.ctxWrite asid va data).1 := by
  have htr := s.engineTranslate_keepsWork .dev asid .store va
  unfold State.ctxWrite
  generalize s.engineTranslate .dev asid .store va = r at htr ⊢
  rcases r with ⟨t, e | ⟨l, pa⟩⟩
  · exact htr
  · exact htr.trans ((t.fillSpan_keepsWork l pa _).trans (State.homeWrite_keepsWork ..))

/-! ### A claim (R245) -/

theorem State.dRead_keepsWork {s t : State} {launch record va n token x : Nat} (h : s.dRead launch record va n token = (t, some x)) :
    s.KeepsWork t := by
  have hread := s.ctxRead_keepsWork (s.launch launch).asid va n
  unfold State.dRead at h
  generalize s.ctxRead (s.launch launch).asid va n = r at hread h
  rcases r with ⟨u, _ | b⟩
  · cases h
  · cases h; exact hread

theorem State.setControl_keepsWork {s : State} {launch record : Nat} (h : s.controlOk launch record = true) (core v token : Nat) :
    s.KeepsWork (s.setControl core launch record v token) := by
  have htr := s.engineTranslate_keepsWork .dev (s.launch launch).asid .atomic (record + 24)
  unfold State.controlOk at h
  unfold State.setControl
  dsimp only
  generalize s.engineTranslate .dev (s.launch launch).asid .atomic (record + 24) = r at htr h ⊢
  rcases r with ⟨t, e | ⟨l, pa⟩⟩
  · cases h
  · exact htr.trans ((t.fillLine_keepsWork l pa).trans (State.homeWrite_keepsWork ..))

theorem State.cancelBit_keepsWork {s t : State} {launch job record token : Nat} {b : Bool} (h : s.cancelBit launch job record token = (t, some b)) :
    s.KeepsWork t := by
  unfold State.cancelBit at h
  rcases hread : s.dRead launch record ((s.launch launch).cancel + job / 8) 1 token with ⟨u, _ | x⟩ <;> rw [hread] at h
  · cases h
  · cases h; exact State.dRead_keepsWork hread

/-- A claim that wins read the control word, wrote it, and read the cancel bit. -/
theorem State.claim_won_keepsWork {s t : State} {core launch record token v : Nat} (h : s.claim core launch record token = (t, .won v)) :
    s.KeepsWork t := by
  unfold State.claim at h
  split at h
  · cases h
  rcases hctl : s.control launch record token with ⟨s1, _ | c⟩ <;> rw [hctl] at h
  · cases h
  dsimp only at h
  split at h
  · cases h
  split at h
  · split at h
    · cases h
    · next hok =>
      have hset := State.setControl_keepsWork (by simpa using hok) core (ctlSetState c 1) token
      rcases hbit : (s1.setControl core launch record (ctlSetState c 1) token).cancelBit launch (ctlJob c) record token with ⟨s2, _ | _ | _⟩ <;> rw [hbit] at h
      · cases h
      · cases h
        exact (State.dRead_keepsWork hctl).trans (hset.trans (State.cancelBit_keepsWork hbit))
      · cases h
  · cases h

/-! ### A launch comes to a core (R70, R81, R364, R411) -/

theorem State.clearGroups_keepsWork (s : State) (which : Nat → Bool) : s.KeepsWork (s.clearGroups which) :=
  .foldl _ (fun s (e : Nat × Barrier) => .trans (t := { s with barriers := s.barriers.erase e.1 }) (.of_eq rfl rfl rfl rfl) (State.homeWrite_keepsWork ..)) _ s

theorem State.rereadContext_keepsWork (s : State) (asid : Nat) : s.KeepsWork (s.rereadContext asid) := by
  have hcall : s.KeepsWork (s.callRecord asid) := (s.touch_keepsWork .dev _ 64).trans (State.recall_onlyHist _ .dev _ 64).keepsWork
  unfold State.rereadContext
  generalize s.callRecord asid = u at hcall ⊢
  dsimp only
  split
  · refine hcall.trans (.trans ?_ (State.modCtx_keepsWork _ asid fun _ => rfl))
    split
    · exact .refl u
    · exact u.clearGroups_keepsWork _
  · exact hcall

theorem State.placeContext_keepsWork (s : State) (core asid : Nat) : s.KeepsWork (s.placeContext core asid) := by
  unfold State.placeContext
  split
  · exact .refl s
  · exact s.rereadContext_keepsWork asid

theorem State.pieces_keepsWork (s : State) (holder : Party) (asid : Nat) (acc : Acc) (va n : Nat) : s.KeepsWork (s.pieces holder asid acc va n).1 := by
  refine List.foldlRecOn (motive := fun (a : State × Except (AccErr × Nat) (List Piece)) => s.KeepsWork a.1) (pageRuns va n) _ (State.KeepsWork.refl s) fun a ha r _ => ?_
  obtain ⟨t, e | l⟩ := a
  · exact ha
  · have htr := t.engineTranslate_keepsWork holder asid acc r.1
    dsimp only
    generalize t.engineTranslate holder asid acc r.1 = x at htr ⊢
    obtain ⟨u, e | ⟨leaf, pa⟩⟩ := x
    · exact ha.trans htr
    · exact ha.trans htr

theorem State.readSave_keepsWork (s : State) (asid va n : Nat) : s.KeepsWork (s.readSave asid va n).1 := by
  have hpieces := s.pieces_keepsWork .dev asid .load va n
  unfold State.readSave
  generalize s.pieces .dev asid .load va n = r at hpieces ⊢
  rcases r with ⟨t, e | ps⟩
  · exact hpieces
  · exact hpieces.trans (.foldl _ (fun s p => s.countDrop_keepsWork _ _) ps t)

theorem State.readSaves_keepsWork (s : State) (asid : Nat) (l : List (Nat × Nat)) : s.KeepsWork (s.readSaves asid l).1 := by
  refine List.foldlRecOn (motive := fun (a : State × Option Nat) => s.KeepsWork a.1) l _ (State.KeepsWork.refl s) fun a ha r _ => ?_
  obtain ⟨t, _ | f⟩ := a
  · exact ha.trans (t.readSave_keepsWork asid r.1 r.2)
  · exact ha

theorem State.recheckSpad_keepsWork (s : State) (core b : Nat) : s.KeepsWork (s.recheckSpad core b) :=
  (s.endAll_keepsWork _ 1).trans (.of_eq rfl rfl rfl rfl)

theorem State.dropWays_keepsWork (s : State) (core b : Nat) : s.KeepsWork (s.dropWays core b) := .of_eq rfl rfl rfl rfl

theorem State.moveBank_keepsWork (s : State) (lo dest : Nat) : s.KeepsWork (s.moveBank lo dest) := .of_eq rfl rfl rfl rfl

theorem State.zeroBank_keepsWork (s : State) (core b : Nat) : s.KeepsWork (s.zeroBank core b) := .of_eq rfl rfl rfl rfl

/-- A launch whose banks come to a core gets its saved ones or new ones (R70, R81): its context goes on. -/
theorem State.takeBanks_keepsWork {s : State} {core launch : Nat} (h : s.BanksCome core launch) : s.KeepsWork (s.takeBanks core launch) := by
  unfold State.takeBanks
  split
  · exact .refl s
  · next hempty =>
    cases hsave : s.bankSave core launch with
    | some x =>
      obtain ⟨hcore, hlaunch⟩ : x.core = core ∧ x.launch = launch := by simpa using List.find?_some hsave
      obtain hown | hread := h
      · simp [hown] at hempty
      obtain ⟨-, hread⟩ := hread x (List.mem_of_find?_eq_some hsave) hcore hlaunch
      have hkeeps := s.readSaves_keepsWork (s.launch launch).asid (x.nos.map fun b => (s.coreArea (s.launch launch).asid core + 0x10000 * b, 0x10000))
      dsimp only
      generalize s.readSaves (s.launch launch).asid (x.nos.map fun b => (s.coreArea (s.launch launch).asid core + 0x10000 * b, 0x10000)) = r at hread hkeeps ⊢
      obtain ⟨t, _ | f⟩ := r
      · refine hkeeps.trans (.trans (.foldl _ (fun s e => ?_) _ t) (.of_eq rfl rfl rfl rfl))
        exact (s.dropWays_keepsWork core _).trans ((State.moveBank_keepsWork _ _ _).trans
          ((State.modBank_keepsWork _ core _ _).trans (State.recheckSpad_keepsWork _ core _)))
      · cases hread
    | none =>
      refine .foldl _ (fun s b => ?_) _ s
      exact (s.dropWays_keepsWork core b).trans ((State.zeroBank_keepsWork _ core b).trans (State.modBank_keepsWork _ core b _))

/-! ### Darners -/

theorem State.darner_modDarner_self (s : State) (core launch : Nat) (f : Darner → Darner) :
    (s.modDarner core launch f).darner core launch = f (s.darner core launch) := by
  rw [State.darner, State.modDarner, State.core_modCore, if_pos rfl, Table.find?_insert_self, Option.getD_some, State.darner]

theorem State.darner_modDarner_ne (s : State) {core k : Nat} (h : k ≠ core) (launch id : Nat) (f : Darner → Darner) :
    (s.modDarner core launch f).darner k id = s.darner k id := by
  rw [State.darner, State.modDarner, State.core_modCore, if_neg h, State.darner]

theorem State.launch_modDarner (s : State) (core launch id : Nat) (f : Darner → Darner) : (s.modDarner core launch f).launch id = s.launch id := rfl

theorem State.ctxEnded_modDarner (s : State) (core launch asid : Nat) (f : Darner → Darner) :
    (s.modDarner core launch f).ctxEnded asid = s.ctxEnded asid := rfl

theorem State.darner_modRun (s : State) (wid : Nat) (f : WarpCore → WarpCore) (core launch : Nat) :
    (s.modRun wid f).darner core launch = s.darner core launch := rfl

/-! ### A task starts (R71, R72, R247) -/

/-- A warp is as it starts: its launch, rank and live lanes, all of them READY at its entry, and its w registers. -/
structure WarpCore.Starts (w : WarpCore) (id rank pc : Nat) (m : Mask) (ws : List Word) : Prop where
  launch : w.launch = id
  rank : w.rank = rank
  live : w.live = m
  frontier : w.frontier = [{ prio := 0, pc := pc / 4 * 4, lanes := m, state := .ready }]
  words : w.w = ws.zipIdx.foldl (fun t e => Map.set 0 t e.2 e.1) []

theorem State.takeGen_keepsWork (s : State) (launch wid : Nat) : s.KeepsWork (s.takeGen launch wid).1 :=
  s.modLaunch_keepsWork launch fun _ => rfl

/-- A warp of a context that has not ended becomes resident. -/
theorem State.startWarp_spec {s : State} {w : WarpCore} (h : s.ctxEnded (s.launch w.launch).asid = some false) :
    (s.startWarp w).warp? w.wid = some { w with refresh := s.seq } ∧ s.KeepsWork (s.startWarp w) := by
  obtain ⟨c, hc, hended⟩ := Option.map_eq_some_iff.1 h
  have hstart : s.startWarp w = { s with warps := s.warps.insert w.wid { run := { w with refresh := s.seq }, help := [] } } := by
    simp [State.startWarp, State.asidOf, hc, hended]
  rw [hstart]
  exact ⟨congrArg (Option.map Warp.run) (Table.find?_insert_self ..), .of_eq rfl rfl rfl rfl⟩

/-- Where a launch's banks come and its context runs, its new warp is in the slot that it was given. -/
theorem State.startFor_spec {s : State} {core launch : Nat} {live : Mask} (slot rank pc : Nat) (ws : List Word) (hlive : live ≠ 0)
    (hbanks : (s.placeContext core (s.launch launch).asid).BanksCome core launch) (hruns : s.ctxEnded (s.launch launch).asid = some false) :
    ∃ w, (s.startFor core slot launch rank pc live ws).warp? (widOf core slot) = some w ∧ w.Starts launch rank pc live ws ∧
      s.KeepsWork (s.startFor core slot launch rank pc live ws) := by
  have hkeeps := ((s.placeContext_keepsWork core (s.launch launch).asid).trans (State.takeBanks_keepsWork hbanks)).trans
    (State.takeGen_keepsWork _ launch (widOf core slot))
  unfold State.startFor
  dsimp only
  generalize ((s.placeContext core (s.launch launch).asid).takeBanks core launch).takeGen launch (widOf core slot) = r at hkeeps ⊢
  obtain ⟨u, gen⟩ := r
  have hended : u.ctxEnded (u.launch launch).asid = some false := by rw [hkeeps.asid, hkeeps.ended, hruns]
  obtain ⟨hwarp, hstart⟩ := State.startWarp_spec (s := u) (w := { (WarpCore.fresh core slot launch rank gen (s.launch launch).alloc live (pc / 4 * 4) 1).withFrames (s.launch launch) with
    x := (s.launch launch).tiles, w := ws.zipIdx.foldl (fun t e => Map.set 0 t e.2 e.1) [] }) hended
  exact ⟨_, hwarp, ⟨rfl, rfl, rfl, if_neg hlive, rfl⟩, hkeeps.trans hstart⟩

/-- The lanes of a new warp stand READY at its entry. -/
theorem WarpCore.Starts.stand {w : WarpCore} {launch rank pc : Nat} {live : Mask} {ws : List Word} (h : w.Starts launch rank pc live ws) :
    Stand w.settle live 0 (pc / 4 * 4) .ready := by
  intro l _ hl
  refine WarpCore.settle_spec (P := fun a b st => a = 0 ∧ b = pc / 4 * 4 ∧ st = .ready) (fun _ _ _ h => ⟨h.1, h.2.1, rfl⟩) (fun e he _ => ?_) ?_
  · rw [h.frontier, List.mem_singleton] at he
    subst he
    exact ⟨rfl, rfl, rfl⟩
  · rw [h.frontier]
    exact ⟨_, List.mem_singleton_self _, hl⟩

/-- A task's warp finds its record, its frame and its job in w0 to w4 (R247). -/
theorem held_taskWords {w : WarpCore} {record frame job : Nat} (h : w.w = (taskWords record frame job).zipIdx.foldl (fun t e => Map.set 0 t e.2 e.1) []) (l : Nat) :
    w.held? l (.uni 0) = BitVec.ofNat 32 record ∧ w.held? l (.uni 1) = BitVec.ofNat 32 (record / 2 ^ 32) ∧
      w.held? l (.uni 2) = BitVec.ofNat 32 frame ∧ w.held? l (.uni 3) = BitVec.ofNat 32 (frame / 2 ^ 32) ∧ w.held? l (.uni 4) = BitVec.ofNat 32 job := by
  simp [WarpCore.held?, h, taskWords, Map.get_set]

/-- A claimed task that is no range runs in the slot that it was given, with every lane live; the deque stays (R247). -/
theorem State.startTask_spec {s s3 : State} {core launch record v x : Nat} (slot rank : Nat) (hrange : ctlRange v = false)
    (hread : s.dRead launch record record 16 0 = (s3, some x)) (hruns : s.ctxEnded (s.launch launch).asid = some false)
    (hbanks : ((s3.modDarner core launch (fun d => { d with ranges := d.ranges.erase record })).placeContext core (s.launch launch).asid).BanksCome core launch) :
    ∃ w : WarpCore, (s.startTask core launch record v slot rank).warp? (widOf core slot) = some ({ w with task := record, job := ctlJob v } : WarpCore).settle ∧
      w.Starts launch rank (bits x 56 0) 0xFFFFFFFF (taskWords record (bits x 127 64) (ctlJob v)) ∧
      ((s.startTask core launch record v slot rank).darner core launch).deque = (s.darner core launch).deque := by
  have hkeeps := State.dRead_keepsWork hread
  obtain ⟨s4, hs4⟩ : ∃ u : State, u = s3.modDarner core launch (fun d => { d with ranges := d.ranges.erase record }) := ⟨_, rfl⟩
  have hasid : (s4.launch launch).asid = (s.launch launch).asid := by rw [hs4, State.launch_modDarner, hkeeps.asid]
  have hended : s4.ctxEnded (s4.launch launch).asid = some false := by rw [hasid, hs4, State.ctxEnded_modDarner, hkeeps.ended, hruns]
  have hdeque : (s4.darner core launch).deque = (s.darner core launch).deque := by rw [hs4, State.darner_modDarner_self, hkeeps.darner]
  rw [← hs4, ← hasid] at hbanks
  obtain ⟨w, hwarp, hw, hstart⟩ := State.startFor_spec (live := 0xFFFFFFFF) slot rank (bits x 56 0) (taskWords record (bits x 127 64) (ctlJob v))
    (by decide) hbanks hended
  have htask : s.startTask core launch record v slot rank = (s4.startFor core slot launch rank (bits x 56 0) 0xFFFFFFFF
      (taskWords record (bits x 127 64) (ctlJob v))).modRun (widOf core slot) (fun w => { w with task := record, job := ctlJob v }) := by
    rw [hs4, State.startTask, hread]
    simp only [hrange, Bool.false_eq_true, if_false, Bool.not_true]
  rw [htask, State.warp?_modRun, hwarp, State.darner_modRun, hstart.darner]
  exact ⟨w, rfl, hw, hdeque⟩

theorem State.ctxEnded_of_ctxRuns {s : State} {asid : Nat} (h : s.ctxRuns asid = true) : s.ctxEnded asid = some false := by
  unfold State.ctxRuns at h
  rw [State.ctxEnded]
  cases hc : s.ctxs.find? asid with
  | none => rw [hc] at h; cases h
  | some c =>
    rw [hc] at h
    simp only [Bool.and_eq_true, Bool.not_eq_true'] at h
    rw [Option.map_some, h.2]

/-- A launch starts warps only while its context runs (R390). -/
theorem State.ctxEnded_of_mayStart {s : State} {core launch : Nat} {y : Nat × Nat} (h : s.mayStart core launch = some y) :
    s.ctxEnded (s.launch launch).asid = some false := by
  unfold State.mayStart at h
  cases hl : s.launches.find? launch with
  | none => rw [hl] at h; cases h
  | some l =>
    rw [hl] at h
    dsimp only at h
    split at h
    · next hmay =>
      simp only [Bool.and_eq_true] at hmay
      obtain ⟨⟨⟨⟨-, hruns⟩, -⟩, -⟩, -⟩ := hmay
      rw [State.launch, hl]
      exact State.ctxEnded_of_ctxRuns hruns
    · cases h

/-- DARNER_POP of an entry that its Darner wins. -/
theorem exec_darnerPop_of_won {s s2 : State} {core launch slot rank record v : Nat} {d : Darner} (hmay : s.mayStart core launch = some (slot, rank))
    (htake : (s.darner core launch).take = some (record, d)) (hfirst : (s.warpsOn core launch).isEmpty = true → s.outranked core launch = false)
    (hclaim : (s.modDarner core launch (fun _ => d)).claim core launch record 0 = (s2, .won v)) :
    exec (.darnerPop core launch) s = .next (s2.startTask core launch record v slot rank) := by
  have hgo : ((s.warpsOn core launch).isEmpty && s.outranked core launch) = false := by
    cases he : (s.warpsOn core launch).isEmpty with
    | false => rfl
    | true => exact hfirst he
  rw [exec_darnerPop, execDarnerPop, hmay, htake]
  simp only [hgo, Bool.false_eq_true, if_false, hclaim]

/-! ### A steal (R249) -/

/-- A Darner whose request is unserved after 2 000 ns takes it back from its victim's mailbox. -/
def State.withdrawn (s : State) (core launch victim : Nat) : State :=
  (s.modDarner victim launch (fun d => { d with mailbox := d.mailbox.filter (fun m => decide (m.1 ≠ core)) })).modDarner core launch
    (fun d => { d with request := none })

theorem exec_stealWithdraw_of_request {s : State} {core launch v n : Nat} (h : (s.darner core launch).request = some (v, n)) :
    exec (.stealWithdraw core launch) s = .next (if s.ns < n + 2000 then s else s.withdrawn core launch v) := by
  rw [exec_stealWithdraw, execStealWithdraw, h]
  rfl

/-- A request that reaches a mailbox with room, of a Darner with a running task and nothing pending, stays there. -/
theorem State.postRequest_of_room {s : State} {core launch v : Nat} (hne : v ≠ core) (hroom : (s.darner v launch).mailbox.length < 4)
    (htasks : s.tasksOn v launch = true) (hpending : (s.darner v launch).pending = []) :
    s.postRequest core launch v = ((s.modDarner core launch (fun d => { d with lastVictim := some v })).modDarner v launch
      (fun d => { d with mailbox := d.mailbox ++ [(core, s.ns)] })).modDarner core launch (fun d => { d with request := some (v, s.ns) }) := by
  have hvictim : (s.modDarner core launch (fun d => { d with lastVictim := some v })).darner v launch = s.darner v launch := State.darner_modDarner_ne s hne launch launch _
  have htasks' : (s.modDarner core launch (fun d => { d with lastVictim := some v })).tasksOn v launch = true := htasks
  unfold State.postRequest
  simp only [hvictim, htasks', hpending, Nat.not_le.2 hroom, Bool.not_true, Bool.false_eq_true, or_self, if_false]
  rfl

/-! ### A fault of an access (R415) -/

theorem State.loseFrame_keepsWork (s : State) (asid faultq : Nat) : s.KeepsWork (s.loseFrame asid faultq) := by
  have hread := s.ctxRead_keepsWork asid faultq 12
  unfold State.loseFrame
  generalize s.ctxRead asid faultq 12 = r at hread ⊢
  obtain ⟨t, _ | h⟩ := r
  · exact hread
  · exact hread.trans (t.ctxWrite_keepsWork asid _ _)

theorem State.queueFrame_keepsWork (s : State) (asid launch : Nat) (f : Frame) (savedw : Nat) :
    s.KeepsWork (s.queueFrame asid (some launch) f savedw) := by
  have hfault : s.KeepsWork (s.modLaunch launch (fun x => { x with faulted := true })) := s.modLaunch_keepsWork launch fun _ => rfl
  unfold State.queueFrame
  dsimp only
  generalize s.modLaunch launch (fun x => { x with faulted := true }) = u at hfault ⊢
  refine hfault.trans ?_
  cases u.ctxs.find? asid with
  | none => exact .refl u
  | some c =>
    have hread := u.ctxRead_keepsWork asid c.rcd.faultq 8
    dsimp only
    generalize u.ctxRead asid c.rcd.faultq 8 = r at hread ⊢
    obtain ⟨t, _ | h⟩ := r
    · exact hread
    · refine hread.trans ?_
      dsimp only
      split
      · exact t.loseFrame_keepsWork asid _
      · have hput := t.ctxWrite_keepsWork asid (c.rcd.faultq + 64 + 64 * (natOfBytes (h.take 4) % c.rcd.fqcap)) (bytesOfNat 64 (f.bits savedw))
        generalize t.ctxWrite asid (c.rcd.faultq + 64 + 64 * (natOfBytes (h.take 4) % c.rcd.fqcap)) (bytesOfNat 64 (f.bits savedw)) = q at hput ⊢
        obtain ⟨v, _ | _⟩ := q
        · exact hput.trans (v.loseFrame_keepsWork asid _)
        · have hcount := State.modLaunch_keepsWork (v.ctxWrite asid c.rcd.faultq (bytesOfNat 4 ((natOfBytes (h.take 4) + 1) % 2 ^ 32))).1 launch
            (f := fun x => { x with frames := x.frames + 1 }) fun _ => rfl
          exact hput.trans ((v.ctxWrite_keepsWork asid _ _).trans (hcount.trans (.of_eq rfl rfl rfl rfl)))

/-- Every entry of a launch's Darners is forgotten. -/
theorem State.darner_clearDarners (s : State) (core launch : Nat) :
    ((s.clearDarners launch).darner core launch).deque = [] ∧ ((s.clearDarners launch).darner core launch).mailbox = [] := by
  have hcore := Table.find?_map s.cores (fun _ c => { c with
    darners := c.darners.modify launch (fun d => { d with deque := [], pending := [], mailbox := [], request := none, handed := [] }) }) core
  rw [State.darner, State.core, State.clearDarners, hcore]
  cases s.cores.find? core with
  | none => exact ⟨rfl, rfl⟩
  | some c =>
    simp only [Option.map_some, Option.getD_some, Table.find?_modify_self]
    cases c.darners.find? launch <;> exact ⟨rfl, rfl⟩

theorem State.darner_cancelLaunchWaits (s : State) (launch : Nat) (job : Option Nat) (everyLane : Bool) (core id : Nat) :
    (s.cancelLaunchWaits launch job everyLane).darner core id = s.darner core id := by
  obtain ⟨out, hcores⟩ : ∃ out : Bank → Bank, (s.cancelLaunchWaits launch job everyLane).cores =
      s.cores.map (fun c => (c.1, { c.2 with banks := c.2.banks.map out })) := ⟨_, rfl⟩
  have hcore := Table.find?_map s.cores (fun _ c => { c with banks := c.banks.map out }) core
  rw [State.darner, State.core, hcores, hcore, State.darner, State.core]
  cases s.cores.find? core <;> rfl

/-- A fault of an access of a Darner stops its launch, and its Darners forget their entries. -/
theorem State.stopLaunch_spec {s : State} {f : DarnerFault} {l : Launch} (h : s.launches.find? f.launch = some l) :
    (s.stopLaunch f).darnerFaults = s.darnerFaults ∧
      (∃ l', (s.stopLaunch f).launches.find? f.launch = some l' ∧ l'.stopped = true ∧ l'.faulted = true) ∧
      ∀ k, ((s.stopLaunch f).darner k f.launch).deque = [] ∧ ((s.stopLaunch f).darner k f.launch).mailbox = [] := by
  have hframe := s.queueFrame_keepsWork (s.launch f.launch).asid f.launch
    { Frame.queued_ .engineFault 8 with task := f.record, faddr := f.addr, token := f.token } 0
  unfold State.stopLaunch
  dsimp only
  generalize s.queueFrame (s.launch f.launch).asid (some f.launch) { Frame.queued_ .engineFault 8 with task := f.record, faddr := f.addr, token := f.token } 0 = u at hframe ⊢
  have hlisted : (u.launches.find? f.launch).map Launch.asid = some l.asid := (hframe.asids f.launch).trans (by rw [h, Option.map_some])
  obtain ⟨l₁, hl₁, -⟩ := Option.map_eq_some_iff.1 hlisted
  refine ⟨hframe.faults, ⟨_, (Table.find?_modify_self ..).trans (congrArg _ hl₁), rfl, rfl⟩, fun k => ?_⟩
  rw [State.darner_cancelLaunchWaits]
  exact State.darner_clearDarners _ k f.launch

/-- Settles O25: `State.claim_won_keepsWork` and `State.startTask_spec` for a claimed task; a steal changes the two Darners alone; a fault is `State.stopLaunch_spec`. -/
theorem darnerEvents : Obligations.DarnerEvents := by
  intro s core launch
  refine ⟨fun hnone => ?_, ?_, ?_, ?_, ?_⟩
  · exact ⟨by rw [exec_darnerPop, execDarnerPop, hnone], by rw [exec_stealRequest, execStealRequest, hnone]⟩
  · intro slot rank record d s2 v s3 x hmay htake hfirst hclaim hrange hread hbanks
    have hwon := State.claim_won_keepsWork hclaim
    have hasid : (s2.launch launch).asid = (s.launch launch).asid := (hwon.asid launch).trans (by rw [State.launch_modDarner])
    have hruns : s2.ctxEnded (s2.launch launch).asid = some false := by
      rw [hasid, hwon.ended, State.ctxEnded_modDarner, State.ctxEnded_of_mayStart hmay]
    rw [← hasid] at hbanks
    obtain ⟨w, hwarp, hw, hdeque⟩ := State.startTask_spec slot rank hrange hread hruns hbanks
    refine ⟨_, exec_darnerPop_of_won hmay htake hfirst hclaim, ?_, _, hwarp, rfl, rfl, hw.rank, hw.launch, hw.live, ?_, fun l _ => held_taskWords hw.words l⟩
    · rw [hdeque, hwon.darner, State.darner_modDarner_self]
    · exact WarpCore.Starts.stand (w := { w with task := record, job := ctlJob v }) ⟨hw.launch, hw.rank, hw.live, hw.frontier, hw.words⟩
  · intro y v hmay htake hidle hnext hne hroom htasks hpending
    refine ⟨s.postRequest core launch v, by rw [exec_stealRequest, execStealRequest, hmay, htake, hidle]; simp only [hnext], ?_⟩
    rw [State.postRequest_of_room hne hroom htasks hpending]
    refine ⟨fun _ => rfl, ?_, ?_, ?_⟩
    · rw [State.darner_modDarner_ne _ hne, State.darner_modDarner_self, State.darner_modDarner_ne _ hne]
    · rw [State.darner_modDarner_self]
    · rw [State.darner_modDarner_self, State.darner_modDarner_ne _ hne.symm, State.darner_modDarner_self]
  · intro v n hrequest hne
    rw [Completes, exec_stealWithdraw_of_request hrequest]
    refine ⟨fun hearly => by rw [if_pos hearly], fun hlate => ⟨s.withdrawn core launch v, by rw [if_neg (Nat.not_lt.2 hlate)], fun _ => rfl, ?_, fun m hm => ?_⟩⟩
    · rw [State.withdrawn, State.darner_modDarner_self]
    · rw [State.withdrawn, State.darner_modDarner_ne _ hne, State.darner_modDarner_self] at hm
      exact of_decide_eq_true (List.mem_filter.1 hm).2
  · intro f rest l hfaults hlisted
    exact ⟨_, by rw [exec_darnerAccessFault, execDarnerAccessFault, hfaults], State.stopLaunch_spec (s := { s with darnerFaults := rest }) hlisted⟩

end Sys2Proof.Machine
end

section
/-! PROOF. What an engine's access to memory does (R14, R167, R213, R214). A translation and the filling of lines change no byte (`State.OnlyLooks`), a clean read gives the bytes of memory (`State.engineBytes_of_clean`), and a write under the key in force places its bytes (`State.engineWrite_places`). -/

namespace Sys2Proof.Machine

/-! ### Translations and lines -/

/-- Only lines of the caches change. -/
structure State.OnlyLines (s t : State) : Prop where
  rest : { t with llc := s.llc, l1 := s.l1, uses := s.uses } = s

/-- Only what accesses leave behind them changes: translations, lines, publications and the error counters. -/
structure State.OnlyLooks (s t : State) : Prop where
  rest : { t with tlb := s.tlb, hist := s.hist, seq := s.seq, counters := s.counters, llc := s.llc, l1 := s.l1, uses := s.uses } = s

theorem State.OnlyLines.refl (s : State) : s.OnlyLines s := ⟨rfl⟩

theorem State.OnlyLines.trans {s t u : State} (hst : s.OnlyLines t) (htu : t.OnlyLines u) : s.OnlyLines u where
  rest := (congrArg (fun v : State => { v with llc := s.llc, l1 := s.l1, uses := s.uses }) htu.rest :).trans hst.rest

theorem State.OnlyLooks.refl (s : State) : s.OnlyLooks s := ⟨rfl⟩

theorem State.OnlyLooks.trans {s t u : State} (hst : s.OnlyLooks t) (htu : t.OnlyLooks u) : s.OnlyLooks u where
  rest := (congrArg (fun v : State =>
    { v with tlb := s.tlb, hist := s.hist, seq := s.seq, counters := s.counters, llc := s.llc, l1 := s.l1, uses := s.uses }) htu.rest :).trans hst.rest

theorem State.OnlyLines.onlyLooks {s t : State} (h : s.OnlyLines t) : s.OnlyLooks t where
  rest := (congrArg (fun v : State => { v with tlb := s.tlb, hist := s.hist, seq := s.seq, counters := s.counters }) h.rest :)

theorem State.OnlyHist.onlyLooks {s t : State} (h : s.OnlyHist t) : s.OnlyLooks t where
  rest := (congrArg (fun v : State => { v with tlb := s.tlb, counters := s.counters, llc := s.llc, l1 := s.l1, uses := s.uses }) h.rest :)

theorem State.fillLine_onlyLines (s : State) (l : Leaf) (pa : Nat) : s.OnlyLines (s.fillLine l pa) := ⟨rfl⟩

theorem State.fillSpan_onlyLines (s : State) (l : Leaf) (pa n : Nat) : s.OnlyLines (s.fillSpan l pa n) := by
  unfold State.fillSpan
  split
  · exact .refl s
  · exact State.foldl_rel State.OnlyLines.refl State.OnlyLines.trans _ (fun s i => s.fillLine_onlyLines l _) _ s

theorem State.countDrop_onlyLooks (s : State) (k n : Nat) : s.OnlyLooks (s.countDrop k n) := by
  unfold State.countDrop
  split <;> exact ⟨rfl⟩

theorem State.noteWalk_onlyLooks (s : State) (asid va : Nat) : s.OnlyLooks (s.noteWalk asid va) := by
  unfold State.noteWalk
  split
  · exact .refl s
  · exact State.foldl_rel State.OnlyLooks.refl State.OnlyLooks.trans _
      (fun s k => (s.recall_onlyHist .dev k 8).onlyLooks.trans (State.countDrop_onlyLooks _ k 8)) _ s

theorem State.lookup_onlyLooks (s : State) (holder : Party) (asid va : Nat) : s.OnlyLooks (s.lookup holder asid va).1 := by
  have hwalk := s.noteWalk_onlyLooks asid va
  unfold State.lookup
  dsimp only
  split
  · exact hwalk
  · split
    · exact .refl s
    · exact hwalk.trans ⟨rfl⟩

theorem State.translate_onlyLooks (s : State) (holder : Party) (asid : Nat) (world : Bool) (acc : Acc) (va : Nat) :
    s.OnlyLooks (s.translate holder asid world acc va).1 := by
  have hlook := s.lookup_onlyLooks holder asid va
  unfold State.translate
  generalize s.lookup holder asid va = r at hlook ⊢
  obtain ⟨t, _ | l, fresh⟩ := r
  · exact hlook
  · dsimp only
    split
    · exact hlook
    split
    · exact hlook
    split
    · exact .refl s
    split
    · exact hlook
    · exact hlook

theorem State.engineTranslate_onlyLooks (s : State) (holder : Party) (asid : Nat) (acc : Acc) (va : Nat) :
    s.OnlyLooks (s.engineTranslate holder asid acc va).1 := by
  have htr := s.translate_onlyLooks holder asid (s.worldOf asid) acc va
  unfold State.engineTranslate
  generalize s.translate holder asid (s.worldOf asid) acc va = r at htr ⊢
  obtain ⟨t, e | ⟨l, pa⟩⟩ := r
  · exact htr
  · dsimp only
    split
    · exact htr
    · exact htr

theorem State.pieces_onlyLooks (s : State) (holder : Party) (asid : Nat) (acc : Acc) (va n : Nat) :
    s.OnlyLooks (s.pieces holder asid acc va n).1 := by
  refine List.foldlRecOn (motive := fun (a : State × Except (AccErr × Nat) (List Piece)) => s.OnlyLooks a.1) (pageRuns va n) _
    (State.OnlyLooks.refl s) fun a ha r _ => ?_
  obtain ⟨t, e | l⟩ := a
  · exact ha
  · have htr := t.engineTranslate_onlyLooks holder asid acc r.1
    dsimp only
    generalize t.engineTranslate holder asid acc r.1 = x at htr ⊢
    obtain ⟨u, e | ⟨leaf, pa⟩⟩ := x
    · exact ha.trans htr
    · exact ha.trans htr

theorem State.OnlyLooks.mem {s t : State} (h : s.OnlyLooks t) : t.mem = s.mem := (congrArg State.mem h.rest :)

/-- A write after accesses is one before them. -/
theorem State.OnlyLooks.storedAmong {s t u : State} {k : Nat} {data : List Byte} (h : s.OnlyLooks t) (hstored : StoredAmong t u k data) :
    StoredAmong s u k data :=
  (congrArg (fun v : State => StoredAmong v u k data) h.rest :).mp hstored

/-- Scratchpad offsets name the bytes that they named (R167). -/
theorem State.OnlyLooks.spadKeys {s t : State} (h : s.OnlyLooks t) (core launch : Nat) (offs : List Nat) :
    t.spadKeys core launch offs = s.spadKeys core launch offs := by
  induction offs with
  | nil => rfl
  | cons o r ih =>
    have hbyte : t.spadByte core launch o = s.spadByte core launch o := (congrArg (fun v : State => v.spadByte core launch o) h.rest :)
    simp only [State.spadKeys, ih, hbyte]

/-! ### What an engine's read finds (R213) -/

/-- What the device sees, every core sees (R203). -/
theorem inScope_core_of_dev {sc : Scope} {writer : Option Nat} (h : inScope sc writer .dev = true) (core : Nat) : inScope sc writer (.core core) = true := by
  cases sc with
  | core => cases writer <;> cases h
  | die => cases writer <;> cases h
  | dev => rfl
  | sys => rfl

theorem offends_core_of_dev {es : List HWrite} (h : offends .dev es = false) (core : Nat) : offends (.core core) es = false := by
  induction es with
  | nil => rfl
  | cons e es ih =>
    unfold offends at h ⊢
    cases hatomic : e.atomic with
    | none => rfl
    | some sc =>
      simp only [hatomic, Bool.or_eq_false_iff, Bool.not_eq_false'] at h ⊢
      exact ⟨inScope_core_of_dev h.1 core, ih h.2⟩

theorem State.choose_of_forall {α : Type} {P : α → Prop} {d : α} {l : List α} (hd : P d) (hl : ∀ x ∈ l, P x) (s : State) (about : List Nat) :
    P (s.choose about d l) := by
  match l with
  | [] => exact hd
  | [x] => exact hl x List.mem_cons_self
  | x :: y :: r =>
    rw [State.choose]
    cases hget : (x :: y :: r)[s.pick about (r.length + 2)]? with
    | none => exact hd
    | some z => exact hl z (List.mem_of_getElem? hget)

theorem State.engineWord_of_settled {s : State} {p : Party} {c : Since} {k : Nat} (h : EngineSettled s p c k) (about : List Nat) :
    s.engineWord p c about k = s.mem.word k :=
  State.choose_of_forall (P := fun x : Nat × Word => x.2 = s.mem.word k) rfl h.2 s _

theorem byteOfWord_ofNat (v : Nat) {i : Nat} (hi : i < 4) : byteOfWord (BitVec.ofNat 32 v) i = BitVec.ofNat 8 (v / 256 ^ i) := by
  have hshift : (2 : Nat) ^ (8 * i) = 256 ^ i := by rw [pow_mul]; rfl
  apply BitVec.eq_of_toNat_eq
  rw [byteOfWord, BitVec.toNat_setWidth, BitVec.toNat_ushiftRight, Nat.shiftRight_eq_div_pow, BitVec.toNat_ofNat, BitVec.toNat_ofNat, hshift]
  interval_cases i <;> omega

theorem ofNat_natOfBytes_div {l : List Byte} {i : Nat} {b : Byte} (h : l[i]? = some b) : BitVec.ofNat 8 (natOfBytes l / 256 ^ i) = b := by
  induction l generalizing i with
  | nil => cases h
  | cons c l ih =>
    cases i with
    | zero =>
      cases h
      apply BitVec.eq_of_toNat_eq
      rw [BitVec.toNat_ofNat, natOfBytes]
      omega
    | succ i =>
      have hdiv : (c.toNat + 256 * natOfBytes l) / 256 = natOfBytes l := by omega
      rw [natOfBytes, pow_succ', ← Nat.div_div_eq_div_mul, hdiv]
      exact ih h

@[simp] theorem length_keysFrom (k n : Nat) : (keysFrom k n).length = n := by
  induction n generalizing k with
  | zero => rfl
  | succ n ih => rw [keysFrom, List.length_cons, ih]

theorem getElem?_keysFrom (k : Nat) {n i : Nat} (hi : i < n) : (keysFrom k n)[i]? = some (k + i) := by
  induction n generalizing k i with
  | zero => omega
  | succ n ih =>
    cases i with
    | zero => rfl
    | succ i => rw [keysFrom, List.getElem?_cons_succ, ih _ (by omega)]; congr 1; omega

@[simp] theorem Memory.length_bytes (m : Memory) (k n : Nat) : (m.bytes k n).length = n := by
  rw [Memory.bytes, List.length_map, length_keysFrom]

theorem Memory.getElem?_bytes (m : Memory) (k : Nat) {n i : Nat} (hi : i < n) : (m.bytes k n)[i]? = some (m.byte (k + i)) := by
  rw [Memory.bytes, List.getElem?_map, getElem?_keysFrom k hi, Option.map_some]

/-- A byte of the word in which it lies. -/
theorem byteOfWord_word (m : Memory) (x : Nat) : byteOfWord (m.word (x / 4 * 4)) (x % 4) = m.byte x := by
  have hi : x % 4 < 4 := Nat.mod_lt x (by decide)
  have hx : x / 4 * 4 + x % 4 = x := Nat.div_add_mod' x 4
  have hbyte := m.getElem?_bytes (x / 4 * 4) hi
  rw [hx] at hbyte
  rw [Memory.word, byteOfWord_ofNat _ hi, ofNat_natOfBytes_div hbyte]

/-- A clean run reads as memory holds it. -/
theorem State.engineBytes_of_clean {s : State} {p : Party} {c : Since} {okey k n : Nat} (h : EngineClean s p c okey k n) (about : List Nat) :
    s.engineBytes p c about okey k n = s.mem.bytes k n := by
  obtain ⟨hclean, hsettled⟩ := h
  rw [← State.homeBytes_of_clean hclean about]
  refine List.map_congr_left fun x hx => ?_
  obtain ⟨hlo, hhi⟩ := mem_keysFrom.1 hx
  have hword : x / 4 * 4 ∈ wordKeys k n := (mem_wordKeys (by omega)).2 (by omega)
  rw [State.engineWord_of_settled (hsettled _ hword), byteOfWord_word]

/-- Nothing of a clean run is dropped. -/
theorem State.engineDrop_of_clean {s : State} {okey k n : Nat} (h : CleanBytes s okey k n) (token : Nat) : s.engineDrop token k n = s := by
  unfold State.engineDrop
  rw [State.struck_of_clean h, if_neg Bool.false_ne_true]

/-- A clean piece of global memory. -/
theorem State.readPieces_of_clean {s : State} {c : Since} {p : Piece} (h : EngineClean s .dev c p.leaf.okey p.pa p.len) (core token tag : Nat) :
    s.readPieces (.core core) token c tag [p] = (s.fillSpan p.leaf p.pa p.len, s.mem.bytes p.pa p.len) := by
  have htouch : s.touch (.core core) p.pa p.len = s := State.touch_of_settled fun y hy => offends_core_of_dev (h.2 y hy).1 core
  have hlines := s.fillSpan_onlyLines p.leaf p.pa p.len
  have hclean : EngineClean (s.fillSpan p.leaf p.pa p.len) .dev c p.leaf.okey p.pa p.len :=
    (congrArg (fun v : State => EngineClean v .dev c p.leaf.okey p.pa p.len) hlines.rest :).mpr h
  simp only [State.readPieces, List.foldl_cons, List.foldl_nil, List.nil_append, htouch, State.engineDrop_of_clean hclean.1,
    State.engineBytes_of_clean hclean, hlines.onlyLooks.mem]

/-! ### Runs of scratchpad bytes (R167) -/

/-- How `keyRuns` goes on from a key: the last run, if the key continues it, is one longer. -/
def addKey (acc : List (Nat × Nat)) (k : Nat) : List (Nat × Nat) :=
  match acc with
  | (b, n) :: r => if k = b + n then (b, n + 1) :: r else (k, 1) :: (b, n) :: r
  | [] => [(k, 1)]

theorem keyRuns_eq_foldl (ks : List Nat) : keyRuns ks = (ks.foldl addKey []).reverse := rfl

theorem foldl_addKey_keysFrom (b m n : Nat) : (keysFrom (b + m) n).foldl addKey [(b, m)] = [(b, m + n)] := by
  induction n generalizing m with
  | zero => rfl
  | succ n ih =>
    have hlonger : addKey [(b, m)] (b + m) = [(b, m + 1)] := if_pos rfl
    rw [keysFrom, List.foldl_cons, hlonger, Nat.add_assoc, ih, Nat.add_assoc, Nat.add_comm 1 n]

/-- Consecutive keys are one run. -/
theorem keyRuns_keysFrom (k : Nat) {n : Nat} (hn : 0 < n) : keyRuns (keysFrom k n) = [(k, n)] := by
  obtain ⟨n, rfl⟩ : ∃ m, n = m + 1 := ⟨n - 1, by omega⟩
  have hfirst : addKey [] k = [(k, 1)] := rfl
  rw [keyRuns_eq_foldl, keysFrom, List.foldl_cons, hfirst, foldl_addKey_keysFrom, Nat.add_comm 1 n, List.reverse_singleton]

/-- A clean run of scratchpad. -/
theorem State.readKeys_of_clean {s : State} {core : Nat} {c : Since} {k n : Nat} (hn : 0 < n) (h : EngineClean s (.core core) c 0 k n) (token tag : Nat) :
    s.readKeys core token c tag (keysFrom k n) = (s, s.mem.bytes k n) := by
  have htouch : s.touch (.core core) k n = s := State.touch_of_settled fun y hy => (h.2 y hy).1
  simp only [State.readKeys, keyRuns_keysFrom k hn, List.foldl_cons, List.foldl_nil, List.nil_append, htouch, State.engineDrop_of_clean h.1,
    State.engineBytes_of_clean h]

/-! ### What an engine's write leaves (R214) -/

/-- Bytes take their place under the key in force. -/
theorem State.engineWrite_places {s : State} {okey k : Nat} {data : List Byte} (hd : data ≠ []) (hkey : KeyInForce s okey k data.length) (core : Option Nat) :
    s.Places k data (s.engineWrite core okey k data) :=
  State.homeWrite_places hd hkey _ _ _

theorem State.writeKeys_keysFrom (s : State) (core k : Nat) {data : List Byte} (hd : data ≠ []) :
    s.writeKeys core (keysFrom k data.length) data = s.engineWrite (some core) 0 k data := by
  simp only [State.writeKeys, keyRuns_keysFrom k (List.length_pos_iff.2 hd), List.foldl_cons, List.foldl_nil, List.take_length]

/-- A piece that is the whole of an access. -/
theorem State.writePieces_whole (s : State) (core : Option Nat) {p : Piece} {data : List Byte} (hoff : p.off = 0) (hlen : p.len = data.length) :
    s.writePieces core data [p] = (s.fillSpan p.leaf p.pa p.len).engineWrite core p.leaf.okey p.pa data := by
  simp only [State.writePieces, List.foldl_cons, List.foldl_nil, hoff, List.drop_zero, hlen, List.take_length]

end Sys2Proof.Machine
end

section
/-! PROOF. Bulk copies (R269 to R274). An aperture store without a command fault joins the queue (`State.acceptBte_of_valid`); a row of one piece is one clean read and one write of its bytes (`State.moveRow_in`, `State.moveRow_out`), and its landing is noted in the command, or ends it (`State.landRow_of_moved`). -/

namespace Sys2Proof.Machine

/-! ### Acceptance (R269, R271, R272) -/

section
variable (s : State) (core : Nat) {f : Core → Core} (hf : ∀ k, (f k).banks = k.banks)
include hf

/-- A change of a core that keeps its banks keeps what scratchpad offsets name (R167). -/
theorem State.spadByte_modCore (k launch off : Nat) : (s.modCore core f).spadByte k launch off = s.spadByte k launch off := by
  have hbanks : ((s.modCore core f).core k).banks = (s.core k).banks := by
    rw [State.core_modCore]
    split
    · next h => rw [hf, h]
    · rfl
  have hat : (s.modCore core f).bankAt k launch off = s.bankAt k launch off := by rw [State.bankAt, State.banksOf, hbanks, State.bankAt, State.banksOf]
  have hbank (b : Nat) : (s.modCore core f).bank k b = s.bank k b := by rw [State.bank, hbanks, State.bank]
  unfold State.spadByte
  rw [hat]
  simp only [hbank]
  rfl

/-- It keeps the command faults. -/
theorem State.bteFaults_modCore (k : Nat) (a : ApertureStore) (tpl : BitVec 256) : (s.modCore core f).bteFaults k a tpl = s.bteFaults k a tpl := by
  have hsync (off : Nat) : (s.modCore core f).syncFail k a.launch off = s.syncFail k a.launch off := by
    simp only [State.syncFail, State.spadFail, s.spadByte_modCore core hf]
  unfold State.bteFaults
  dsimp only
  rw [hsync]
  rfl
end

/-- The template that an aperture store names (R271). -/
def State.namedTemplate (s : State) (core : Nat) (a : ApertureStore) : BitVec 256 :=
  if (bteValue a.value).tpl < 64 then s.template core a.launch (bteValue a.value).tpl else 0

/-- The command that an aperture store without a command fault becomes. -/
def State.commandOf (s : State) (core : Nat) (a : ApertureStore) : BteCmd :=
  { id := (s.core core).bteNext, chan := a.chan, value := a.value, wid := a.wid, token := a.token, launch := a.launch, tpl := s.namedTemplate core a,
    load := s.takesLoad core a, since := a.since, fresh := a.fresh, landed := [], started := false, cmdFaults := [], faulted := false }

/-- The sync word that a command names is noted (R277). -/
def State.withSync (s : State) (core : Nat) (a : ApertureStore) : State :=
  if (bteValue a.value).sync = 0xFFFF then s else s.nameSync core a.launch ((bteValue a.value).sync * 8)

theorem State.acceptBte_of_valid {s : State} {core : Nat} {a : ApertureStore} (hcount : (bteValue a.value).count ≠ 0)
    (hfaults : s.bteFaults core a (s.namedTemplate core a) = []) :
    s.acceptBte core a = ((s.withSync core a).modCore core fun k => { k with bte := k.bte ++ [s.commandOf core a], bteNext := k.bteNext + 1 }).startBte core := by
  unfold State.namedTemplate at hfaults
  simp only [State.acceptBte, hfaults, hcount, if_false, List.contains_nil, Bool.false_eq_true, or_false, List.isEmpty_nil, Bool.not_true, State.withSync,
    State.commandOf, State.namedTemplate]

/-- A sync word's being named leaves memory and the cores. -/
theorem State.withSync_rest (s : State) (core : Nat) (a : ApertureStore) : { s.withSync core a with syncs := s.syncs } = s := by
  unfold State.withSync State.nameSync State.noteSync
  split
  · rfl
  · split
    · split <;> rfl
    · rfl

/-- What the start of commands makes of a core's queue: some start, and nothing else of them changes. -/
theorem State.startBte_eq (s : State) (core : Nat) : ∃ starts : BteCmd × Nat → BteCmd, (∀ e, ∃ b, starts e = { e.1 with started := b }) ∧
    s.startBte core = s.modCore core fun k => { k with bte := (s.core core).bte.zipIdx.map starts } := by
  refine ⟨_, fun e => ?_, rfl⟩
  dsimp only
  split
  · exact ⟨true, rfl⟩
  · exact ⟨e.1.started, rfl⟩

/-- The BTE has accepted an aperture store: its command is the youngest of the queue. -/
theorem State.acceptBte_spec {s : State} {core : Nat} {a : ApertureStore} (hcount : (bteValue a.value).count ≠ 0)
    (hfaults : s.bteFaults core a (s.namedTemplate core a) = []) :
    (s.acceptBte core a).mem = s.mem ∧ ((s.acceptBte core a).core core).aperture = (s.core core).aperture ∧
      ((s.acceptBte core a).core core).bte.length = (s.core core).bte.length + 1 ∧
      ∃ b, ((s.acceptBte core a).core core).bte.getLast? = some { s.commandOf core a with started := b } := by
  have hsync := s.withSync_rest core a
  have hmem : (s.withSync core a).mem = s.mem := (congrArg State.mem hsync :)
  have hcore : (s.withSync core a).core core = s.core core := (congrArg (fun v : State => v.core core) hsync :)
  rw [State.acceptBte_of_valid hcount hfaults]
  generalize hq : (s.withSync core a).modCore core (fun k => { k with bte := k.bte ++ [s.commandOf core a], bteNext := k.bteNext + 1 }) = q
  have hqcore : q.core core = { s.core core with bte := (s.core core).bte ++ [s.commandOf core a], bteNext := (s.core core).bteNext + 1 } := by
    rw [← hq, State.core_modCore, if_pos rfl, hcore]
  obtain ⟨starts, hstarts, heq⟩ := q.startBte_eq core
  obtain ⟨b, hb⟩ := hstarts (s.commandOf core a, (s.core core).bte.length)
  rw [heq, State.core_modCore, if_pos rfl, hqcore, State.modCore_mem, ← hq]
  refine ⟨hmem, rfl, ?_, b, ?_⟩
  · simp
  · simp [List.zipIdx_append, hb]

theorem exec_bteBulkCopy_of_full {s : State} {wid core : Nat} {a : ApertureStore} (hcore : wid / 64 = core)
    (hfind : (s.core core).aperture.find? (fun a => decide (a.wid = wid)) = some a) (hroom : s.bteRoom core a = false) :
    exec (.bteBulkCopy wid) s = .next s := by
  rw [exec_bteBulkCopy, execBteBulkCopy, hcore, State.acceptOwn]
  simp only [hfind, hroom, Bool.false_eq_true, if_false]

theorem exec_bteBulkCopy_of_room {s : State} {wid core : Nat} {a : ApertureStore} (hcore : wid / 64 = core)
    (hfind : (s.core core).aperture.find? (fun a => decide (a.wid = wid)) = some a) (hroom : s.bteRoom core a = true) :
    exec (.bteBulkCopy wid) s = .next ((s.modCore core fun k => { k with aperture := k.aperture.erase a }).acceptBte core a) := by
  rw [exec_bteBulkCopy, execBteBulkCopy, hcore, State.acceptOwn]
  simp only [hfind, hroom, if_true, State.acceptOwn]

/-! ### A row moves (R273) -/

section
variable {s s1 : State} {core row k : Nat} {x : BteCmd} {t : Template} {p : Piece} (hrow : 0 < t.rowb)
  (hspad : s.spadKeys core x.launch ((List.range t.rowb).map (t.spadOff row)) = .ok (keysFrom k t.rowb)) (hlen : p.len = t.rowb)
include hrow hspad hlen

/-- A row from one page to scratchpad. -/
theorem State.moveRow_in (hin : t.out = false) (hpad : isSpad k = true)
    (hpieces : s.pieces (.core core) (s.launch x.launch).asid .load (t.rowAddr row) t.rowb = (s1, .ok [p]))
    (hclean : EngineClean s1 .dev x.sinceOf p.leaf.okey p.pa t.rowb) :
    ∃ u, s.moveRow core x t row = (u, none) ∧ StoredAmong s u k (s.mem.bytes p.pa t.rowb) := by
  have hlooks := s.pieces_onlyLooks (.core core) (s.launch x.launch).asid .load (t.rowAddr row) t.rowb
  rw [hpieces] at hlooks
  rw [← hlen] at hclean hrow
  have hread := State.readPieces_of_clean hclean core x.token (2 ^ 20 + row)
  have hlines := s1.fillSpan_onlyLines p.leaf p.pa p.len
  have hdata : (s1.mem.bytes p.pa p.len).length = p.len := Memory.length_bytes ..
  have hne : s1.mem.bytes p.pa p.len ≠ [] := List.ne_nil_of_length_pos (by rwa [hdata])
  have hwrite := (s1.fillSpan p.leaf p.pa p.len).writeKeys_keysFrom core k hne
  have hplaces := State.engineWrite_places (s := s1.fillSpan p.leaf p.pa p.len) (okey := 0) (k := k) hne (.inl hpad) (some core)
  rw [hdata] at hwrite
  rw [← hlen] at hspad hpieces ⊢
  rw [← hlooks.mem]
  refine ⟨_, ?_, (hlooks.trans hlines.onlyLooks).storedAmong hplaces.stored⟩
  unfold State.moveRow
  simp only [hin, Bool.false_eq_true, if_false, ← hlen, hpieces, hlooks.spadKeys, hspad, hread, hwrite]

/-- A row from scratchpad to one page. -/
theorem State.moveRow_out (hout : t.out = true) (hoff : p.off = 0)
    (hpieces : s.pieces (.core core) (s.launch x.launch).asid .store (t.rowAddr row) t.rowb = (s1, .ok [p]))
    (hclean : EngineClean s1 (.core core) x.sinceOf 0 k t.rowb) (hkey : KeyInForce s1 p.leaf.okey p.pa t.rowb) :
    ∃ u, s.moveRow core x t row = (u, none) ∧ StoredAmong s u p.pa (s.mem.bytes k t.rowb) := by
  have hlooks := s.pieces_onlyLooks (.core core) (s.launch x.launch).asid .store (t.rowAddr row) t.rowb
  rw [hpieces] at hlooks
  have hread := State.readKeys_of_clean hrow hclean x.token (2 ^ 20 + row)
  have hlines := s1.fillSpan_onlyLines p.leaf p.pa p.len
  have hdata : (s1.mem.bytes k t.rowb).length = t.rowb := Memory.length_bytes ..
  have hne : s1.mem.bytes k t.rowb ≠ [] := List.ne_nil_of_length_pos (by rwa [hdata])
  have hwrite := s1.writePieces_whole (some core) hoff (hlen.trans hdata.symm)
  have hkey' : KeyInForce (s1.fillSpan p.leaf p.pa p.len) p.leaf.okey p.pa (s1.mem.bytes k t.rowb).length := by
    rw [hdata]
    exact (congrArg (fun v : State => KeyInForce v p.leaf.okey p.pa t.rowb) hlines.rest :).mpr hkey
  have hplaces := State.engineWrite_places hne hkey' (some core)
  rw [← hlooks.mem]
  refine ⟨_, ?_, (hlooks.trans hlines.onlyLooks).storedAmong hplaces.stored⟩
  unfold State.moveRow
  simp only [hout, if_true, hpieces, hlooks.spadKeys, hspad, hread, hwrite]
end

/-! ### A row lands (R274) -/

/-- The rows that are left when one more has landed. -/
theorem BteCmd.left_of_landed {x y : BteCmd} {row : Nat} (hvalue : y.value = x.value) (hlanded : y.landed = row :: x.landed) :
    y.left = x.left.filter fun r => decide (r ≠ row) := by
  have hrows : y.rows = x.rows := by rw [BteCmd.rows, hvalue, BteCmd.rows]
  unfold BteCmd.left
  rw [hrows, hlanded, List.filter_filter]
  refine List.filter_congr fun r _ => ?_
  rw [List.contains_cons, Bool.not_or, beq_eq_decide, decide_not]

/-- At its end a command that neither arrives nor releases anything does nothing more. -/
theorem State.bteComplete_of_plain (s : State) (core : Nat) {x : BteCmd} {t : Template} (htpl : x.template? = some t) (harrive : t.arrive = false)
    (hfollow : (bteValue x.value).follow = 0) : s.bteComplete core x = s := by
  simp only [State.bteComplete, State.bteArrive, htpl, harrive, Bool.false_and, Bool.false_eq_true, if_false, State.bteRelease, hfollow, true_or, if_true]

theorem State.bteSync_of_none (s : State) (core : Nat) {x : BteCmd} (hsync : (bteValue x.value).sync = 0xFFFF) : s.bteSync core x = s := by
  unfold State.bteSync
  cases x.template? with
  | none => rfl
  | some t => simp only [hsync, true_or, if_true]

/-- Where there is no command, none starts. -/
theorem State.startBte_of_empty {s : State} {core : Nat} (h : (s.core core).bte = []) :
    (s.startBte core).mem = s.mem ∧ ((s.startBte core).core core).bte = [] := by
  obtain ⟨starts, -, heq⟩ := s.startBte_eq core
  rw [heq, State.modCore_mem, State.core_modCore, if_pos rfl, h]
  exact ⟨rfl, rfl⟩

/-- The only command of a core is started: the row that lands is one of its. -/
theorem exec_bteRowLand_of_alone {s : State} {core row : Nat} {x : BteCmd} (halone : (s.core core).bte = [x]) (hstarted : x.started = true)
    (hleft : x.left.contains row = true) : exec (.bteRowLand core x.chan row) s = .next (s.landRow core x row) := by
  have hmine : [x].filter (fun c => decide (c.chan = x.chan)) = [x] := List.filter_cons_of_pos (decide_eq_true rfl)
  have hready : [x].takeWhile (fun c => c.started) = [x] := List.takeWhile_cons_of_pos hstarted
  have hfind : [x].find? (fun c => c.left.contains row) = some x := List.find?_cons_of_pos hleft
  rw [exec_bteRowLand, execBteRowLand, halone]
  simp only [hmine, hready, hfind]

/-- The command with one more row landed. -/
def BteCmd.land (x : BteCmd) (row : Nat) : BteCmd := { x with landed := row :: x.landed }

/-- The row that moved is noted in its command, or was its last. -/
theorem State.landRow_of_moved {s s1 : State} {core row : Nat} {x : BteCmd} {t : Template} (hfaults : x.cmdFaults = []) (htpl : x.template? = some t)
    (harrive : t.arrive = false) (hsync : (bteValue x.value).sync = 0xFFFF) (hfollow : (bteValue x.value).follow = 0)
    (hmoved : s.moveRow core x t row = (s1, none)) : s.landRow core x row =
      if (x.land row).left = [] then (s1.modCore core fun k => { k with bte := k.bte.filter fun y => decide (y.id ≠ x.id) }).startBte core
      else s1.modCore core fun k => { k with bte := k.bte.map fun y => if y.id = x.id then x.land row else y } := by
  have hempty : x.cmdFaults.isEmpty = true := List.isEmpty_iff.2 hfaults
  unfold State.landRow
  simp only [htpl, hempty, if_true, hmoved, s1.bteSync_of_none core hsync, s1.bteComplete_of_plain core htpl harrive hfollow,
    Option.isSome_none, Bool.or_false, List.isEmpty_iff]
  rfl

/-- The landing of a row of a core's only command. -/
theorem State.landRow_spec {s s1 : State} {core row : Nat} {x : BteCmd} {t : Template} (hfaults : x.cmdFaults = []) (htpl : x.template? = some t)
    (harrive : t.arrive = false) (hsync : (bteValue x.value).sync = 0xFFFF) (hfollow : (bteValue x.value).follow = 0)
    (hmoved : s.moveRow core x t row = (s1, none)) (halone : (s1.core core).bte = [x]) :
    (s.landRow core x row).mem = s1.mem ∧ ((s.landRow core x row).core core).bte = if (x.land row).left = [] then [] else [x.land row] := by
  rw [State.landRow_of_moved hfaults htpl harrive hsync hfollow hmoved]
  split
  · have hnone : ((s1.modCore core fun k => { k with bte := k.bte.filter fun y => decide (y.id ≠ x.id) }).core core).bte = [] := by
      simp [State.core_modCore, halone]
    exact State.startBte_of_empty hnone
  · rw [State.core_modCore, if_pos rfl, halone]
    exact ⟨rfl, congrArg (fun y => [y]) (if_pos rfl)⟩

/-- Settles O28: acceptance is `State.acceptBte_spec`; a row moves by `State.moveRow_in` and `State.moveRow_out`, and lands by `State.landRow_spec`. -/
theorem bulkCopies : Obligations.BulkCopies := by
  intro s core
  refine ⟨fun wid a hwid hfind => ⟨exec_bteBulkCopy_of_full hwid hfind, fun hroom hcount hfaults => ?_⟩,
    fun x t row k p s1 hrow hpad hspad hpieces hoff hlen => ⟨fun hin hclean => ?_, fun hout hclean hkey => ?_⟩,
    fun x t row s1 halone hstarted hfaults hleft htpl harrive hsync hfollow hmoved hstays => ?_⟩
  · have hcore := s.core_modCore core core fun k => { k with aperture := k.aperture.erase a }
    rw [if_pos rfl] at hcore
    have hvalid := s.bteFaults_modCore core (f := fun k => { k with aperture := k.aperture.erase a }) (fun _ => rfl) core a
    have htpl : (s.modCore core fun k => { k with aperture := k.aperture.erase a }).namedTemplate core a = s.namedTemplate core a := by
      simp only [State.namedTemplate, State.template, hcore]
      rfl
    obtain ⟨hmem, haperture, hlength, b, hlast⟩ := State.acceptBte_spec hcount ((congrArg _ htpl).trans ((hvalid _).trans hfaults))
    rw [hcore] at haperture hlength
    exact ⟨_, exec_bteBulkCopy_of_room hwid hfind hroom, fun i => congrArg (Memory.byte · i) hmem, haperture, hlength, _, hlast, rfl, rfl, rfl, rfl⟩
  · rw [hin, if_neg Bool.false_ne_true] at hpieces
    exact State.moveRow_in hrow hspad hlen hin hpad hpieces hclean
  · rw [hout, if_pos rfl] at hpieces
    exact State.moveRow_out hrow hspad hlen hout hoff hpieces hclean hkey
  · obtain ⟨hmem, hbte⟩ := State.landRow_spec hfaults htpl harrive hsync hfollow hmoved hstays
    refine ⟨_, exec_bteRowLand_of_alone halone hstarted hleft, fun i => congrArg (Memory.byte · i) hmem, ?_⟩
    rw [hbte, BteCmd.left_of_landed (x := x) (y := x.land row) rfl rfl]
    split <;> rfl

end Sys2Proof.Machine
end

section
/-! PROOF. What a warp keeps when memory changes under it (R12, R220, R222). Registrations may end, its stores may be performed and engines may change its counts: its registers hold what they held, and its READY lanes stand where they stood (`State.KeepsAnswers`). -/

namespace Sys2Proof.Machine

/-! ### READY lanes -/

/-- A lane stands somewhere in a frontier, and wherever it does it is READY at one priority and PC. -/
def ReadyIn (fr : List Entry) (prio pc l : Nat) : Prop :=
  AllEntries (fun p c st => p = prio ∧ c = pc ∧ st = .ready) l fr ∧ ∃ e ∈ fr, hasLane e.lanes l = true

/-- A release of parked lanes moves no lane that is READY (R64). -/
theorem ReadyIn.releaseOn {fr : List Entry} {prio pc l : Nat} (h : ReadyIn fr prio pc l) (t k : Mask) (n : Nat) :
    ReadyIn (Machine.releaseOn t k n fr) prio pc l :=
  ⟨h.1.releaseOn fun _ _ _ ⟨hprio, hpc, _⟩ => ⟨hprio, hpc, rfl⟩, releaseOn_has h.2⟩

/-- Every lane of a set is READY at one priority and PC. -/
def WarpCore.ReadyAt (w : WarpCore) (m : Mask) (prio pc : Nat) : Prop := ∀ l, hasLane m l = true → ReadyIn w.frontier prio pc l

theorem WarpCore.readyAt_place (w : WarpCore) (m : Mask) (prio pc : Nat) : (w.place m prio pc .ready).ReadyAt m prio pc :=
  fun _ hm => ⟨fun _ he hl => WarpCore.place_entry_or_taken he hl hm, WarpCore.place_has hm⟩

theorem WarpCore.ReadyAt.settle {w : WarpCore} {m : Mask} {prio pc : Nat} (h : w.ReadyAt m prio pc) : w.settle.ReadyAt m prio pc := by
  intro l hm
  obtain ⟨hall, hhas⟩ := List.foldlRecOn (motive := fun fr => ReadyIn fr prio pc l) (List.range 12)
    (fun fr n => Machine.releaseOn w.handlerMask (w.mask n) n fr) (h l hm) fun fr hfr n _ => hfr.releaseOn _ _ n
  exact ⟨hall.mergeFrontier, mergeFrontier_has hhas⟩

theorem WarpCore.ReadyAt.stand {w : WarpCore} {m : Mask} {prio pc : Nat} (h : w.ReadyAt m prio pc) : Stand w m prio pc .ready := by
  intro l _ hm
  obtain ⟨hall, e, he, hl⟩ := h l hm
  cases hfind : w.entryOf l with
  | none => exact absurd hl (List.find?_eq_none.1 hfind e he)
  | some x => exact ⟨x, rfl, hall x (List.mem_of_find?_eq_some hfind) (List.find?_some (p := fun e : Entry => hasLane e.lanes l) hfind)⟩

/-- A code for a wait moves no lane that is READY. -/
theorem WarpCore.ReadyAt.recordIf {w : WarpCore} {m : Mask} {prio pc : Nat} (h : w.ReadyAt m prio pc) (which : Wait → Mask → Bool) (code : Nat) :
    (w.recordIf which code).ReadyAt m prio pc := by
  intro l hm
  obtain ⟨hall, e, he, hl⟩ := h l hm
  obtain ⟨-, -, hready⟩ := hall e he hl
  refine ⟨fun y hy hyl => ?_, e, List.mem_map.2 ⟨e, he, by rw [hready]⟩, hl⟩
  obtain ⟨x, hx, rfl⟩ := List.mem_map.1 hy
  have hlanes : hasLane x.lanes l = true := by
    revert hyl
    split
    · split <;> exact id
    · exact id
  have hplace := hall x hx hlanes
  rw [hplace.2.2]
  exact hplace

/-! ### Registers and READY lanes stay -/

/-- The registers hold the same values, and READY lanes stand where they stood. -/
structure WarpCore.KeepsAnswer (w w' : WarpCore) : Prop where
  held : SameRegs w w'
  ready : ∀ m prio pc, w.ReadyAt m prio pc → w'.ReadyAt m prio pc

theorem WarpCore.KeepsAnswer.refl (w : WarpCore) : w.KeepsAnswer w := ⟨fun _ _ => rfl, fun _ _ _ => id⟩

theorem WarpCore.KeepsAnswer.trans {a b c : WarpCore} (hab : a.KeepsAnswer b) (hbc : b.KeepsAnswer c) : a.KeepsAnswer c where
  held l p := (hbc.held l p).trans (hab.held l p)
  ready m prio pc h := hbc.ready m prio pc (hab.ready m prio pc h)

theorem WarpCore.KeepsAnswer.of_eq {w w' : WarpCore} (hregs : w'.regs = w.regs) (hw : w'.w = w.w) (hlanes : w'.lanes = w.lanes)
    (hfrontier : w'.frontier = w.frontier) : w.KeepsAnswer w' where
  held := WarpCore.held?_congr hregs hw hlanes
  ready m prio pc h := by rwa [WarpCore.ReadyAt, hfrontier]

theorem WarpCore.KeepsAnswer.settle {w w' : WarpCore} (h : w.KeepsAnswer w') : w.KeepsAnswer w'.settle where
  held l p := (WarpCore.held?_settle w' l p).trans (h.held l p)
  ready m prio pc hw := (h.ready m prio pc hw).settle

theorem WarpCore.markDrop_keepsAnswer (w : WarpCore) (b : Bool) : w.KeepsAnswer (w.markDrop b) := .of_eq rfl rfl rfl rfl

theorem WarpCore.recordIf_keepsAnswer (w : WarpCore) (which : Wait → Mask → Bool) (code : Nat) : w.KeepsAnswer (w.recordIf which code) where
  held := WarpCore.held?_congr rfl rfl rfl
  ready _ _ _ h := h.recordIf which code

/-- Every warp stays, with its registers and its READY lanes. -/
structure State.KeepsAnswers (s t : State) : Prop where
  warp : ∀ k w, s.warp? k = some w → ∃ w', t.warp? k = some w' ∧ w.KeepsAnswer w'

theorem State.KeepsAnswers.of_eq {s t : State} (h : t.warps = s.warps) : s.KeepsAnswers t where
  warp _ w hw := ⟨w, by rwa [State.warp?, h], .refl w⟩

theorem State.KeepsAnswers.refl (s : State) : s.KeepsAnswers s := .of_eq rfl

theorem State.KeepsAnswers.trans {s t u : State} (hst : s.KeepsAnswers t) (htu : t.KeepsAnswers u) : s.KeepsAnswers u where
  warp k w hw := by
    obtain ⟨w₁, hw₁, h₁⟩ := hst.warp k w hw
    obtain ⟨w₂, hw₂, h₂⟩ := htu.warp k w₁ hw₁
    exact ⟨w₂, hw₂, h₁.trans h₂⟩

theorem State.KeepsAnswers.foldl {β : Type} (f : State → β → State) (hf : ∀ (s : State) b, s.KeepsAnswers (f s b)) (l : List β) (s : State) :
    s.KeepsAnswers (l.foldl f s) :=
  State.foldl_rel State.KeepsAnswers.refl State.KeepsAnswers.trans f hf l s

theorem State.OnlyHist.keepsAnswers {s t : State} (h : s.OnlyHist t) : s.KeepsAnswers t := .of_eq (congrArg State.warps h.rest :)

theorem State.OnlyBytes.keepsAnswers {s t : State} (h : s.OnlyBytes t) : s.KeepsAnswers t := .of_eq (congrArg State.warps h.rest :)

theorem State.OnlyLooks.keepsAnswers {s t : State} (h : s.OnlyLooks t) : s.KeepsAnswers t := .of_eq (congrArg State.warps h.rest :)

/-- A change of an entry of the warps' table that keeps the running state's answer. -/
theorem State.KeepsAnswers.of_modify {s t : State} {wid : Nat} {f : Warp → Warp} (hf : ∀ x : Warp, x.run.KeepsAnswer (f x).run)
    (h : t.warps = s.warps.modify wid f) : s.KeepsAnswers t where
  warp k w hw := by
    obtain ⟨x, hx, rfl⟩ := Option.map_eq_some_iff.1 hw
    by_cases hk : k = wid
    · subst hk
      exact ⟨(f x).run, by rw [State.warp?, h, Table.find?_modify_self, hx]; rfl, hf x⟩
    · exact ⟨x.run, by rw [State.warp?, h, Table.find?_modify_ne _ _ hk, hx]; rfl, .refl _⟩

theorem State.modRun_keepsAnswers (s : State) (wid : Nat) {f : WarpCore → WarpCore} (hf : ∀ w : WarpCore, w.KeepsAnswer (f w)) : s.KeepsAnswers (s.modRun wid f) :=
  .of_modify (fun x => (hf x.run).settle) rfl

theorem State.modWarp_keepsAnswers (s : State) (wid : Nat) {f : WarpCore → WarpCore} (hf : ∀ w : WarpCore, w.KeepsAnswer (f w)) : s.KeepsAnswers (s.modWarp wid f) := by
  unfold State.modWarp
  split
  · exact s.modRun_keepsAnswers wid hf
  · exact .of_eq rfl

theorem State.modTok_keepsAnswers (s : State) (token : Nat) {f : WarpCore → WarpCore} (hf : ∀ w : WarpCore, w.KeepsAnswer (f w)) :
    s.KeepsAnswers (s.modTok token f) := by
  refine .of_modify (f := fun x => x.modTok token f) (fun x => ?_) rfl
  unfold Warp.modTok
  dsimp only
  split
  · exact (hf x.run).settle
  · exact .refl _

theorem State.recordIf_keepsAnswers (s : State) (wid : Nat) (which : Wait → Mask → Bool) (code : Nat) : s.KeepsAnswers (s.recordIf wid which code) :=
  .of_modify (f := fun x => x.recordIf which code) (fun x => x.run.recordIf_keepsAnswer which code) rfl

/-! ### A write at the home (R222) -/

theorem State.endReg_keepsAnswers (s : State) (id code : Nat) : s.KeepsAnswers (s.endReg id code) := by
  have herased : s.KeepsAnswers { s with regs := s.regs.erase id } := .of_eq rfl
  unfold State.endReg
  cases s.regs.find? id with
  | none => exact .refl s
  | some r =>
    dsimp only
    cases r.owner with
    | warp wid _ => exact herased.trans (State.recordIf_keepsAnswers _ wid _ code)
    | darner wid _ _ => exact herased.trans (State.recordIf_keepsAnswers _ wid _ code)
    | queue asid q => exact .of_eq rfl
    | graph g => exact .of_eq rfl

theorem State.reevaluate_keepsAnswers (s : State) (k n : Nat) : s.KeepsAnswers (s.reevaluate k n) := by
  have howners (s : State) : s.KeepsAnswers (s.reevaluateOwners k n) := by
    refine .foldl _ (fun s e => ?_) _ s
    cases s.ownerEnds e.2 with
    | none => exact .refl s
    | some code => exact s.endReg_keepsAnswers e.1 code
  rw [State.reevaluate_eq]
  exact (State.KeepsAnswers.of_eq (s.noted_warps k n)).trans
    ((State.KeepsAnswers.foldl _ (fun s (e : Nat × Registration) => s.endReg_keepsAnswers e.1 1) _ _).trans (howners _))

theorem State.homeWrite_keepsAnswers (s : State) (b : Writer) (sc : Scope) (atomic : Option Scope) (okey k : Nat) (data : List Byte) :
    s.KeepsAnswers (s.homeWrite b sc atomic okey k data) := by
  by_cases hd : data = []
  · subst hd; exact .refl s
  · obtain ⟨u, hland, heq⟩ := s.homeWrite_lands b sc atomic okey k hd
    rw [heq]
    exact hland.toOnlyBytes.keepsAnswers.trans (u.reevaluate_keepsAnswers k data.length)

theorem State.engineWrite_keepsAnswers (s : State) (core : Option Nat) (okey k : Nat) (data : List Byte) : s.KeepsAnswers (s.engineWrite core okey k data) :=
  s.homeWrite_keepsAnswers ..

/-! ### Stores are performed (R204, R205) -/

theorem State.atomicAt_keepsAnswers (s : State) (b : Writer) (p : Party) (sc : Scope) (okey k size op x y : Nat) :
    s.KeepsAnswers (s.atomicAt b p sc okey k size op x y).1 := by
  have hread := (s.touch_onlyBytes p k size).trans ((State.recall_onlyHist _ p k size).onlyBytes.trans (State.countDrop_onlyBytes _ k size))
  exact hread.keepsAnswers.trans ((State.homeWrite_keepsAnswers ..).trans (State.spoilSync_onlyBytes ..).keepsAnswers)

theorem State.perform_keepsAnswers (s : State) (wid : Nat) (w : WarpCore) (sc : Scope) (p : Pending) : s.KeepsAnswers (s.perform wid w sc p) := by
  unfold State.perform
  split
  · exact .refl s
  split
  · split
    · exact (s.modWarp_keepsAnswers wid fun w => w.markDrop_keepsAnswer true).trans (.of_eq rfl)
    · exact .of_eq rfl
  split
  · exact (s.homeWrite_keepsAnswers ..).trans ((State.spoilSync_onlyBytes ..).trans (State.spoilArea_onlyCores ..).onlyBytes).keepsAnswers
  · exact (s.atomicAt_keepsAnswers ..).trans ((State.spoilArea_onlyCores ..).onlyBytes.keepsAnswers.trans
      (State.modWarp_keepsAnswers _ wid fun _ => .of_eq rfl rfl rfl rfl))

theorem State.publishSome_keepsAnswers (s : State) (wid n : Nat) (sc : Scope) : s.KeepsAnswers (s.publishSome wid n sc) := by
  unfold State.publishSome
  cases s.anyWarp? wid with
  | none => exact .refl s
  | some w =>
    refine .trans (State.modWarp_keepsAnswers s wid ?_) (.foldl _ (fun s p => s.perform_keepsAnswers wid w sc p) _ _)
    exact fun _ => .of_eq rfl rfl rfl rfl

theorem State.drainBank_keepsAnswers (s : State) (wid : Nat) : s.KeepsAnswers (s.drainBank wid) := by
  unfold State.drainBank
  cases s.anyWarp? wid with
  | none => exact .refl s
  | some w => exact s.publishSome_keepsAnswers wid _ .core

theorem State.boundary_keepsAnswers (s : State) (wid : Nat) (sc : Scope) (refresh : Bool) : s.KeepsAnswers (s.boundary wid sc refresh) := by
  have hpublish : s.KeepsAnswers (s.publish wid sc) := by
    unfold State.publish
    cases s.anyWarp? wid with
    | none => exact .refl s
    | some w => exact (s.publishSome_keepsAnswers wid _ sc).trans (.of_eq rfl)
  unfold State.boundary
  dsimp only
  split
  · exact hpublish.trans (State.modWarp_keepsAnswers _ wid fun _ => .of_eq rfl rfl rfl rfl)
  · exact hpublish

@[simp] theorem State.boundary_cur (s : State) (wid : Nat) (sc : Scope) (refresh : Bool) : (s.boundary wid sc refresh).cur = s.cur := by
  unfold State.boundary
  dsimp only
  split
  · exact (State.modWarp_cur ..).trans (s.publish_cur wid sc)
  · exact s.publish_cur wid sc

/-! ### Engines: scratchpad, sync words, frames, groups (R167, R277, R369, R238) -/

theorem State.readKeys_keepsAnswers (s : State) (core token : Nat) (since : Since) (tag : Nat) (ks : List Nat) :
    s.KeepsAnswers (s.readKeys core token since tag ks).1 := by
  refine List.foldlRecOn (motive := fun a : State × List Byte => s.KeepsAnswers a.1) (keyRuns ks) _ (State.KeepsAnswers.refl s) fun a ha r _ => ?_
  refine ha.trans ((a.1.touch_onlyBytes (.core core) r.1 r.2).keepsAnswers.trans ?_)
  dsimp only
  unfold State.engineDrop
  split
  · exact (State.modTok_keepsAnswers _ token fun w => w.markDrop_keepsAnswer true).trans (State.countDrop_onlyBytes ..).keepsAnswers
  · exact .refl _

theorem State.noteSync_rest (s : State) (k : Nat) : { s.noteSync k with syncs := s.syncs } = s := by
  unfold State.noteSync
  split <;> rfl

theorem State.nameSync_rest (s : State) (core launch off : Nat) : { s.nameSync core launch off with syncs := s.syncs } = s := by
  unfold State.nameSync
  split
  · exact s.noteSync_rest _
  · rfl

theorem State.syncArrive_keepsAnswers (s : State) (core launch off n : Nat) : s.KeepsAnswers (s.syncArrive core launch off n).1 := by
  unfold State.syncArrive
  split
  · exact .refl s
  · exact .refl s
  · have hnote (k : Nat) : s.KeepsAnswers (s.noteSync k) := .of_eq (congrArg State.warps (s.noteSync_rest k) :)
    dsimp only
    generalize syncStep _ _ _ n = y
    exact (hnote _).trans ((State.touch_onlyBytes ..).keepsAnswers.trans (State.engineWrite_keepsAnswers ..))

theorem State.ctxRead_keepsAnswers (s : State) (asid va n : Nat) : s.KeepsAnswers (s.ctxRead asid va n).1 := by
  have htr := (s.engineTranslate_onlyLooks .dev asid .load va).keepsAnswers
  unfold State.ctxRead
  generalize s.engineTranslate .dev asid .load va = r at htr ⊢
  obtain ⟨t, e | ⟨l, pa⟩⟩ := r
  · exact htr
  · exact htr.trans ((t.touch_onlyBytes .dev pa n).keepsAnswers.trans ((State.recall_onlyHist _ .dev pa n).keepsAnswers.trans
      ((State.fillSpan_onlyLines _ l pa n).onlyLooks.trans (State.countDrop_onlyLooks _ pa n)).keepsAnswers))

theorem State.ctxWrite_keepsAnswers (s : State) (asid va : Nat) (data : List Byte) : s.KeepsAnswers (s.ctxWrite asid va data).1 := by
  have htr := (s.engineTranslate_onlyLooks .dev asid .store va).keepsAnswers
  unfold State.ctxWrite
  generalize s.engineTranslate .dev asid .store va = r at htr ⊢
  obtain ⟨t, e | ⟨l, pa⟩⟩ := r
  · exact htr
  · exact htr.trans ((t.fillSpan_onlyLines l pa _).onlyLooks.keepsAnswers.trans (State.homeWrite_keepsAnswers ..))

theorem State.loseFrame_keepsAnswers (s : State) (asid faultq : Nat) : s.KeepsAnswers (s.loseFrame asid faultq) := by
  have hread := s.ctxRead_keepsAnswers asid faultq 12
  unfold State.loseFrame
  generalize s.ctxRead asid faultq 12 = r at hread ⊢
  obtain ⟨t, _ | h⟩ := r
  · exact hread
  · exact hread.trans (t.ctxWrite_keepsAnswers asid _ _)

theorem State.queueFrame_keepsAnswers (s : State) (asid : Nat) (launch : Option Nat) (f : Frame) (savedw : Nat) :
    s.KeepsAnswers (s.queueFrame asid launch f savedw) := by
  unfold State.queueFrame
  extract_lets u
  have hfault : s.KeepsAnswers u := by cases launch <;> exact .of_eq rfl
  clear_value u
  refine hfault.trans ?_
  cases u.ctxs.find? asid with
  | none => exact .refl u
  | some c =>
    have hread := u.ctxRead_keepsAnswers asid c.rcd.faultq 8
    dsimp only
    generalize u.ctxRead asid c.rcd.faultq 8 = r at hread ⊢
    obtain ⟨t, _ | h⟩ := r
    · exact hread
    · refine hread.trans ?_
      dsimp only
      split
      · exact t.loseFrame_keepsAnswers asid _
      · have hput := t.ctxWrite_keepsAnswers asid (c.rcd.faultq + 64 + 64 * (natOfBytes (h.take 4) % c.rcd.fqcap)) (bytesOfNat 64 (f.bits savedw))
        generalize t.ctxWrite asid (c.rcd.faultq + 64 + 64 * (natOfBytes (h.take 4) % c.rcd.fqcap)) (bytesOfNat 64 (f.bits savedw)) = q at hput ⊢
        obtain ⟨v, _ | _⟩ := q
        · exact hput.trans (v.loseFrame_keepsAnswers asid _)
        · have htail := v.ctxWrite_keepsAnswers asid c.rcd.faultq (bytesOfNat 4 ((natOfBytes (h.take 4) + 1) % 2 ^ 32))
          cases launch with
          | none => exact hput.trans htail
          | some l => exact hput.trans (htail.trans (.of_eq rfl))

theorem State.engineArrive_keepsAnswers (s : State) (g : Nat) : s.KeepsAnswers (s.engineArrive g) := by
  unfold State.engineArrive State.arrive
  split
  · exact .refl s
  dsimp only
  split
  · refine .trans ?_ (State.homeWrite_keepsAnswers ..)
    exact .of_eq rfl
  · exact .of_eq rfl

/-! ### A wait that ends at its instruction (R220) -/

/-- Lanes that have just started to wait: their warp's register writes are performed, and they stand in the wait at the next instruction. -/
theorem State.waits_startWait {s : State} {c : Issue} {w : WarpCore} (hw : s.warp? c.wid = some w) (b : Bool) (t : Wait) :
    Waits s { s.startWait c c.lanes b t with cur := none } c w b t :=
  ⟨_, onlyWarp_modRun _ hw, rfl, rfl, WarpCore.stand_place_wait _ _ _ _ _ _⟩

/-- A warp none of whose register writes is outstanding takes a code in the lanes of a set; nothing but its registers changes. -/
theorem WarpCore.writeCode_of_drained {w : WarpCore} (hout : w.out = []) (s : State) (m : Mask) (p : Loc) (code : Nat) :
    w.SameButRegs (WarpCore.writeCode s w m p code) ∧ (p ≠ .none → ∀ l, hasLane m l = true → (WarpCore.writeCode s w m p code).held? l p = BitVec.ofNat 32 code) := by
  obtain ⟨hsame, hlane, huni, -⟩ := WarpCore.writeLanes_spec s p ((lanesOf m).map fun l => (l, BitVec.ofNat 32 code)) w
    (lanesOf_map_nodup m fun _ => BitVec.ofNat 32 code) fun x hx => by
      obtain ⟨l, hl, rfl⟩ := List.mem_map.1 hx
      exact (mem_lanesOf.1 hl).1
  refine ⟨hsame, fun hp l hm => ?_⟩
  have hstale : w.stale l p = [] := by
    unfold WarpCore.stale
    rw [hout]
    cases p <;> rfl
  have hlanded : Landed w (WarpCore.writeCode s w m p code) l p (BitVec.ofNat 32 code) := by
    by_cases hshared : p.shared = true
    · obtain ⟨r, hr⟩ := head_lanesOf (ne_zero_of_hasLane hm)
      exact huni hshared _ (r.map fun l => (l, BitVec.ofNat 32 code)) (by rw [hr]; rfl) l
    · exact hlane hp (Bool.eq_false_iff.2 hshared) (l, _) (List.mem_map.2 ⟨l, mem_lanesOf.2 ⟨hasLane_lt hm, hm⟩, rfl⟩)
  exact hlanded.resolve_right fun ⟨hne, _⟩ => hne hstale

/-- Lanes that stand in one place wake there. -/
theorem WarpCore.wake_of_stand {w : WarpCore} {m : Mask} {prio pc : Nat} {st : EState} (hm : m ≠ 0) (h : Stand w m prio pc st) :
    w.wake m = w.place m prio pc .ready := by
  obtain ⟨hlt, hlowest⟩ := mem_lanesOf.1 (lowest_mem hm)
  obtain ⟨e, he, hprio, hpc, -⟩ := h _ hlt hlowest
  simp only [WarpCore.wake, he, hprio, hpc]

/-- A wait with one result ends at its instruction: its code is in every lane, and the lanes go on. -/
theorem State.answered_finishWait {s t : State} {c : Issue} {w : WarpCore} {b : Bool} {q k : Wait} (hwaits : Waits s t c w b q) (hlanes : c.lanes ≠ 0)
    {code : Nat} (hput : ∀ w', t.putAfterWait w' c.lanes k code = (t, code)) (hsw : k.sw = false) (hres : k.results code = [(0, BitVec.ofNat 32 code)]) :
    Answered (t.finishWait c.wid c.lanes k code) c k.dst [(0, BitVec.ofNat 32 code)] := by
  obtain ⟨w', ⟨hcur, hw', -⟩, -, hout, hstand⟩ := hwaits
  obtain ⟨⟨hsame, -⟩, hheld⟩ := WarpCore.writeCode_of_drained hout t c.lanes (k.dst.plus 0) code
  have hfrontier : (WarpCore.writeCode t w' c.lanes (k.dst.plus 0) code).frontier = w'.frontier := (congrArg WarpCore.frontier hsame :)
  have hstand' : Stand (WarpCore.writeCode t w' c.lanes (k.dst.plus 0) code) c.lanes c.prio c.next (.wait b { q with sw := bit c.insn 31 }) := by
    unfold Stand WarpCore.entryOf
    rwa [hfrontier]
  have heq : t.finishWait c.wid c.lanes k code = 
      (t.modRun c.wid fun w => (WarpCore.writeCode t w c.lanes (k.dst.plus 0) code).wake c.lanes).boundary c.wid k.scope true := by
    simp only [State.finishWait, hw', hput, hres, hsw, Bool.false_eq_true, if_false, List.foldl_cons, List.foldl_nil, WarpCore.writeCode]
  have hrun := t.warp?_modRun c.wid fun w => (WarpCore.writeCode t w c.lanes (k.dst.plus 0) code).wake c.lanes
  rw [hw', Option.map_some, WarpCore.wake_of_stand hlanes hstand'] at hrun
  obtain ⟨v, hv, hkeeps⟩ := (State.boundary_keepsAnswers _ c.wid k.scope true).warp c.wid _ hrun
  rw [heq]
  refine ⟨(State.boundary_cur ..).trans hcur, v, hv, (hkeeps.ready _ _ _ (WarpCore.readyAt_place _ _ _ _).settle).stand, fun l _ hm x hx hnone => ?_⟩
  obtain rfl := List.mem_singleton.1 hx
  rw [hkeeps.held, WarpCore.held?_settle, WarpCore.held?_place]
  exact hheld hnone l hm

/-! ### How an instruction goes on -/

theorem State.went_conclude {s : State} {c : Issue} {w : WarpCore} (hw : s.warp? c.wid = some w) : Went s (s.conclude c []) c := by
  rw [State.conclude_nil]
  exact ⟨w, hw, _, onlyWarp_modRun _ hw, rfl, WarpCore.stand_place_ready _ _ _ _⟩

end Sys2Proof.Machine
end

section
/-! PROOF. Commands of a Seam (R349, R350, R356, R357). A command that passes its checks is what its registers name (`State.seamAsk_spec`); its Seam takes it as its newest one (`State.seamAccept_eq`), and its warp goes on (`completes_seamCommand`). -/

namespace Sys2Proof.Machine

/-! ### A Seam and its commands -/

theorem State.seam_of_insert {s t : State} {die : Nat} {x : Seam} (h : t.seams = s.seams.insert die x) : t.seam die = x := by
  rw [State.seam, h, Table.find?_insert_self, Option.getD_some]

@[simp] theorem State.seam_modSeam (s : State) (die : Nat) (f : Seam → Seam) : (s.modSeam die f).seam die = f (s.seam die) := State.seam_of_insert rfl

theorem State.seam_congr {s t : State} (h : t.seams = s.seams) (die : Nat) : t.seam die = s.seam die := by rw [State.seam, h, State.seam]

theorem State.seamCmd_congr {s t : State} (h : t.seams = s.seams) (die id : Nat) : t.seamCmd die id = s.seamCmd die id := by
  rw [State.seamCmd, State.seam_congr h, State.seamCmd]

theorem State.id_of_seamCmd {s : State} {die id : Nat} {k : SeamCmd} (h : s.seamCmd die id = some k) : k.id = id :=
  of_decide_eq_true (List.find?_some (p := fun c : SeamCmd => decide (c.id = id)) h)

/-- A command that is put in its place is found there. -/
theorem State.seamCmd_putSeam {s : State} {die id : Nat} {k k' : SeamCmd} (h : s.seamCmd die id = some k) (hid : k'.id = id) :
    (s.putSeam die k').seamCmd die id = some k' := by
  have hfind (l : List SeamCmd) (hl : l.find? (fun c => decide (c.id = id)) = some k) :
      (l.map fun y => if y.id = k'.id then k' else y).find? (fun c => decide (c.id = id)) = some k' := by
    induction l with
    | nil => cases hl
    | cons y l ih =>
      by_cases hy : y.id = id
      · rw [List.map_cons, if_pos (hy.trans hid.symm)]
        exact List.find?_cons_of_pos (decide_eq_true hid)
      · have hno : ¬ decide (y.id = id) = true := by simpa using hy
        rw [List.find?_cons_of_neg (p := fun c : SeamCmd => decide (c.id = id)) hno] at hl
        rw [List.map_cons, if_neg (by rwa [hid]), List.find?_cons_of_neg (p := fun c : SeamCmd => decide (c.id = id)) hno]
        exact ih hl
  rw [State.seamCmd, State.putSeam, State.seam_modSeam]
  exact hfind _ h

/-- A release gives a place to the context that waits, and takes no command (R356). -/
theorem State.seamRelease_rest (s : State) (die : Nat) :
    { s.seamRelease die with seams := s.seams } = s ∧ ((s.seamRelease die).seam die).cmds = (s.seam die).cmds := by
  unfold State.seamRelease
  dsimp only
  cases (s.seam die).resident with
  | nil => exact ⟨rfl, rfl⟩
  | cons a rest =>
    dsimp only
    split
    · exact ⟨rfl, by rw [State.seam_modSeam]⟩
    · exact ⟨rfl, rfl⟩

/-- Where a context may enter, the Seams alone note it (R356). -/
theorem State.seamEnter_rest (s : State) (die asid : Nat) : { (s.seamEnter die asid).1 with seams := s.seams } = s := by
  unfold State.seamEnter
  dsimp only
  split
  · rfl
  split
  · rfl
  · exact (congrArg (fun v : State => { v with seams := s.seams }) (State.seamRelease_rest _ die).1 :)

/-! ### What a command asks for (R349, R350) -/

theorem State.count_le_of_seamFault {s : State} {w : WarpCore} {op count : Nat} {desc : BitVec 512} (h : s.seamFault w op count desc = none) :
    count ≤ 65536 := by
  unfold State.seamFault at h
  dsimp only at h
  split at h
  · cases h
  · next hvalid =>
    simp only [Bool.or_eq_true, not_or, decide_eq_true_eq] at hvalid
    exact Nat.le_of_not_lt hvalid.2

/-- A command that passes its checks is what its registers name. -/
theorem State.seamAsk_spec {s s1 : State} {op : Nat} {r : RArgs} {c : Issue} {w : WarpCore} {cmd : SeamCmd} (h : s.seamAsk op r c w = (s1, .ok cmd)) :
    s.KeepsAnswers s1 ∧ cmd.count ≤ 65536 ∧ cmd.op = op ∧ cmd.count = (r.vB1 s w c.lead).toNat ∧ cmd.buf = (r.vD s w c.lead).toNat ∧
      cmd.list = (r.vB s w c.lead).toNat ∧ cmd.wid = c.wid ∧ cmd.token = w.token := by
  unfold State.seamAsk at h
  dsimp only at h
  split at h
  · cases h
  · next ks _ =>
    have hread := (s.drainBank_keepsAnswers c.wid).trans (State.readKeys_keepsAnswers _ w.core w.token
      { at_ := (s.drainBank c.wid).seq, fresh := w.refresh, token := some w.token } 39 ks)
    generalize (s.drainBank c.wid).readKeys w.core w.token { at_ := (s.drainBank c.wid).seq, fresh := w.refresh, token := some w.token } 39 ks = y at h hread
    obtain ⟨t, b⟩ := y
    dsimp only at h
    split at h
    · cases h
    · cases h
    · split at h
      · cases h
      · next hfault =>
        cases h
        exact ⟨hread, State.count_le_of_seamFault hfault, rfl, rfl, rfl, rfl, rfl, rfl⟩

/-! ### A command enters its Seam (R356, R354, R277) -/

/-- The Seam with a command as its newest one, under the next number. -/
def Seam.enter (x : Seam) (cmd : SeamCmd) : Seam := { x with cmds := x.cmds ++ [{ cmd with id := x.next }], next := x.next + 1 }

/-- The sync word that a command names is noted (R277). -/
def State.withSeamSync (s : State) (cmd : SeamCmd) : State := if cmd.d.sync = 0xFFFF then s else s.nameSync cmd.core cmd.launch (cmd.d.sync * 8)

theorem State.withSeamSync_eq (s : State) (cmd : SeamCmd) : ∃ syncs, s.withSeamSync cmd = { s with syncs := syncs } := by
  have hrest : { s.withSeamSync cmd with syncs := s.syncs } = s := by
    unfold State.withSeamSync
    split
    · rfl
    · exact s.nameSync_rest ..
  exact ⟨(s.withSeamSync cmd).syncs, (congrArg (fun v : State => { v with syncs := (s.withSeamSync cmd).syncs }) hrest :)⟩

/-- The Seam of a die has a command as its newest one, with the sync words as they then are, and its warp has one more outstanding. -/
def State.entered (s : State) (die : Nat) (cmd : SeamCmd) (syncs : List Nat) : State :=
  { s with seams := s.seams.insert die ((s.seam die).enter cmd), syncs := syncs }.modRun cmd.wid fun w => { w with seamOut := w.seamOut + 1 }

/-- A command of some entries stays outstanding; one of none is complete. -/
theorem State.seamAccept_eq (s : State) (die : Nat) (cmd : SeamCmd) : ∃ syncs, s.seamAccept die cmd =
    if cmd.count = 0 then (s.entered die cmd syncs).seamComplete die { cmd with id := (s.seam die).next } else s.entered die cmd syncs := by
  obtain ⟨syncs, hsyncs⟩ := (s.entered die cmd s.syncs).withSeamSync_eq { cmd with id := (s.seam die).next }
  have hentered : (s.entered die cmd s.syncs).withSeamSync { cmd with id := (s.seam die).next } = s.entered die cmd syncs := hsyncs
  refine ⟨syncs, ?_⟩
  rw [← hentered]
  rfl

theorem State.entered_keepsAnswers (s : State) (die : Nat) (cmd : SeamCmd) (syncs : List Nat) : s.KeepsAnswers (s.entered die cmd syncs) := by
  refine .trans (t := { s with seams := s.seams.insert die ((s.seam die).enter cmd), syncs := syncs }) (.of_eq rfl) (State.modRun_keepsAnswers _ cmd.wid ?_)
  exact fun _ => .of_eq rfl rfl rfl rfl

/-- What a completed command does leaves every warp (R354). -/
theorem State.seamComplete_keepsAnswers (s : State) (die : Nat) (k : SeamCmd) : s.KeepsAnswers (s.seamComplete die k) := by
  unfold State.seamComplete
  extract_lets d arrived grouped counted
  have harrived : s.KeepsAnswers arrived := by
    unfold arrived
    split
    · exact .refl s
    · have hsync := s.syncArrive_keepsAnswers k.core k.launch (d.sync * 8) k.count
      generalize s.syncArrive k.core k.launch (d.sync * 8) k.count = y at hsync ⊢
      obtain ⟨t, _ | o⟩ := y
      · exact hsync
      · exact hsync.trans (t.queueFrame_keepsAnswers ..)
  have hgrouped : arrived.KeepsAnswers grouped := by
    unfold grouped
    split
    · exact arrived.engineArrive_keepsAnswers d.group
    · exact .refl _
  have hcounted : grouped.KeepsAnswers counted := grouped.modTok_keepsAnswers k.token fun _ => .of_eq rfl rfl rfl rfl
  exact harrived.trans (hgrouped.trans (hcounted.trans (.of_eq (congrArg State.warps (State.seamRelease_rest _ die).1 :))))

theorem WarpCore.settle_sameButFrontier (w : WarpCore) : w.SameButFrontier w.settle := rfl

theorem WarpCore.place_sameButFrontier (w : WarpCore) (m : Mask) (prio pc : Nat) (st : EState) : w.SameButFrontier (w.place m prio pc st) := rfl

/-- A warp changes, and the lanes of the instruction go on. -/
theorem State.wentOn_modRun {s : State} {c : Issue} {w : WarpCore} (hw : s.warp? c.wid = some w) (g : WarpCore → WarpCore) :
    WentOn s ((s.modRun c.wid g).conclude c []) c (g w) := by
  rw [State.modRun_conclude]
  have hplaced := (g w).settle_sameButFrontier.trans (WarpCore.place_sameButFrontier _ c.lanes c.prio c.next .ready)
  exact ⟨_, onlyWarp_modRun _ hw, hplaced.trans (WarpCore.settle_sameButFrontier _), WarpCore.stand_place_ready _ _ _ _⟩

/-- A command of some entries has entered its Seam, and its warp goes on. -/
theorem State.seamAccept_of_entries {s : State} {c : Issue} {w : WarpCore} {cmd : SeamCmd} (die : Nat) (hw : s.warp? c.wid = some w) (hwid : cmd.wid = c.wid)
    (hcount : cmd.count ≠ 0) : ∃ t, (s.seamAccept die cmd).conclude c [] = t ∧ t.seam die = (s.seam die).enter cmd ∧
      WentOn { s with seams := t.seams, syncs := t.syncs } t c { w with seamOut := w.seamOut + 1 } := by
  obtain ⟨syncs, heq⟩ := s.seamAccept_eq die cmd
  rw [heq, if_neg hcount, State.entered, hwid]
  have hwent := State.wentOn_modRun (s := { s with seams := s.seams.insert die ((s.seam die).enter cmd), syncs := syncs }) hw fun w =>
    { w with seamOut := w.seamOut + 1 }
  refine ⟨_, rfl, ?_, ?_⟩
  · rw [State.conclude_nil]
    exact State.seam_of_insert (s := s) rfl
  · have hconclude (u : State) : (u.conclude c []).seams = u.seams ∧ (u.conclude c []).syncs = u.syncs := by
      rw [State.conclude_nil]
      exact ⟨rfl, rfl⟩
    obtain ⟨hseams, hsyncs⟩ := hconclude ({ s with seams := s.seams.insert die ((s.seam die).enter cmd), syncs := syncs }.modRun c.wid fun w =>
      { w with seamOut := w.seamOut + 1 })
    rw [hseams, hsyncs]
    exact hwent

/-- A command of no entries is complete when it has entered, and its warp goes on. -/
theorem State.went_seamAccept {s : State} {c : Issue} {w : WarpCore} {cmd : SeamCmd} (die : Nat) (hw : s.warp? c.wid = some w) :
    Went (s.seamAccept die cmd) ((s.seamAccept die cmd).conclude c []) c := by
  have hkeeps : s.KeepsAnswers (s.seamAccept die cmd) := by
    obtain ⟨syncs, heq⟩ := s.seamAccept_eq die cmd
    rw [heq]
    split
    · exact (s.entered_keepsAnswers die cmd syncs).trans (State.seamComplete_keepsAnswers ..)
    · exact s.entered_keepsAnswers die cmd syncs
  obtain ⟨w', hw', -⟩ := hkeeps.warp _ w hw
  exact State.went_conclude hw'

/-- A command whose checks pass is accepted, and its warp goes on. -/
theorem seamCommand_of_accepted {s s1 s2 : State} {c : Issue} {w : WarpCore} {i : Instr} {op : Nat} {r : RArgs} {cmd : SeamCmd} (h : Issuing s c w i)
    (halign : seamAlign r s w c.lead = none) (hbusy : s.seamBanksBusy w r c.lead = false) (hask : s.seamAsk op r c w = (s1, .ok cmd))
    (hroom : s1.seamFull w cmd = false) (henter : s1.seamEnter (dieOf w.core) (s1.asidOf w) = (s2, true)) :
    seamCommand i op r s = .next ((s2.seamAccept (dieOf w.core) cmd).conclude c []) := by
  have hbank : s1.anyBusy w cmd.bufSpan = false := by
    unfold State.seamFull at hroom
    simp only [Bool.or_eq_false_iff] at hroom
    obtain ⟨⟨hspan, -⟩, -⟩ := hroom
    exact hspan
  unfold seamCommand
  rw [onWarp_of h]
  simp only [halign, hbusy, hask, hbank, hroom, henter, Bool.false_eq_true, if_false]

/-- What GATHER, SCATTER and SCATADD do when their checks pass and their Seam takes the command. -/
theorem completes_seamCommand {s s1 s2 : State} {c : Issue} {w : WarpCore} {i : Instr} {op : Nat} {r : RArgs} {cmd : SeamCmd}
    (hexec : exec i s = seamCommand i op r s) (h : Issuing s c w i)
    (halign : seamAlign r s w c.lead = none) (hbusy : s.seamBanksBusy w r c.lead = false) (hask : s.seamAsk op r c w = (s1, .ok cmd))
    (hroom : s1.seamFull w cmd = false) (henter : s1.seamEnter (dieOf w.core) (s1.asidOf w) = (s2, true)) :
    cmd.op = op ∧ cmd.count = (r.vB1 s w c.lead).toNat ∧ cmd.count ≤ 65536 ∧ cmd.buf = (r.vD s w c.lead).toNat ∧
      cmd.list = (r.vB s w c.lead).toNat ∧ cmd.wid = c.wid ∧ cmd.token = w.token ∧
      (cmd.count ≠ 0 → Completes i s fun t => ∃ w2, s2.warp? c.wid = some w2 ∧
        (t.seam (dieOf w.core)).cmds = (s2.seam (dieOf w.core)).cmds ++ [{ cmd with id := (s2.seam (dieOf w.core)).next }] ∧
        (t.seam (dieOf w.core)).next = (s2.seam (dieOf w.core)).next + 1 ∧
        WentOn { s2 with seams := t.seams, syncs := t.syncs } t c { w2 with seamOut := w2.seamOut + 1 }) ∧
      (cmd.count = 0 → Completes i s fun t => Went (s2.seamAccept (dieOf w.core) cmd) t c) := by
  obtain ⟨hkeeps, hmax, hop, hcount, hbuf, hlist, hwid, htoken⟩ := State.seamAsk_spec hask
  have hanswer := hexec.trans (seamCommand_of_accepted h halign hbusy hask hroom henter)
  obtain ⟨w1, hw1, -⟩ := hkeeps.warp c.wid w h.warp
  have hrest := s1.seamEnter_rest (dieOf w.core) (s1.asidOf w)
  rw [henter] at hrest
  have hw2 : s2.warp? c.wid = some w1 := (congrArg (fun v : State => v.warp? c.wid) hrest :).trans hw1
  refine ⟨hop, hcount, hmax, hbuf, hlist, hwid, htoken, fun hne => ?_, fun _ => ⟨_, hanswer, State.went_seamAccept _ hw2⟩⟩
  obtain ⟨t, ht, hseam, hwent⟩ := State.seamAccept_of_entries (dieOf w.core) hw2 hwid hne
  exact ⟨t, hanswer.trans (congrArg _ ht), w1, hw2, by rw [hseam]; rfl, by rw [hseam]; rfl, hwent⟩

/-! ### GSWAIT (R357) -/

/-- The wait of a GSWAIT: its deadline in vB, its code for vD. -/
def gsWait (r : RArgs) (s : State) (c : Issue) (w : WarpCore) : Wait :=
  Wait.mk' .seamOut (s.deadline (r.vB s w c.lead)) (w.resolve r.d.toNat) false

/-- GSWAIT ends at once where nothing is outstanding, and else waits. -/
theorem completes_gswait {s : State} {c : Issue} {w : WarpCore} {r : RArgs} (h : Issuing s c w (.gswait r)) (hundoomed : Undoomed w c.lanes)
    (hlanes : c.lanes ≠ 0) :
    (w.seamOut = 0 → Completes (.gswait r) s fun t => Answered t c (w.resolve r.d.toNat) [(0, 0)]) ∧
      (w.seamOut ≠ 0 → Completes (.gswait r) s fun t => Waits s t c w false (gsWait r s c w)) := by
  have hwaits := State.waits_startWait h.warp false (gsWait r s c w)
  generalize ht : ({ s.startWait c c.lanes false (gsWait r s c w) with cur := none } : State) = t at hwaits
  have hexec : exec (.gswait r) s = .next (if w.seamOut = 0 then t.finishWait c.wid c.lanes (gsWait r s c w) 0 else t) := by
    rw [exec_gswait, execGswait, onWarp_of h, State.orCancel_of_undoomed hundoomed, ← ht]
    rfl
  refine ⟨fun hnone => ?_, fun hsome => ?_⟩
  · rw [if_pos hnone] at hexec
    exact ⟨_, hexec, State.answered_finishWait hwaits hlanes (fun _ => rfl) rfl rfl⟩
  · rw [if_neg hsome] at hexec
    exact ⟨_, hexec, hwaits⟩

end Sys2Proof.Machine
end

section
/-! PROOF. Entries of a Seam's commands (R351, R352, R354, R358). An entry of a GATHER is one clean read of its row (`State.serveRow_read_of_clean`) and one write of its bytes (`State.landBytes_of_keys`), which the command notes or which completes it; the duplicate check goes by what its table holds of the context (`State.dedup_of_known`). -/

namespace Sys2Proof.Machine

/-! ### A row at its owner (R351, R352) -/

/-- What the device sees, all of the module sees (R203). -/
theorem inScope_of_dev {sc : Scope} {writer : Option Nat} {p : Party} (hp : p ≠ .sys) (h : inScope sc writer .dev = true) : inScope sc writer p = true := by
  cases sc with
  | core => cases writer <;> cases h
  | die => cases writer <;> cases h
  | dev =>
    cases p with
    | sys => exact absurd rfl hp
    | core _ => rfl
    | die _ => rfl
    | dev => rfl
  | sys => rfl

theorem offends_of_dev {es : List HWrite} {p : Party} (hp : p ≠ .sys) (h : offends .dev es = false) : offends p es = false := by
  induction es with
  | nil => rfl
  | cons e es ih =>
    unfold offends at h ⊢
    cases hatomic : e.atomic with
    | none => rfl
    | some sc =>
      simp only [hatomic, Bool.or_eq_false_iff, Bool.not_eq_false'] at h ⊢
      exact ⟨inScope_of_dev hp h.1, ih h.2⟩

theorem State.rowPlace_onlyLooks (s : State) (die asid : Nat) (acc : Acc) (addr n : Nat) : s.OnlyLooks (s.rowPlace die asid acc addr n).1 := by
  have htr := s.engineTranslate_onlyLooks (.die die) asid acc addr
  unfold State.rowPlace
  split
  · exact .refl s
  · generalize s.engineTranslate (.die die) asid acc addr = y at htr ⊢
    obtain ⟨t, e | x⟩ := y <;> exact htr

/-- A clean row is read as memory holds it. -/
theorem State.serveRow_read_of_clean {s s1 : State} {die asid addr len pa : Nat} {l : Leaf} {since : Since}
    (hplace : s.rowPlace die asid .load addr len = (s1, some (l, pa))) (hclean : EngineClean s1 .dev since l.okey pa len) (sc : Scope) (tag : Nat) :
    s.serveRow die asid addr sc (.read len since .dev tag) =
      (s1.fillSpan l pa len, { detail := 0, flags := 0, drop := false, data := s.mem.bytes pa len }) := by
  have hmem := (s.rowPlace_onlyLooks die asid .load addr len).mem
  rw [hplace] at hmem
  have htouch : s1.touch (.die (homeDie pa)) pa len = s1 := State.touch_of_settled fun y hy => offends_of_dev nofun (hclean.2 y hy).1
  have hlines := s1.fillSpan_onlyLines l pa len
  have hclean' : EngineClean (s1.fillSpan l pa len) .dev since l.okey pa len :=
    (congrArg (fun v : State => EngineClean v .dev since l.okey pa len) hlines.rest :).mpr hclean
  simp only [State.serveRow, hplace, reduceCtorEq, if_false, htouch, State.countDrop, State.struck_of_clean hclean'.1, Bool.false_eq_true,
    State.engineBytes_of_clean hclean', hlines.onlyLooks.mem, ← hmem]

/-! ### An entry is served (R351) -/

/-- Of its command an entry's answer alone is noted. -/
theorem State.noteServed_spec {s : State} {die id : Nat} {k : SeamCmd} (h : s.seamCmd die id = some k) (i : Nat) (x : SeamServed) :
    SameMemory s (s.noteServed die id i x) ∧ (s.noteServed die id i x).seamCmd die id = some { k with served := k.served.insert i x } := by
  have hid := State.id_of_seamCmd h
  unfold State.noteServed
  rw [h]
  exact ⟨fun _ => rfl, State.seamCmd_putSeam h hid⟩

/-- The index of a GATHER's entry is all that its order depends on, and it waits for no other entry. -/
theorem exec_seamRowRequest_of_indexed {s : State} {die cmd entry x : Nat} {k : SeamCmd} (hcmd : s.seamCmd die cmd = some k) (hop : k.op = 0)
    (hentry : entry < k.count) (hserved : k.served.find? entry = none) (hsent : k.sent.find? entry = none) (hheld : s.seamHeld k = false)
    (hindex : k.index.find? entry = some x) : exec (.seamRowRequest die cmd entry) s = .next (s.serveEntry die k entry) := by
  have hid := State.id_of_seamCmd hcmd
  have hfetch : s.fetchIndices die k entry = s := by
    simp only [State.fetchIndices, hop, if_true, List.foldl_cons, List.foldl_nil, State.fetchIndex, hid, hcmd, hindex, Option.isSome_some]
  have hwaits : s.entryWaits die k entry = false := by
    unfold State.entryWaits
    simp only [hop, ne_eq, not_true_eq_false, decide_false, Bool.false_and]
  rw [exec_seamRowRequest, execSeamRowRequest, hcmd]
  simp only [hserved, hsent, hheld, Nat.not_le.2 hentry, Option.isSome_none, Bool.false_eq_true, or_self, if_false, hfetch, hcmd, hwaits]

section
variable {s : State} {die cmd entry x : Nat} {k : SeamCmd} (hcmd : s.seamCmd die cmd = some k) (hop : k.op = 0) (hshard : k.d.shard = false)
  (hindex : k.index.find? entry = some x) (hx : x < 2 ^ 32)
include hcmd hshard hindex hx

/-- An index past the table is a row fault with detail 5 (R355). -/
theorem State.serveEntry_of_past (hpast : k.d.nrows ≤ x) :
    s.serveEntry die k entry = s.noteServed die cmd entry { detail := 5, flags := 0, drop := false, data := [] } := by
  have howner : s.ownerOf k x = .error 5 := by
    simp only [State.ownerOf, Nat.not_le.2 hx, hshard, hpast, Bool.not_false, if_true, if_false]
  simp only [State.serveEntry, hindex, Option.getD_some, howner, Nat.not_le.2 hx, if_false, State.id_of_seamCmd hcmd]

include hop

/-- A clean row of the table is the answer to its index. -/
theorem State.serveEntry_of_clean {s1 : State} {l : Leaf} {pa : Nat} (hin : x < k.d.nrows)
    (hplace : s.rowPlace die (s.seamAsid k) .load ((k.d.table + x * k.d.gstride) % 2 ^ 64) k.d.rowb = (s1, some (l, pa)))
    (hclean : EngineClean s1 .dev k.sinceOf l.okey pa k.d.rowb) :
    s.serveEntry die k entry =
      (s1.fillSpan l pa k.d.rowb).noteServed die cmd entry { detail := 0, flags := 0, drop := false, data := s.mem.bytes pa k.d.rowb } := by
  have howner : s.ownerOf k x = .ok (s.boot.modId, (k.d.table + x * k.d.gstride) % 2 ^ 64) := by
    simp only [State.ownerOf, Nat.not_le.2 hx, hshard, Nat.not_le.2 hin, Bool.not_false, if_true, if_false]
  have hread := State.serveRow_read_of_clean hplace hclean .dev (2 ^ 22 + entry)
  simp only [State.serveEntry, hindex, Option.getD_some, howner, hop, if_true, SeamCmd.ask, hread, State.id_of_seamCmd hcmd]
end

/-- An entry of a GATHER is served: its index is past the table, or a row of it is read. -/
theorem completes_seamRowRequest {s : State} {die cmd entry x : Nat} {k : SeamCmd} (hcmd : s.seamCmd die cmd = some k) (hop : k.op = 0)
    (hentry : entry < k.count) (hserved : k.served.find? entry = none) (hsent : k.sent.find? entry = none) (hheld : s.seamHeld k = false)
    (hshard : k.d.shard = false) (hindex : k.index.find? entry = some x) (hx : x < 2 ^ 32) :
    (k.d.nrows ≤ x → Completes (.seamRowRequest die cmd entry) s fun t => SameMemory s t ∧ ∃ k', t.seamCmd die cmd = some k' ∧
      k'.served.find? entry = some { detail := 5, flags := 0, drop := false, data := [] }) ∧
    (x < k.d.nrows → ∀ s1 l pa, s.rowPlace die (s.seamAsid k) .load ((k.d.table + x * k.d.gstride) % 2 ^ 64) k.d.rowb = (s1, some (l, pa)) →
      EngineClean s1 .dev k.sinceOf l.okey pa k.d.rowb → Completes (.seamRowRequest die cmd entry) s fun t => SameMemory s t ∧
        ∃ k', t.seamCmd die cmd = some k' ∧ k'.served.find? entry = some { detail := 0, flags := 0, drop := false, data := s.mem.bytes pa k.d.rowb }) := by
  have hexec := exec_seamRowRequest_of_indexed hcmd hop hentry hserved hsent hheld hindex
  refine ⟨fun hpast => ?_, fun hin s1 l pa hplace hclean => ?_⟩
  · obtain ⟨hmem, hnoted⟩ := State.noteServed_spec hcmd entry { detail := 5, flags := 0, drop := false, data := [] }
    rw [State.serveEntry_of_past hcmd hshard hindex hx hpast] at hexec
    exact ⟨_, hexec, hmem, _, hnoted, Table.find?_insert_self ..⟩
  · have hlooks := s.rowPlace_onlyLooks die (s.seamAsid k) .load ((k.d.table + x * k.d.gstride) % 2 ^ 64) k.d.rowb
    rw [hplace] at hlooks
    have hread := hlooks.trans (s1.fillSpan_onlyLines l pa k.d.rowb).onlyLooks
    have hcmd' : (s1.fillSpan l pa k.d.rowb).seamCmd die cmd = some k := (State.seamCmd_congr (congrArg State.seams hread.rest :) die cmd).trans hcmd
    obtain ⟨hmem, hnoted⟩ := State.noteServed_spec hcmd' entry { detail := 0, flags := 0, drop := false, data := s.mem.bytes pa k.d.rowb }
    rw [State.serveEntry_of_clean hcmd hop hshard hindex hx hin hplace hclean] at hexec
    exact ⟨_, hexec, fun a => (hmem a).trans (congrArg (Memory.byte · a) hread.mem), _, hnoted, Table.find?_insert_self ..⟩

/-! ### An entry lands (R352, R354) -/

theorem State.spadKeys_congr {s t : State} {core launch : Nat} (h : ∀ o, t.spadByte core launch o = s.spadByte core launch o) (offs : List Nat) :
    t.spadKeys core launch offs = s.spadKeys core launch offs := by
  induction offs with
  | nil => rfl
  | cons o r ih => simp only [State.spadKeys, ih, h]

/-- The bytes of an entry whose row of the buffer is one run of scratchpad. -/
theorem State.landBytes_of_keys {s : State} {k : SeamCmd} {i a : Nat} {data : List Byte} (hpad : isSpad a = true) (hd : data ≠ [])
    (hkeys : s.spadKeys k.core k.launch (keysFrom (k.buf + i * k.d.rowb) data.length) = .ok (keysFrom a data.length)) :
    ∃ u, s.landBytes k i data = (u, none) ∧ s.Places a data u := by
  refine ⟨_, ?_, State.engineWrite_places (okey := 0) hd (.inl hpad) (some k.core)⟩
  simp only [State.landBytes, hkeys, State.writeKeys_keysFrom _ _ _ hd]

/-- A command that names no sync word and no group is gone when it is complete; no byte changes. -/
theorem State.seamComplete_of_plain (s : State) (die : Nat) {k : SeamCmd} (hsync : k.d.sync = 0xFFFF) (harrive : k.d.arrive = false) :
    { s.seamComplete die k with warps := s.warps, saved := s.saved, seams := s.seams } = s ∧ (s.seamComplete die k).seamCmd die k.id = none := by
  unfold State.seamComplete
  simp only [hsync, harrive, true_or, if_true, Bool.false_eq_true, if_false]
  generalize hu : (s.modTok k.token fun w => { w with seamOut := w.seamOut - 1 }).modSeam die _ = u
  obtain ⟨hrest, hcmds⟩ := u.seamRelease_rest die
  refine ⟨?_, ?_⟩
  · have hu' : { u with warps := s.warps, saved := s.saved, seams := s.seams } = s := by rw [← hu]; rfl
    exact (congrArg (fun v : State => { v with warps := s.warps, saved := s.saved, seams := s.seams }) hrest :).trans hu'
  · rw [State.seamCmd, hcmds, ← hu, State.seam_modSeam, List.find?_eq_none]
    intro y hy
    exact of_decide_eq_true (by simpa using (List.mem_filter.1 hy).2)

/-- Where the bytes of a served entry land, its command goes on from there. -/
theorem exec_seamEntryLand_of_served {s : State} {die cmd entry a : Nat} {k : SeamCmd} {data : List Byte} (hcmd : s.seamCmd die cmd = some k) (hop : k.op = 0)
    (hlanded : k.landed.contains entry = false) (hserved : k.served.find? entry = some { detail := 0, flags := 0, drop := false, data := data })
    (hpad : isSpad a = true) (hd : data ≠ [])
    (hkeys : s.spadKeys k.core k.launch (keysFrom (k.buf + entry * k.d.rowb) data.length) = .ok (keysFrom a data.length)) :
    ∃ u, StoredAmong s u a data ∧ u.seamCmd die cmd = some k ∧ exec (.seamEntryLand die cmd entry) s =
      .next (if k.landed.length + 1 = k.count then u.seamComplete die { k with landed := entry :: k.landed } else u.putSeam die { k with landed := entry :: k.landed }) := by
  obtain ⟨v, hv⟩ : ∃ v, (s.modTok k.token fun w => (w.raise (BitVec.ofNat 8 0)).markDrop false) = v := ⟨_, rfl⟩
  have hrest : { v with warps := s.warps, saved := s.saved } = s := by rw [← hv]; rfl
  have hbyte (o : Nat) : v.spadByte k.core k.launch o = s.spadByte k.core k.launch o := (congrArg (fun t : State => t.spadByte k.core k.launch o) hrest :)
  obtain ⟨u, hland, hplaces⟩ := State.landBytes_of_keys (s := v) hpad hd ((State.spadKeys_congr hbyte _).trans hkeys)
  have hucmd : u.seamCmd die cmd = some k :=
    (State.seamCmd_congr ((congrArg State.seams hplaces.rest :).trans (congrArg State.seams hrest :)) die cmd).trans hcmd
  refine ⟨u, (congrArg (fun t : State => StoredAmong t u a data) hrest :).mp hplaces.stored, hucmd, ?_⟩
  rw [exec_seamEntryLand, execSeamEntryLand, hcmd]
  simp only [hserved, hlanded, Bool.false_eq_true, if_false, hv, hop, and_self, if_true, hland, ne_eq, not_true_eq_false, Option.isSome_none, hucmd,
    List.length_cons]

/-- The landing of an entry: its bytes, and its command. -/
theorem completes_seamEntryLand {s : State} {die cmd entry a : Nat} {k : SeamCmd} {data : List Byte} (hcmd : s.seamCmd die cmd = some k) (hop : k.op = 0)
    (hlanded : k.landed.contains entry = false) (hserved : k.served.find? entry = some { detail := 0, flags := 0, drop := false, data := data })
    (hsync : k.d.sync = 0xFFFF) (harrive : k.d.arrive = false) (hpad : isSpad a = true) (hd : data ≠ [])
    (hkeys : s.spadKeys k.core k.launch (keysFrom (k.buf + entry * k.d.rowb) data.length) = .ok (keysFrom a data.length)) :
    Completes (.seamEntryLand die cmd entry) s fun t => StoredAmong s t a data ∧ (k.landed.length + 1 = k.count → t.seamCmd die cmd = none) ∧
      (k.landed.length + 1 ≠ k.count → ∃ k', t.seamCmd die cmd = some k' ∧ k'.landed = entry :: k.landed) := by
  obtain ⟨u, hstored, hucmd, heq⟩ := exec_seamEntryLand_of_served hcmd hop hlanded hserved hpad hd hkeys
  have hid := State.id_of_seamCmd hcmd
  have hmem {t : State} (h : t.mem = u.mem) : StoredAmong s t a data := by rwa [StoredAmong, h]
  refine ⟨_, heq, ?_⟩
  by_cases hlast : k.landed.length + 1 = k.count
  · obtain ⟨hrest, hgone⟩ := u.seamComplete_of_plain die (k := { k with landed := entry :: k.landed }) hsync harrive
    rw [if_pos hlast]
    exact ⟨hmem (congrArg State.mem hrest :), fun _ => by rwa [← hid], fun h => absurd hlast h⟩
  · rw [if_neg hlast]
    exact ⟨hmem rfl, fun h => absurd h hlast, fun _ => ⟨_, State.seamCmd_putSeam hucmd hid, rfl⟩⟩

/-! ### Duplicates (R358) -/

/-- A dropped or stale entry is counted, the count saturating (R357). -/
def State.loseEntry (s : State) (die asid : Nat) : State :=
  s.modSeam die fun x => { x with dups := Map.set 0 x.dups asid (min (2 ^ 32 - 1) (Map.get 0 x.dups asid + 1)) }

theorem State.dups_loseEntry (s : State) (die asid : Nat) :
    Map.get 0 ((s.loseEntry die asid).seam die).dups asid = min (2 ^ 32 - 1) (Map.get 0 (s.seam die).dups asid + 1) := by
  rw [State.loseEntry, State.seam_modSeam, Map.get_set_self]

section
variable (s : State) (die src dispatch asid epoch e : Nat)

/-- A context that the table does not know is applied. -/
theorem State.dedup_of_unknown (h : Table.find? (((s.seam die).dedup.find? (src * 65536 + dispatch)).getD []) asid = none) :
    (s.dedup die src dispatch asid epoch e).2 = .apply := by
  simp only [State.dedup, h]

/-- By the newest epoch that the table holds of a context, and the indices applied in it. -/
theorem State.dedup_of_known {old : Nat} {l : List Nat} (h : Table.find? (((s.seam die).dedup.find? (src * 65536 + dispatch)).getD []) asid = some (old, l)) :
    (old = epoch → e ∉ l → (s.dedup die src dispatch asid epoch e).2 = .apply) ∧
    (old = epoch → e ∈ l → s.dedup die src dispatch asid epoch e = (s.loseEntry die asid, .drop)) ∧
    (old ≠ epoch → 1 ≤ (epoch + 65536 - old) % 65536 → (epoch + 65536 - old) % 65536 < 32768 → (s.dedup die src dispatch asid epoch e).2 = .apply) ∧
    (old ≠ epoch → ((epoch + 65536 - old) % 65536 = 0 ∨ 32768 ≤ (epoch + 65536 - old) % 65536) →
      s.dedup die src dispatch asid epoch e = (s.loseEntry die asid, .stale)) := by
  refine ⟨fun hepoch he => ?_, fun hepoch he => ?_, fun hepoch hlo hhi => ?_, fun hepoch hfar => ?_⟩
  · simp only [State.dedup, h, hepoch, if_true, List.contains_iff_mem, he, if_false]
  · simp only [State.dedup, h, hepoch, if_true, List.contains_iff_mem, he, State.loseEntry]
  · simp only [State.dedup, h, hepoch, if_false, hlo, hhi, and_self, if_true]
  · have hold : ¬ (1 ≤ (epoch + 65536 - old) % 65536 ∧ (epoch + 65536 - old) % 65536 < 32768) := by omega
    simp only [State.dedup, h, hepoch, if_false, hold, State.loseEntry]
end

/-! ### The statement -/

/-- Settles O38: a command enters by `completes_seamCommand`; an entry is served by `completes_seamRowRequest` and lands by `completes_seamEntryLand`; a duplicate is `State.dedup_of_known`'s. -/
theorem seam : Obligations.Seam := by
  refine ⟨fun s c w r => ⟨?_, ?_, ?_, ?_, ?_, ?_⟩, fun s die cmd entry k hcmd hop hentry hlanded => ⟨?_, ?_, ?_⟩⟩
  · exact fun h halign hbusy _ _ _ hask hroom henter => completes_seamCommand exec_gather h halign hbusy hask hroom henter
  · exact fun h halign hbusy _ _ _ hask hroom henter => completes_seamCommand exec_scatter h halign hbusy hask hroom henter
  · exact fun h halign hbusy _ _ _ hask hroom henter => completes_seamCommand exec_scatadd h halign hbusy hask hroom henter
  · exact completes_gswait
  · exact fun h => ⟨_, exec_gswaitOut.trans (onWarp_of h _), State.gave_giveAll h.warp _ _⟩
  · exact fun h => ⟨_, exec_gswaitDup.trans (onWarp_of h _), State.gave_giveAll h.warp _ _⟩
  · exact fun hserved hsent hheld hshard _ hindex hx => completes_seamRowRequest hcmd hop hentry hserved hsent hheld hshard hindex hx
  · exact fun _ _ hserved hsync harrive hpad hd hkeys => completes_seamEntryLand hcmd hop hlanded hserved hsync harrive hpad hd hkeys
  · intro src dispatch asid epoch e
    have hlost := s.dups_loseEntry die asid
    refine ⟨State.dedup_of_unknown s die src dispatch asid epoch e, fun old l hknown => ?_⟩
    obtain ⟨hnew, hdup, hnewer, hstale⟩ := State.dedup_of_known s die src dispatch asid epoch e hknown
    refine ⟨hnew, fun hepoch he => ?_, hnewer, fun hepoch hfar => ?_⟩
    · rw [hdup hepoch he]
      exact ⟨rfl, hlost⟩
    · rw [hstale hepoch hfar]
      exact ⟨rfl, hlost⟩

end Sys2Proof.Machine
end

section
/-! PROOF. What the command processor reads and writes at the home (R209, R366, R374). A read changes no byte (`State.OnlyReads`); a write may end registrations, so of queues, warps and graphs it changes no more than their waits (`State.KeepsOwners`). -/

namespace Sys2Proof.Machine

/-! ### Reads at the home -/

/-- Only what reads at the home leave behind them changes: what accesses do, and contents that are undefined (R209). -/
structure State.OnlyReads (s t : State) : Prop where
  rest : { t with tlb := s.tlb, hist := s.hist, seq := s.seq, counters := s.counters, llc := s.llc, l1 := s.l1, uses := s.uses, undef := s.undef } = s

theorem State.OnlyReads.refl (s : State) : s.OnlyReads s := ⟨rfl⟩

theorem State.OnlyReads.trans {s t u : State} (hst : s.OnlyReads t) (htu : t.OnlyReads u) : s.OnlyReads u where
  rest := (congrArg (fun v : State => { v with tlb := s.tlb, hist := s.hist, seq := s.seq, counters := s.counters, llc := s.llc, l1 := s.l1, uses := s.uses, undef := s.undef })
    htu.rest :).trans hst.rest

theorem State.OnlyLooks.onlyReads {s t : State} (h : s.OnlyLooks t) : s.OnlyReads t where
  rest := (congrArg (fun v : State => { v with undef := s.undef }) h.rest :)

theorem State.OnlyReads.mem {s t : State} (h : s.OnlyReads t) : t.mem = s.mem := (congrArg State.mem h.rest :)

theorem State.OnlyReads.sameMemory {s t : State} (h : s.OnlyReads t) : SameMemory s t := fun a => by rw [h.mem]

theorem State.OnlyReads.ctxs {s t : State} (h : s.OnlyReads t) : t.ctxs = s.ctxs := (congrArg State.ctxs h.rest :)

theorem State.touch_onlyReads (s : State) (p : Party) (k n : Nat) : s.OnlyReads (s.touch p k n) := by
  unfold State.touch
  dsimp only
  split <;> exact ⟨rfl⟩

theorem State.recall_onlyReads (s : State) (p : Party) (k n : Nat) : s.OnlyReads (s.recall p k n) := (s.recall_onlyHist p k n).onlyLooks.onlyReads

/-- The bytes of one page, read at their home. -/
theorem State.homeAccess_onlyReads (s : State) (l : Leaf) (pa n : Nat) :
    s.OnlyReads ((((s.touch .dev pa n).recall .dev pa n).fillSpan l pa n).countDrop pa n) :=
  (s.touch_onlyReads .dev pa n).trans ((State.recall_onlyReads _ .dev pa n).trans
    ((State.fillSpan_onlyLines _ l pa n).onlyLooks.trans (State.countDrop_onlyLooks _ pa n)).onlyReads)

theorem State.homeRead_onlyReads (s : State) (asid va n : Nat) : s.OnlyReads (s.homeRead asid va n).1 := by
  have hpieces := s.pieces_onlyLooks .dev asid .load va n
  unfold State.homeRead
  generalize s.pieces .dev asid .load va n = r at hpieces ⊢
  obtain ⟨t, e | ps⟩ := r
  · exact hpieces.onlyReads
  · refine hpieces.onlyReads.trans ?_
    exact List.foldlRecOn (motive := fun a : State × List Byte => t.OnlyReads a.1) ps _ (State.OnlyReads.refl t)
      fun a ha p _ => ha.trans (a.1.homeAccess_onlyReads p.leaf p.pa p.len)

theorem State.onlyReads_of_homeRead {s t : State} {asid va n : Nat} {o : Option Nat} (h : s.homeRead asid va n = (t, o)) : s.OnlyReads t := by
  have hread := s.homeRead_onlyReads asid va n
  rwa [h] at hread

theorem State.ctxRead_onlyReads (s : State) (asid va n : Nat) : s.OnlyReads (s.ctxRead asid va n).1 := by
  have htr := s.engineTranslate_onlyLooks .dev asid .load va
  unfold State.ctxRead
  generalize s.engineTranslate .dev asid .load va = r at htr ⊢
  obtain ⟨t, e | ⟨l, pa⟩⟩ := r
  · exact htr.onlyReads
  · exact htr.onlyReads.trans (t.homeAccess_onlyReads l pa n)

theorem State.callRecord_onlyReads (s : State) (asid : Nat) : s.OnlyReads (s.callRecord asid) :=
  (s.touch_onlyReads .dev _ 64).trans (State.recall_onlyReads _ .dev _ 64)

/-! ### Those who hear of a registration's end (R220) -/

/-- A context without the state of its queues. -/
def Context.bare (c : Context) : Context := { c with queues := [] }

/-- Contexts stay but for the state of their queues, warps stay in their launches, and no graph begins. -/
structure State.KeepsOwners (s t : State) : Prop where
  ctx : ∀ a, (t.ctxs.find? a).map Context.bare = (s.ctxs.find? a).map Context.bare
  warp : ∀ k x, (k, x) ∈ t.warps → ∃ y, (k, y) ∈ s.warps ∧ x.run.launch = y.run.launch
  graph : ∀ g, s.graphs.find? g = none → t.graphs.find? g = none

theorem State.KeepsOwners.of_eq {s t : State} (hctxs : t.ctxs = s.ctxs) (hwarps : t.warps = s.warps) (hgraphs : t.graphs = s.graphs) : s.KeepsOwners t where
  ctx a := by rw [hctxs]
  warp k x h := ⟨x, hwarps ▸ h, rfl⟩
  graph g h := by rw [hgraphs, h]

theorem State.KeepsOwners.refl (s : State) : s.KeepsOwners s := .of_eq rfl rfl rfl

theorem State.KeepsOwners.trans {s t u : State} (hst : s.KeepsOwners t) (htu : t.KeepsOwners u) : s.KeepsOwners u where
  ctx a := (htu.ctx a).trans (hst.ctx a)
  warp k x h := by
    obtain ⟨y, hy, hxy⟩ := htu.warp k x h
    obtain ⟨z, hz, hyz⟩ := hst.warp k y hy
    exact ⟨z, hz, hxy.trans hyz⟩
  graph g h := htu.graph g (hst.graph g h)

theorem State.KeepsOwners.foldl {β : Type} (f : State → β → State) (hf : ∀ (s : State) b, s.KeepsOwners (f s b)) (l : List β) (s : State) :
    s.KeepsOwners (l.foldl f s) :=
  State.foldl_rel State.KeepsOwners.refl State.KeepsOwners.trans f hf l s

theorem State.OnlyReads.keepsOwners {s t : State} (h : s.OnlyReads t) : s.KeepsOwners t :=
  .of_eq h.ctxs (congrArg State.warps h.rest :) (congrArg State.graphs h.rest :)

theorem State.OnlyBytes.keepsOwners {s t : State} (h : s.OnlyBytes t) : s.KeepsOwners t :=
  .of_eq (congrArg State.ctxs h.rest :) (congrArg State.warps h.rest :) (congrArg State.graphs h.rest :)

/-- A context is found as it was, but for its queues. -/
theorem State.KeepsOwners.find? {s t : State} (h : s.KeepsOwners t) {a : Nat} {c : Context} (hc : s.ctxs.find? a = some c) :
    ∃ c', t.ctxs.find? a = some c' ∧ c'.bare = c.bare := by
  have hctx := h.ctx a
  rw [hc, Option.map_some] at hctx
  exact Option.map_eq_some_iff.1 hctx

/-- A change of a context's queues. -/
theorem State.modCtx_keepsOwners (s : State) (asid : Nat) {f : Context → Context} (hf : ∀ c, (f c).bare = c.bare) :
    s.KeepsOwners { s with ctxs := s.ctxs.modify asid f } where
  ctx _ := Table.map_find?_modify hf _ _ _
  warp _ x h := ⟨x, h, rfl⟩
  graph _ h := h

theorem Table.mem_modify {α : Type} {t : Table α} {q : Nat} {f : α → α} {e : Nat × α} (h : e ∈ t.modify q f) :
    e ∈ t ∨ ∃ v, (q, v) ∈ t ∧ e = (q, f v) := by
  unfold Table.modify at h
  cases hq : t.find? q with
  | none => rw [hq] at h; exact .inl h
  | some v =>
    rw [hq] at h
    exact (Table.mem_insert h).symm.imp_right fun he => ⟨v, Table.mem_of_find? hq, he⟩

theorem State.recordIf_keepsOwners (s : State) (wid : Nat) (which : Wait → Mask → Bool) (code : Nat) : s.KeepsOwners (s.recordIf wid which code) where
  ctx _ := rfl
  warp k x h := by
    rcases Table.mem_modify h with hold | ⟨v, hv, he⟩
    · exact ⟨x, hold, rfl⟩
    · cases he
      exact ⟨v, hv, rfl⟩
  graph _ h := h

theorem State.endReg_keepsOwners (s : State) (id code : Nat) : s.KeepsOwners (s.endReg id code) := by
  have herased : s.KeepsOwners { s with regs := s.regs.erase id } := .of_eq rfl rfl rfl
  unfold State.endReg
  cases s.regs.find? id with
  | none => exact .refl s
  | some r =>
    dsimp only
    cases r.owner with
    | warp wid _ => exact herased.trans (State.recordIf_keepsOwners _ wid _ code)
    | darner wid _ _ => exact herased.trans (State.recordIf_keepsOwners _ wid _ code)
    | queue asid q =>
      refine herased.trans ?_
      dsimp only
      exact State.modCtx_keepsOwners { s with regs := s.regs.erase id } asid fun _ => rfl
    | graph g =>
      refine ⟨fun _ => rfl, fun k x h => ⟨x, h, rfl⟩, fun k h => ?_⟩
      by_cases hk : k = g
      · subst hk
        exact (Table.find?_modify_self _ _ _).trans (by rw [h, Option.map_none])
      · exact (Table.find?_modify_ne _ _ hk).trans h

theorem State.reevaluate_keepsOwners (s : State) (k n : Nat) : s.KeepsOwners (s.reevaluate k n) := by
  have hnoted : s.KeepsOwners (s.noted k n) := by
    unfold State.noted
    split <;> exact .of_eq rfl rfl rfl
  rw [State.reevaluate_eq]
  refine hnoted.trans (.trans ?_ (State.reevaluateOwners_induction (State.KeepsOwners.refl _) fun t ht e _ code => ht.trans (t.endReg_keepsOwners e.1 code)))
  exact .foldl _ (fun s (e : Nat × Registration) => s.endReg_keepsOwners e.1 1) _ _

theorem State.homeWrite_keepsOwners (s : State) (b : Writer) (sc : Scope) (atomic : Option Scope) (okey k : Nat) (data : List Byte) :
    s.KeepsOwners (s.homeWrite b sc atomic okey k data) := by
  by_cases hd : data = []
  · subst hd
    exact .refl s
  · obtain ⟨u, hland, heq⟩ := s.homeWrite_lands b sc atomic okey k hd
    rw [heq]
    exact hland.toOnlyBytes.keepsOwners.trans (u.reevaluate_keepsOwners k data.length)

/-! ### Writes at the home -/

theorem State.fillSpan_keepsOwners (s : State) (l : Leaf) (pa n : Nat) : s.KeepsOwners (s.fillSpan l pa n) :=
  (s.fillSpan_onlyLines l pa n).onlyLooks.onlyReads.keepsOwners

theorem State.cpWrite_keepsOwners (s : State) (asid : Nat) (sc : Scope) (va : Nat) (data : List Byte) : s.KeepsOwners (s.cpWrite asid sc va data).1 := by
  have hpieces := (s.pieces_onlyLooks .dev asid .store va data.length).onlyReads.keepsOwners
  unfold State.cpWrite
  generalize s.pieces .dev asid .store va data.length = r at hpieces ⊢
  obtain ⟨t, e | ps⟩ := r
  · exact hpieces
  · refine hpieces.trans ?_
    dsimp only
    refine .foldl _ (fun s p => ?_) ps t
    exact (s.fillSpan_keepsOwners p.leaf p.pa p.len).trans (State.homeWrite_keepsOwners ..)

theorem State.keepsOwners_of_cpWrite {s t : State} {asid va : Nat} {sc : Scope} {data : List Byte} {b : Bool} (h : s.cpWrite asid sc va data = (t, b)) :
    s.KeepsOwners t := by
  have hwrite := s.cpWrite_keepsOwners asid sc va data
  rwa [h] at hwrite

theorem State.ctxWrite_keepsOwners (s : State) (asid va : Nat) (data : List Byte) : s.KeepsOwners (s.ctxWrite asid va data).1 := by
  have htr := (s.engineTranslate_onlyLooks .dev asid .store va).onlyReads.keepsOwners
  unfold State.ctxWrite
  generalize s.engineTranslate .dev asid .store va = r at htr ⊢
  obtain ⟨t, e | ⟨l, pa⟩⟩ := r
  · exact htr
  · exact htr.trans ((t.fillSpan_keepsOwners l pa _).trans (State.homeWrite_keepsOwners ..))

/-! ### Frames of the CP (R369, R416) -/

theorem State.loseFrame_keepsOwners (s : State) (asid faultq : Nat) : s.KeepsOwners (s.loseFrame asid faultq) := by
  have hread := (s.ctxRead_onlyReads asid faultq 12).keepsOwners
  unfold State.loseFrame
  generalize s.ctxRead asid faultq 12 = r at hread ⊢
  obtain ⟨t, _ | h⟩ := r
  · exact hread
  · exact hread.trans (t.ctxWrite_keepsOwners asid _ _)

/-- A frame of no launch marks no graph. -/
theorem State.queueFrame_keepsOwners (s : State) (asid : Nat) (f : Frame) (savedw : Nat) : s.KeepsOwners (s.queueFrame asid none f savedw) := by
  unfold State.queueFrame
  dsimp only
  cases s.ctxs.find? asid with
  | none => exact .refl s
  | some c =>
    have hread := (s.ctxRead_onlyReads asid c.rcd.faultq 8).keepsOwners
    dsimp only
    generalize s.ctxRead asid c.rcd.faultq 8 = r at hread ⊢
    obtain ⟨t, _ | h⟩ := r
    · exact hread
    · refine hread.trans ?_
      dsimp only
      split
      · exact t.loseFrame_keepsOwners asid _
      · have hput := t.ctxWrite_keepsOwners asid (c.rcd.faultq + 64 + 64 * (natOfBytes (h.take 4) % c.rcd.fqcap)) (bytesOfNat 64 (f.bits savedw))
        generalize t.ctxWrite asid (c.rcd.faultq + 64 + 64 * (natOfBytes (h.take 4) % c.rcd.fqcap)) (bytesOfNat 64 (f.bits savedw)) = q at hput ⊢
        obtain ⟨v, _ | _⟩ := q
        · exact hput.trans (v.loseFrame_keepsOwners asid _)
        · exact hput.trans (v.ctxWrite_keepsOwners asid _ _)

theorem State.cpFrame_keepsOwners (s : State) (asid detail faddr : Nat) : s.KeepsOwners (s.cpFrame asid detail faddr) :=
  s.queueFrame_keepsOwners asid _ 0

theorem State.stopQueue_keepsOwners (s : State) (asid q detail faddr : Nat) : s.KeepsOwners (s.stopQueue asid q detail faddr) :=
  (s.modCtx_keepsOwners asid (f := fun c => { c with queues := c.queues.modify q (fun x => { x with stopped := true }) }) fun _ => rfl).trans
    (State.cpFrame_keepsOwners _ asid detail faddr)

end Sys2Proof.Machine
end

section
/-! PROOF. Contexts and queues (R364 to R366). A record that is read changes no byte; what a context's creation and its queues' service do after that keeps its record (`State.KeepsOwners`), and a context that ends changes the generation words of its groups alone (`State.clearGroups_byte`). -/

namespace Sys2Proof.Machine

/-! ### Whole words (R202, R408) -/

/-- What a key says of a run of bytes depends on the slots and on the bytes' keys alone. -/
theorem KeyInForce.congr {s t : State} {okey k n : Nat} (h : KeyInForce s okey k n) (hbytes : t.byteKeys = s.byteKeys) (hkeys : t.keys = s.keys)
    (hring : t.keyRing = s.keyRing) : KeyInForce t okey k n := by
  refine h.imp_right fun htag x hlo hhi => ?_
  have htagAt : t.tagAt x = s.tagAt x := by unfold State.tagAt; rw [hbytes]
  have hkeyTag : t.keyTag okey = s.keyTag okey := by unfold State.keyTag; rw [hkeys, hring]
  rw [htagAt, hkeyTag, htag x hlo hhi]

/-- A write of whole words leaves every other byte. -/
theorem State.Places.stored_of_words {s t : State} {k : Nat} {data : List Byte} (h : s.Places k data t) (hk : k % 4 = 0) (hn : data.length % 4 = 0) :
    Stored s t k data := by
  intro a
  have hplaced := h.stored a
  split
  · rename_i hin
    rwa [if_pos hin] at hplaced
  · rename_i hout
    rw [if_neg hout] at hplaced
    refine hplaced (.inr fun hword => ?_)
    rcases Nat.eq_zero_or_pos data.length with hzero | hpos
    · rw [hzero] at hword
      cases hword
    · have hbounds := (mem_wordKeys hpos).1 hword
      omega

/-! ### Barrier groups start anew (R236) -/

theorem State.clearGroups_keepsOwners (s : State) (which : Nat → Bool) : s.KeepsOwners (s.clearGroups which) :=
  .foldl _ (fun s (e : Nat × Barrier) =>
    .trans (t := { s with barriers := s.barriers.erase e.1 }) (.of_eq rfl rfl rfl) (State.homeWrite_keepsOwners ..)) _ s

/-- A word that is written under the key in force: every other byte stays, and so do the keys. -/
theorem State.homeWrite_word {s : State} {okey k : Nat} (hk : k % 4 = 0) (hkey : KeyInForce s okey k 4) (b : Writer) (sc : Scope) (v : Nat) :
    let t := s.homeWrite b sc none okey k (bytesOfNat 4 v)
    (∀ a, ¬ (k ≤ a ∧ a < k + 4) → t.mem.byte a = s.mem.byte a) ∧ t.fw = s.fw ∧ t.byteKeys = s.byteKeys ∧ t.keys = s.keys ∧ t.keyRing = s.keyRing := by
  intro t
  have hlength : (bytesOfNat 4 v).length = 4 := length_bytesOfNat 4 v
  have hplaces : s.Places k (bytesOfNat 4 v) t :=
    State.homeWrite_places (List.ne_nil_of_length_pos (by rw [hlength]; decide)) (by rw [hlength]; exact hkey) b sc none
  have hrest := hplaces.rest
  refine ⟨fun a ha => ?_, (congrArg State.fw hrest :), hplaces.keys, (congrArg State.keys hrest :), (congrArg State.keyRing hrest :)⟩
  rw [hplaces.stored_of_words hk (by rw [hlength]) a, hlength, if_neg ha]

/-- The groups' generation words are written, and no other byte. -/
theorem State.clearGroups_byte {s : State} {which : Nat → Bool} {a : Nat} (hwords : s.fw.genWords % 4 = 0)
    (hkey : ∀ e ∈ s.barriers, KeyInForce s 0 (s.genWord e.1) 4)
    (ha : ∀ e ∈ s.barriers, which e.1 = true → ¬ (s.genWord e.1 ≤ a ∧ a < s.genWord e.1 + 4)) : (s.clearGroups which).mem.byte a = s.mem.byte a := by
  have hall : let t := s.clearGroups which
      t.mem.byte a = s.mem.byte a ∧ t.fw = s.fw ∧ t.byteKeys = s.byteKeys ∧ t.keys = s.keys ∧ t.keyRing = s.keyRing := by
    refine List.foldlRecOn (motive := fun t : State => t.mem.byte a = s.mem.byte a ∧ t.fw = s.fw ∧ t.byteKeys = s.byteKeys ∧ t.keys = s.keys ∧ t.keyRing = s.keyRing)
      _ _ ⟨rfl, rfl, rfl, rfl, rfl⟩ fun t ht e he => ?_
    obtain ⟨hbyte, hfw, hbytes, hkeys, hring⟩ := ht
    obtain ⟨hmem, hwhich⟩ := List.mem_filter.1 he
    have hword : t.genWord e.1 = s.genWord e.1 := by rw [State.genWord, hfw, State.genWord]
    have haligned : s.genWord e.1 % 4 = 0 := by rw [State.genWord]; omega
    have hforce : KeyInForce { t with barriers := t.barriers.erase e.1 } 0 (s.genWord e.1) 4 := (hkey e hmem).congr hbytes hkeys hring
    obtain ⟨hbyte', hfw', hbytes', hkeys', hring'⟩ := State.homeWrite_word haligned hforce { wid := none, core := none } .dev 0
    rw [hword]
    exact ⟨(hbyte' a (ha e hmem hwhich)).trans hbyte, hfw'.trans hfw, hbytes'.trans hbytes, hkeys'.trans hkeys, hring'.trans hring⟩
  exact hall.1

/-! ### A context begins (R364, R365) -/

theorem State.openQueue_keepsOwners (s : State) (asid qtable q : Nat) : s.KeepsOwners (s.openQueue asid qtable q) := by
  have hread := (s.homeRead_onlyReads asid (qtable + 16 * q) 16).keepsOwners
  have hput (u : State) (x : Queue) : u.KeepsOwners { u with ctxs := u.ctxs.modify asid (fun c => { c with queues := c.queues.insert q x }) } :=
    u.modCtx_keepsOwners asid fun _ => rfl
  unfold State.openQueue
  dsimp only
  generalize s.homeRead asid (qtable + 16 * q) 16 = r at hread ⊢
  obtain ⟨t, _ | v⟩ := r
  · exact hread.trans ((hput t _).trans (State.stopQueue_keepsOwners _ asid q 3 _))
  · dsimp only
    split
    · exact hread.trans ((hput t _).trans (State.stopQueue_keepsOwners _ asid q 4 _))
    · exact hread.trans (hput t _)

/-- A new context has the fields of its record, and runs. -/
theorem State.createContext_spec (s : State) (asid : Nat) :
    ∃ x, (s.createContext asid).ctxs.find? asid = some x ∧ x.suspended = false ∧ x.ended = false ∧ x.rcd = ctxRecordOf (s.recordOf asid) := by
  let c : Context :=
    { rcd := ctxRecordOf (s.recordOf asid), born := s.nextBorn, bad := (s.askRecord asid s.nextBorn).2, suspended := false, ended := false, queues := [], shadows := [],
      swaps := [], tableSeen := s.seq, ageFrom := s.ns, rearm := false }
  let u : State := { s with ctxs := s.ctxs.insert asid c }
  have hkeeps : u.KeepsOwners (s.createContext asid) := by
    unfold State.createContext
    dsimp only
    refine .trans ?_ (.foldl _ (fun s q => s.openQueue_keepsOwners asid _ q) _ _)
    split
    · exact .refl u
    · exact u.clearGroups_keepsOwners _
  obtain ⟨x, hx, hbare⟩ := hkeeps.find? (Table.find?_insert_self s.ctxs asid c)
  exact ⟨x, hx, (congrArg Context.suspended hbare :), (congrArg Context.ended hbare :), (congrArg Context.rcd hbare :)⟩

/-! ### A context ends (R364) -/

/-- A launch that goes takes no byte, no warp and no context with it. -/
theorem State.dropLaunches_rest (s : State) (ids : List Nat) :
    (ids.foldl State.dropLaunch s).mem = s.mem ∧ (ids.foldl State.dropLaunch s).warps = s.warps ∧ (ids.foldl State.dropLaunch s).ctxs = s.ctxs :=
  List.foldlRecOn (motive := fun t : State => t.mem = s.mem ∧ t.warps = s.warps ∧ t.ctxs = s.ctxs) ids _ ⟨rfl, rfl, rfl⟩ fun _ ht _ _ => ht

/-- The machine without what it holds of a context, but for its record and its groups. -/
def State.leaveContext (s : State) (asid : Nat) : State :=
  { s with
    warps := s.warps.filter (fun e => !decide ((s.launch e.2.run.launch).asid = asid))
    saved := s.saved.filter (fun v => !decide ((s.launch v.warp.run.launch).asid = asid))
    evicting := s.evicting.filter (fun k => !decide ((s.launch (s.launchOf k)).asid = asid))
    widens := s.widens.filter (fun e => !decide ((s.launch e.2.launch).asid = asid))
    gathers := s.gathers.filter (fun e => !decide ((s.launch e.2.launch).asid = asid))
    keyeds := s.keyeds.filter (fun e => !decide ((s.launch e.2.launch).asid = asid))
    regs := s.regs.filter (fun e => decide (e.2.asid ≠ asid))
    graphs := s.graphs.filter (fun e => decide (e.2.asid ≠ asid))
    jobs := s.jobs.filter (fun j => decide (j.asid ≠ asid))
    seams := s.seams.map (fun (e : Nat × Seam) => (e.1, e.2.forget asid)) }

/-- The groups of a context start anew, where its record is good. -/
def State.freeGroups (s : State) (asid : Nat) : State :=
  match s.ctxs.find? asid with
  | some c => if c.bad then s else s.resetGroups c.rcd.bgbase c.rcd.bgcount
  | none => s

theorem State.removeContext_eq (s : State) (asid : Nat) : s.removeContext asid =
    ((s.launches.filter (fun e => decide (e.2.asid = asid))).map (·.1)).foldl State.dropLaunch
      { (s.leaveContext asid).freeGroups asid with ctxs := ((s.leaveContext asid).freeGroups asid).ctxs.erase asid } := rfl

theorem State.freeGroups_keepsOwners (s : State) (asid : Nat) : s.KeepsOwners (s.freeGroups asid) := by
  unfold State.freeGroups
  split
  · split
    · exact .refl s
    · exact s.clearGroups_keepsOwners _
  · exact .refl s

theorem State.freeGroups_byte {s : State} {asid a : Nat} (hwords : s.fw.genWords % 4 = 0) (hkey : ∀ e ∈ s.barriers, KeyInForce s 0 (s.genWord e.1) 4)
    (ha : ∀ e ∈ s.barriers, s.groupOf asid e.1 = true → ¬ (s.genWord e.1 ≤ a ∧ a < s.genWord e.1 + 4)) : (s.freeGroups asid).mem.byte a = s.mem.byte a := by
  unfold State.freeGroups
  split
  · next c hc =>
    split
    · rfl
    · exact State.clearGroups_byte hwords hkey fun e he hwhich => ha e he (by rw [State.groupOf, hc]; exact hwhich)
  · rfl

/-- A context that ends leaves no warp of its launches, and of memory changes the generation words of its groups at most. -/
theorem State.removeContext_spec (s : State) (asid : Nat) :
    (s.removeContext asid).ctxs.find? asid = none ∧ (∀ n x, (n, x) ∈ (s.removeContext asid).warps → (s.launch x.run.launch).asid ≠ asid) ∧
      (s.fw.genWords % 4 = 0 → (∀ e ∈ s.barriers, KeyInForce s 0 (s.genWord e.1) 4) →
        ∀ a, (∀ e ∈ s.barriers, s.groupOf asid e.1 = true → ¬ (s.genWord e.1 ≤ a ∧ a < s.genWord e.1 + 4)) → (s.removeContext asid).mem.byte a = s.mem.byte a) := by
  obtain ⟨hmem, hwarps, hctxs⟩ := State.dropLaunches_rest
    { (s.leaveContext asid).freeGroups asid with ctxs := ((s.leaveContext asid).freeGroups asid).ctxs.erase asid }
    ((s.launches.filter (fun e => decide (e.2.asid = asid))).map (·.1))
  rw [State.removeContext_eq, hmem, hwarps, hctxs]
  refine ⟨Table.find?_erase_self _ _, fun n x hx => ?_, fun hwords hkey a ha => ?_⟩
  · obtain ⟨y, hy, hlaunch⟩ := ((s.leaveContext asid).freeGroups_keepsOwners asid).warp n x hx
    rw [hlaunch]
    simpa using (List.mem_filter.1 hy).2
  · exact State.freeGroups_byte (s := s.leaveContext asid) hwords hkey ha

/-! ### An entry is served (R366) -/

/-- A graph of a context whose record is good begins at node 0. -/
theorem State.startGraph_spec {s : State} {asid : Nat} {c : Context} (hctx : s.ctxs.find? asid = some c) (hgood : c.bad = false) (q graph done : Nat) :
    SameMemory s (s.startGraph asid q graph done) ∧ ∃ id r, (s.startGraph asid q graph done).graphs.find? id = some r ∧ r.asid = asid ∧ r.queue = q ∧
      r.graph = graph ∧ r.done = done ∧ r.node = 0 ∧ r.phase = .atNode ∧ r.status = 0 := by
  unfold State.startGraph
  simp only [Table.find?_modify_self, hctx, Option.map_some, hgood, Bool.false_eq_true, if_false]
  exact ⟨fun _ => rfl, _, _, Table.find?_insert_self _ _ _, rfl, rfl, rfl, rfl, rfl, rfl, rfl⟩

/-- The entry at HEAD is taken, and its graph word cleared. -/
theorem State.serveQueue_of_entry {s s1 s2 s3 : State} {asid q h e : Nat} {y : Queue} (hhead : s.homeRead asid y.base 64 = (s1, some h))
    (hne : bits h 31 0 ≠ bits h 63 32) (hroom : (bits h 31 0 + 2 ^ 32 - bits h 63 32) % 2 ^ 32 ≤ 2 ^ y.caplog)
    (hentry : s1.homeRead asid (y.base + 64 + 32 * (bits h 63 32 % 2 ^ y.caplog)) 32 = (s2, some e)) (hgraph : bits e 63 0 ≠ 0)
    (hclear : s2.cpWrite asid .dev (y.base + 64 + 32 * (bits h 63 32 % 2 ^ y.caplog)) (bytesOfNat 8 0) = (s3, true)) :
    s.serveQueue asid q y = s3.startGraph asid q (bits e 63 0) (bits e 127 64) := by
  unfold State.serveQueue
  simp only [hhead, if_neg hne, if_neg (Nat.not_lt.2 hroom), hentry, if_neg hgraph, hclear]

theorem exec_cpServeEntry_of_open {s : State} {asid q : Nat} {x : Context} {y : Queue} (hready : s.boot.ready = true) (hctx : s.ctxs.find? asid = some x)
    (hqueue : x.queues.find? q = some y) (hruns : s.ctxRuns asid = true) (hopen : y.open_ = true) (hfirst : s.graphs.length + s.queuesBefore asid q y < 256) :
    exec (.cpServeEntry asid q) s = .next (s.serveQueue asid q y) := by
  rw [exec_cpServeEntry, execCpServeEntry]
  simp only [hctx, Option.bind_some, hqueue, hready, hruns, hopen, hfirst, decide_true, Bool.and_self, if_true]

/-! ### What the CP does with a record (R364) -/

section
variable {s : State} {asid : Nat} (hready : s.boot.ready = true) (hasid : asid < 4096)
include hready hasid

theorem exec_contextCreate_of_invalid (hnone : s.ctxs.find? asid = none) (hvalid : (s.callRecord asid).recordValid asid = false) :
    exec (.contextCreate asid) s = .next (s.callRecord asid) := by
  rw [exec_contextCreate, execContextCreate, if_pos ⟨hready, hasid⟩]
  simp only [(s.callRecord_onlyReads asid).ctxs, hnone, hvalid]

theorem exec_contextCreate_of_new (hnone : s.ctxs.find? asid = none) (hvalid : (s.callRecord asid).recordValid asid = true) :
    exec (.contextCreate asid) s = .next ((s.callRecord asid).createContext asid) := by
  rw [exec_contextCreate, execContextCreate, if_pos ⟨hready, hasid⟩]
  simp only [(s.callRecord_onlyReads asid).ctxs, hnone, hvalid]

theorem exec_contextCreate_of_ended {c : Context} (hctx : s.ctxs.find? asid = some c) (hvalid : (s.callRecord asid).recordValid asid = false) :
    exec (.contextCreate asid) s = .next ((s.callRecord asid).removeContext asid) := by
  rw [exec_contextCreate, execContextCreate, if_pos ⟨hready, hasid⟩]
  simp only [(s.callRecord_onlyReads asid).ctxs, hctx, hvalid]
end

/-- Settles O49: a context begins by `State.createContext_spec` and ends by `State.removeContext_spec`; an entry is served by `State.startGraph_spec`. -/
theorem contextsAndQueues : Obligations.ContextsAndQueues := by
  intro s asid q hready hasid s0 v
  have hcall : s.OnlyReads s0 := s.callRecord_onlyReads asid
  refine ⟨fun hnone hvalid => ?_, fun hnone hvalid => ?_, fun hsome hvalid => ?_, ?_⟩
  · exact ⟨exec_contextCreate_of_invalid hready hasid hnone hvalid, hcall.sameMemory, hcall.ctxs⟩
  · obtain ⟨x, hx, hsuspended, hended, hrcd⟩ := s0.createContext_spec asid
    refine ⟨_, exec_contextCreate_of_new hready hasid hnone hvalid, x, hx, hsuspended, hended, ?_⟩
    rw [hrcd]
    exact ⟨rfl, rfl, rfl, rfl, rfl, rfl, rfl, rfl, rfl⟩
  · obtain ⟨c, hc⟩ := Option.isSome_iff_exists.1 hsome
    obtain ⟨hgone, hwarps, hbytes⟩ := s0.removeContext_spec asid
    have hlaunches : s0.launches = s.launches := (congrArg State.launches hcall.rest :)
    have hbarriers : s0.barriers = s.barriers := (congrArg State.barriers hcall.rest :)
    have hfw : s0.fw = s.fw := (congrArg State.fw hcall.rest :)
    have hword (g : Nat) : s0.genWord g = s.genWord g := by rw [State.genWord, hfw, State.genWord]
    refine ⟨_, exec_contextCreate_of_ended hready hasid hc hvalid, hgone, fun n x hx => ?_, fun haligned hkey a ha => ?_⟩
    · have hasids := hwarps n x hx
      rwa [State.launch, hlaunches] at hasids
    · refine (hbytes (by rw [hfw]; exact haligned) (fun e he => ?_) a fun e he hgroup => ?_).trans (hcall.sameMemory a)
      · rw [hbarriers] at he
        rw [hword]
        exact (hkey e he).congr (congrArg State.byteKeys hcall.rest :) (congrArg State.keys hcall.rest :) (congrArg State.keyRing hcall.rest :)
      · rw [hbarriers] at he
        rw [State.groupOf, hcall.ctxs] at hgroup
        rw [hword]
        exact ha e he hgroup
  · intro x y s1 h s2 e s3 hctx hqueue hgood hruns hopen hfirst hhead tail head va hne hroom hentry hgraph hclear
    have hserve := State.serveQueue_of_entry (q := q) hhead hne hroom hentry hgraph hclear
    have hkeeps := (State.onlyReads_of_homeRead hhead).keepsOwners.trans ((State.onlyReads_of_homeRead hentry).keepsOwners.trans (State.keepsOwners_of_cpWrite hclear))
    obtain ⟨c, hc, hbare⟩ := hkeeps.find? hctx
    have hbad : c.bad = false := (congrArg Context.bad hbare :).trans hgood
    refine ⟨_, (exec_cpServeEntry_of_open hready hctx hqueue hruns hopen hfirst).trans (congrArg _ hserve), ?_⟩
    exact State.startGraph_spec hc hbad q _ _

end Sys2Proof.Machine
end

section
/-! PROOF. How a graph goes on, and how it ends (R370, R374 to R376). A node that names no other goes to its successor (`State.goOn_spec`); a graph that ends is gone (`State.find?_endGraph`), and so the frame of the nodes is one case for a node and one for what is none (`onNode_of_node`, `onNode_of_bad`). -/

namespace Sys2Proof.Machine

/-! ### To a node (R370, R374) -/

/-- The graph has come to a node from the one where `r` stood. -/
def State.CameTo (t : State) (g : Nat) (r : GraphRun) (node : Nat) : Prop :=
  ∃ x, t.graphs.find? g = some x ∧ x.node = node ∧ x.phase = .atNode ∧ x.from_ = some r.node ∧ x.status = r.status

/-- The node after a node that names no other. -/
def State.successor (s : State) (r : GraphRun) : Nat :=
  match s.loopsEnding r r.node r.node with
  | i :: _ => i
  | [] => r.node + 1

theorem State.goTo_spec {node : Nat} (h : node ≤ 65535) (s : State) (g : Nat) (r : GraphRun) :
    (s.goTo g r node r.node).mem = s.mem ∧ (s.goTo g r node r.node).hist = s.hist ∧ (s.goTo g r node r.node).CameTo g r node := by
  unfold State.goTo
  rw [if_neg (Nat.not_lt.2 h)]
  exact ⟨rfl, rfl, _, Table.find?_insert_self _ _ _, rfl, rfl, rfl, rfl⟩

theorem State.goOn_eq (s : State) (g : Nat) (r : GraphRun) : s.goOn g r = s.goTo g r (s.successor r) r.node := by
  unfold State.goOn State.successor
  cases s.loopsEnding r r.node r.node <;> rfl

/-- A node has a successor, unless it is the last that there can be. -/
theorem State.successor_le {r : GraphRun} (h : r.node < 65535) (s : State) : s.successor r ≤ 65535 := by
  unfold State.successor
  cases hloops : s.loopsEnding r r.node r.node with
  | nil => exact h
  | cons i is =>
    have hmem : i ∈ s.loopsEnding r r.node r.node := by rw [hloops]; exact List.mem_cons_self
    have hlow := List.mem_range.1 (List.mem_reverse.1 (List.mem_of_mem_filter hmem))
    exact (hlow.trans h).le

theorem State.goOn_spec {r : GraphRun} (h : r.node < 65535) (s : State) (g : Nat) :
    (s.goOn g r).mem = s.mem ∧ (s.goOn g r).hist = s.hist ∧ (s.goOn g r).CameTo g r (s.successor r) := by
  rw [State.goOn_eq]
  exact State.goTo_spec (s.successor_le h) s g r

/-- Past a LOOP at whose body's end no lower LOOP's body ends. -/
theorem State.leaveLoop_of_alone {s : State} {r : GraphRun} {v : Nat} (h : s.loopsEnding r (r.node + nodeBody v) r.node = []) (g : Nat) :
    s.leaveLoop g r v = s.goTo g r (r.node + nodeBody v + 1) r.node := by
  simp only [State.leaveLoop, h]

/-! ### The end of a graph (R376) -/

theorem State.publishSys_keepsOwners (s : State) : s.KeepsOwners s.publishSys := .of_eq rfl rfl rfl

theorem State.completion_keepsOwners (s : State) (r : GraphRun) : s.KeepsOwners (s.completion r) := by
  unfold State.completion
  dsimp only
  split
  · exact s.cpFrame_keepsOwners _ _ _
  · split
    · next hwrite => exact (State.keepsOwners_of_cpWrite hwrite).trans (State.cpFrame_keepsOwners _ _ _ _)
    · next hwrite => exact (State.keepsOwners_of_cpWrite hwrite).trans ((State.publishSys_keepsOwners _).trans (State.cpWrite_keepsOwners _ _ _ _ _))

theorem State.advanceHead_keepsOwners (s : State) (asid q : Nat) : s.KeepsOwners (s.advanceHead asid q) := by
  unfold State.advanceHead
  split
  · exact .refl s
  · have hidle := s.modCtx_keepsOwners asid (f := fun c => { c with queues := c.queues.modify q (fun y => { y with graph := none, since := s.free }) }) fun _ => rfl
    refine hidle.trans ?_
    dsimp only
    split
    · next hread => exact (State.onlyReads_of_homeRead hread).keepsOwners.trans (State.stopQueue_keepsOwners _ _ _ _ _)
    · next hread =>
      refine (State.onlyReads_of_homeRead hread).keepsOwners.trans ((State.publishSys_keepsOwners _).trans ?_)
      split
      · next hwrite => exact State.keepsOwners_of_cpWrite hwrite
      · next hwrite => exact (State.keepsOwners_of_cpWrite hwrite).trans (State.stopQueue_keepsOwners _ _ _ _ _)

theorem State.find?_endGraph (s : State) (g : Nat) (r : GraphRun) : (s.endGraph g r).graphs.find? g = none :=
  ((State.completion_keepsOwners _ r).trans (State.advanceHead_keepsOwners _ _ _)).graph g (Table.find?_erase_self s.graphs g)

/-! ### The frame of a node (R370, R375) -/

/-- The graph as its node is fetched: its start is noted. -/
def GraphRun.started (r : GraphRun) (s : State) : GraphRun := { r with tstart := some (r.tstart.getD s.ns) }

/-- The graph while the node that it fetched, `v`, runs. -/
def GraphRun.fetched (r : GraphRun) (s : State) (v : Nat) : GraphRun := { r.started s with held := v }

@[simp] theorem GraphRun.fetched_asid (r : GraphRun) (s : State) (v : Nat) : (r.fetched s v).asid = r.asid := rfl
@[simp] theorem GraphRun.fetched_node (r : GraphRun) (s : State) (v : Nat) : (r.fetched s v).node = r.node := rfl
@[simp] theorem GraphRun.fetched_from (r : GraphRun) (s : State) (v : Nat) : (r.fetched s v).from_ = r.from_ := rfl

/-- The CP fetches the word `v` at the node of graph `g`, and the machine is `s1` then. -/
structure State.Fetches (s : State) (g : Nat) (r : GraphRun) (s1 : State) (v : Nat) : Prop where
  find : s.graphs.find? g = some r
  phase : r.phase = .atNode
  runs : s.ctxRuns r.asid = true
  read : s.readNode (r.started s) r.node = (s1, some v)

/-- The word is a node. -/
def IsNode (r : GraphRun) (v : Nat) : Prop := nodeReserved v = true ∧ nodeRanges r.node v = true

theorem State.Fetches.onlyReads {s s1 : State} {g v : Nat} {r : GraphRun} (h : s.Fetches g r s1 v) : s.OnlyReads s1 := by
  have hread := h.read
  unfold State.readNode at hread
  split at hread
  · cases hread
  · exact State.onlyReads_of_homeRead hread

section
variable {s s1 : State} {g v : Nat} {r : GraphRun} (h : s.Fetches g r s1 v)
include h

theorem State.Fetches.goes : (decide (r.phase = .atNode) && s.ctxRuns r.asid) = true := by
  rw [decide_eq_true h.phase, h.runs]
  rfl

/-- A node of a type does what is said for it. -/
theorem onNode_of_node (hnode : IsNode r v) {type : Nat} (htype : nodeType v = type) (body : State → GraphRun → Nat → State) :
    onNode type g s body = .next (body s1 (r.fetched s v) v) := by
  obtain ⟨hreserved, hranges⟩ := hnode
  have hread := h.read
  unfold GraphRun.started at hread
  unfold onNode
  simp only [h.find, h.goes, if_true, hread, hreserved, hranges, htype]
  rfl

/-- What is no node ends the graph. -/
theorem onNode_of_bad (hbad : ¬ IsNode r v) (type : Nat) (body : State → GraphRun → Nat → State) :
    onNode type g s body = .next (s1.badNode g (r.started s)) := by
  have hno : (nodeReserved v && nodeRanges r.node v) = false := by
    rw [Bool.eq_false_iff, Ne, Bool.and_eq_true]
    exact hbad
  have hread := h.read
  unfold GraphRun.started at hread
  unfold onNode
  simp only [h.find, h.goes, if_true, hread, hno, Bool.not_false]
  rfl
end

end Sys2Proof.Machine
end

section
/-! PROOF. KERNEL and TASKROOT (R371, R372). A launch that passes its checks is what its node's fields say (`State.askLaunch_eq`); it begins under an id of its own, and its graph runs it (`State.beginLaunch_spec`); a task launch's root joins its records and the deque of its origin core (`State.rootLaunch_spec`). -/

namespace Sys2Proof.Machine

/-! ### The launch of a node -/

/-- A field of a field. -/
theorem bits_bits {lo hi j i : Nat} (h : lo + i ≤ hi) (x : Nat) : bits (bits x hi lo) i j = bits x (lo + i) (lo + j) := by
  refine Nat.eq_of_testBit_eq fun n => ?_
  unfold bits
  simp only [Nat.testBit_mod_two_pow, Nat.testBit_div_two_pow]
  have hwidth : lo + i + 1 - (lo + j) = i + 1 - j := by omega
  rw [hwidth]
  by_cases hn : n < i + 1 - j
  · have hin : n + j < hi + 1 - lo := by omega
    rw [decide_eq_true hn, decide_eq_true hin, Bool.true_and, Bool.true_and, Bool.true_and, Nat.add_assoc, Nat.add_comm j lo]
  · rw [decide_eq_false hn, Bool.false_and, Bool.false_and]

/-- A launch that is not refused has the fields of its node, and the tiles and templates of its block. -/
theorem State.askLaunch_eq {s s2 : State} {g v : Nat} {r : GraphRun} {task : Bool} {l : Launch} (h : s.askLaunch g r v task = (s2, some l)) :
    ∃ prio tiles tpls, l = { launchOfNode r g prio v task with tiles := tiles, tpls := tpls } := by
  unfold State.askLaunch at h
  dsimp only at h
  split at h
  · cases h
  · split at h
    · cases h
    · cases h
      exact ⟨_, _, _, rfl⟩

/-- A launch is listed under an id, and its graph runs it. -/
def State.listLaunch (s : State) (g : Nat) (r : GraphRun) (l : Launch) (id : Nat) : State :=
  { s with
    launches := s.launches.insert id { l with tickets := if l.task then [] else l.newTickets }
    nextLaunch := if id + 1 < 2 ^ 32 then id + 1 else 1
    graphs := s.graphs.insert g { r with phase := .launch id } }

theorem State.beginLaunch_eq (s : State) (g : Nat) (r : GraphRun) (l : Launch) :
    s.beginLaunch g r l = (if l.tpls.isEmpty then s.listLaunch g r l (s.launches.fresh s.nextLaunch)
      else (rectCores l).foldl (fun t c => t.modCore c (fun k => { k with templates := k.templates.insert (s.launches.fresh s.nextLaunch) l.tpls }))
        (s.listLaunch g r l (s.launches.fresh s.nextLaunch)), s.launches.fresh s.nextLaunch) := rfl

/-- A launch begins: its entry is as asked but for its tickets, and the graph runs it. No byte changes. -/
theorem State.beginLaunch_spec (s : State) (g : Nat) (r : GraphRun) (l : Launch) :
    (s.beginLaunch g r l).1.mem = s.mem ∧
      (s.beginLaunch g r l).1.launches.find? (s.beginLaunch g r l).2 = some { l with tickets := if l.task then [] else l.newTickets } ∧
      (s.beginLaunch g r l).1.graphs.find? g = some { r with phase := .launch (s.beginLaunch g r l).2 } := by
  have hcores : (s.listLaunch g r l (s.beginLaunch g r l).2).OnlyCores (s.beginLaunch g r l).1 := by
    rw [State.beginLaunch_eq]
    dsimp only
    split
    · exact .refl _
    · refine State.foldl_rel State.OnlyCores.refl State.OnlyCores.trans _ (fun t c => ?_) _ _
      exact ⟨rfl⟩
  exact ⟨(congrArg State.mem hcores.rest :), (congrArg (fun t : State => t.launches.find? _) hcores.rest :).trans (Table.find?_insert_self _ _ _),
    (congrArg (fun t : State => t.graphs.find? g) hcores.rest :).trans (Table.find?_insert_self _ _ _)⟩

/-! ### The root of a task launch (R247, R371) -/

theorem State.undefine_onlyReads (s : State) (launch va n : Nat) : s.OnlyReads (s.undefine launch va n) := by
  have htr := (s.engineTranslate_onlyLooks .dev (s.launch launch).asid .load va).onlyReads
  unfold State.undefine
  generalize s.engineTranslate .dev (s.launch launch).asid .load va = x at htr ⊢
  obtain ⟨t, e | ⟨l, pa⟩⟩ := x
  · exact htr
  · exact htr.trans ⟨rfl⟩

theorem State.makeRoom_rest (s : State) (core launch : Nat) (fits : State → Bool) : { s.makeRoom core launch fits with evicting := s.evicting } = s := by
  unfold State.makeRoom
  split <;> rfl

/-- What TASKROOT does once its launch has begun: the Darner areas are the Darners' own, the root is open and on the origin core's deque, and room is made there. -/
def State.rootLaunch (s : State) (id root : Nat) (l : Launch) : State :=
  (((((rectCores l).foldl (fun s c => s.undefine id (s.darnerArea c id) 0xC000) s).openRecord id root).modDarner (coreAt l.x l.y) id
    (fun d => { d with deque := root :: d.deque })).makeRoom (coreAt l.x l.y) id (fun s => s.admits (coreAt l.x l.y) id && (s.taskSlot (coreAt l.x l.y) id).isSome))

theorem State.rootLaunch_spec {s : State} {id : Nat} {y : Launch} (h : s.launches.find? id = some y) (root : Nat) (l : Launch) :
    (s.rootLaunch id root l).mem = s.mem ∧ (s.rootLaunch id root l).graphs = s.graphs ∧
      (∃ z, (s.rootLaunch id root l).launches.find? id = some z ∧ z.task = y.task ∧ root ∈ z.records) ∧
      root ∈ ((s.rootLaunch id root l).darner (coreAt l.x l.y) id).deque := by
  obtain ⟨u, hu⟩ : ∃ u : State, u = (rectCores l).foldl (fun s c => s.undefine id (s.darnerArea c id) 0xC000) s := ⟨_, rfl⟩
  have hareas : s.OnlyReads u := by
    rw [hu]
    exact State.foldl_rel State.OnlyReads.refl State.OnlyReads.trans _ (fun s _ => s.undefine_onlyReads id _ _) _ s
  obtain ⟨w, hw⟩ : ∃ w : State, w = (u.openRecord id root).modDarner (coreAt l.x l.y) id (fun d => { d with deque := root :: d.deque }) := ⟨_, rfl⟩
  have hroom : { s.rootLaunch id root l with evicting := w.evicting } = w := by
    rw [hw, hu]
    exact State.makeRoom_rest _ _ _ _
  have hlaunches : w.launches = u.launches.modify id (fun l => { l with records := root :: l.records.filter (fun x => decide (x ≠ root)) }) := by
    rw [hw]
    rfl
  have hlisted : u.launches.find? id = some y := (congrArg (fun t : State => t.launches.find? id) hareas.rest :).trans h
  have hdeque : (w.darner (coreAt l.x l.y) id).deque = root :: ((u.openRecord id root).darner (coreAt l.x l.y) id).deque := by
    rw [hw, State.darner_modDarner_self]
  generalize s.rootLaunch id root l = t at hroom ⊢
  have hdarner : t.darner (coreAt l.x l.y) id = w.darner (coreAt l.x l.y) id := (congrArg (fun t : State => t.darner (coreAt l.x l.y) id) hroom :)
  refine ⟨(congrArg State.mem hroom :).trans ?_, (congrArg State.graphs hroom :).trans ?_,
    ⟨{ y with records := root :: y.records.filter (fun x => decide (x ≠ root)) }, (congrArg (fun t : State => t.launches.find? id) hroom :).trans ?_, rfl,
      List.mem_cons_self⟩, ?_⟩
  · rw [← hareas.mem, hw]
    rfl
  · rw [hw]
    exact (congrArg State.graphs hareas.rest :)
  · rw [hlaunches, Table.find?_modify_self, hlisted]
    rfl
  · rw [hdarner, hdeque]
    exact List.mem_cons_self

/-! ### The nodes -/

section
variable {s s1 : State} {g v : Nat} {r : GraphRun} (h : s.Fetches g r s1 v) (hnode : IsNode r v)
include h hnode

theorem exec_nodeKernel_of_asked (htype : nodeType v = 1) {s2 : State} {l : Launch}
    (hask : s1.askLaunch g (r.fetched s v) v false = (s2, some l)) :
    exec (.nodeKernel g) s = .next (s2.beginLaunch g (r.fetched s v) l).1 := by
  rw [exec_nodeKernel, execNodeKernel, onNode_of_node h hnode htype]
  simp only [hask]

theorem exec_nodeTaskroot_of_asked (htype : nodeType v = 2) {s2 s3 : State} {l : Launch}
    (hask : s1.askLaunch g (r.fetched s v) v true = (s2, some l))
    (hroot : s2.cpWrite r.asid .dev (bits v 191 128 + 16) (bytesOfNat 8 0 ++ bytesOfNat 8 (ctlWord 0 0 true l.job)) = (s3, true)) :
    exec (.nodeTaskroot g) s = .next ((s3.beginLaunch g (r.fetched s v) l).1.rootLaunch
      (s3.beginLaunch g (r.fetched s v) l).2 (bits v 191 128) l) := by
  rw [exec_nodeTaskroot, execNodeTaskroot, onNode_of_node h hnode htype]
  simp only [hask, GraphRun.fetched_asid, hroot]
  rfl

/-- KERNEL (R371). -/
theorem completes_nodeKernel (htype : nodeType v = 1) {s2 : State} {l : Launch} (hask : s1.askLaunch g (r.fetched s v) v false = (s2, some l)) :
    Completes (.nodeKernel g) s fun t => ∃ id y x, t.launches.find? id = some y ∧ { y with tickets := l.tickets } = l ∧ y.tickets = l.newTickets ∧ l.asid = r.asid ∧
      l.entry = bits v 191 128 ∧ l.iters = bits v 319 288 ∧ l.chunk = bits v 351 320 ∧ l.warps = bits v 84 79 + 1 ∧ t.graphs.find? g = some x ∧ x.phase = .launch id := by
  obtain ⟨-, hlaunch, hgraph⟩ := s2.beginLaunch_spec g (r.fetched s v) l
  obtain ⟨prio, tiles, tpls, rfl⟩ := State.askLaunch_eq hask
  refine ⟨_, exec_nodeKernel_of_asked h hnode htype hask, _, _, _, hlaunch, rfl, rfl, rfl, rfl, rfl, rfl, ?_, hgraph, rfl⟩
  exact congrArg (· + 1) (bits_bits (lo := 64) (hi := 95) (i := 20) (j := 15) (by decide) v)

/-- TASKROOT (R371). -/
theorem completes_nodeTaskroot (htype : nodeType v = 2) {s2 s3 : State} {l : Launch}
    (hask : s1.askLaunch g (r.fetched s v) v true = (s2, some l))
    (hroot : s2.cpWrite r.asid .dev (bits v 191 128 + 16) (bytesOfNat 8 0 ++ bytesOfNat 8 (ctlWord 0 0 true l.job)) = (s3, true)) :
    Completes (.nodeTaskroot g) s fun t => SameMemory s3 t ∧ ∃ id y x, t.launches.find? id = some y ∧ y.task = true ∧ bits v 191 128 ∈ y.records ∧
      bits v 191 128 ∈ (t.darner (coreAt l.x l.y) id).deque ∧ t.graphs.find? g = some x ∧ x.phase = .launch id := by
  obtain ⟨hmem, hlaunch, hgraph⟩ := s3.beginLaunch_spec g (r.fetched s v) l
  obtain ⟨hmem', hgraphs, ⟨z, hz, htask, hrecords⟩, hdeque⟩ := State.rootLaunch_spec hlaunch (bits v 191 128) l
  have hltask : l.task = true := by
    obtain ⟨_, _, _, rfl⟩ := State.askLaunch_eq hask
    rfl
  exact ⟨_, exec_nodeTaskroot_of_asked h hnode htype hask hroot, fun a => by rw [hmem', hmem], _, z, _, hz, htask.trans hltask, hrecords, hdeque,
    hgraphs ▸ hgraph, rfl⟩
end

end Sys2Proof.Machine
end

section
/-! PROOF. WAITMEM (R221, R374). A node's registration shares no entry (`State.twin_of_graph`), and a new one takes no room (`State.admitPlace_insert`); so where its read is sure and does not satisfy it, it stands at its home with the graph waiting (`State.register_of_graph`). -/

namespace Sys2Proof.Machine

/-! ### A new entry -/

theorem Table.le_fresh {α : Type} (t : Table α) (n : Nat) : n ≤ t.fresh n := by
  induction t generalizing n with
  | nil => exact Nat.le_refl n
  | cons e t ih =>
    unfold Table.fresh
    split
    · exact Nat.le_refl n
    · split
      · exact (Nat.le_succ n).trans (ih (n + 1))
      · exact ih n

/-- What is put under a fresh key replaces nothing. -/
theorem Table.insert_fresh {α : Type} (t : Table α) (n : Nat) (v : α) :
    ∃ l r, t = l ++ r ∧ t.insert (t.fresh n) v = l ++ (t.fresh n, v) :: r := by
  induction t generalizing n with
  | nil => exact ⟨[], [], rfl, rfl⟩
  | cons e t ih =>
    obtain ⟨k, x⟩ := e
    by_cases hfront : n < k
    · have hfresh : Table.fresh ((k, x) :: t) n = n := by rw [Table.fresh, if_pos hfront]
      refine ⟨[], (k, x) :: t, rfl, ?_⟩
      rw [hfresh, Table.insert, if_pos hfront]
      rfl
    · obtain ⟨m, hm, hlater⟩ : ∃ m, k < m ∧ Table.fresh ((k, x) :: t) n = Table.fresh t m := by
        by_cases heq : n = k
        · exact ⟨n + 1, by omega, by rw [Table.fresh, if_neg hfront, if_pos heq]⟩
        · exact ⟨n, by omega, by rw [Table.fresh, if_neg hfront, if_neg heq]⟩
      have hbeyond := Table.le_fresh t m
      obtain ⟨l, r, ht, hinsert⟩ := ih m
      refine ⟨(k, x) :: l, r, by rw [ht]; rfl, ?_⟩
      rw [hlater, Table.insert, if_neg (by omega), if_neg (by omega), hinsert]
      rfl

/-- A registration that is on its way takes no room (R226). -/
theorem State.admitPlace_insert {s t : State} {r : Registration} (hflight : r.place = .inFlight) (hregs : t.regs = s.regs.insert (s.regs.fresh 0) r) (key : Nat) :
    t.admitPlace key = s.admitPlace key := by
  have hcount (slice : Nat) (p : RegPlace) (hp : p ≠ .inFlight) : t.regsAt slice p = s.regsAt slice p := by
    obtain ⟨front, back, hold, hnew⟩ := s.regs.insert_fresh 0 r
    rw [State.regsAt, State.regsAt, hregs, hnew, hold, List.filter_append, List.filter_append, List.filter_cons_of_neg]
    rw [hflight, decide_eq_false hp.symm]
    exact Bool.false_ne_true
  rw [State.admitPlace, State.admitPlace, hcount _ .table (by decide), hcount _ .spilled (by decide)]

/-! ### The registration of a graph -/

/-- Entries are shared in a warp alone (R225). -/
theorem State.twin_of_graph {s : State} {id g : Nat} {r : Registration} (howner : r.owner = .graph g) : s.twin id r = none := by
  refine Option.eq_none_iff_forall_ne_some.2 fun k hk => ?_
  obtain ⟨e, he, -⟩ := Option.map_eq_some_iff.1 hk
  have hpred := (List.mem_filter.1 (List.mem_of_mem_head? he)).2
  simp only [howner, Bool.and_false, Bool.false_and] at hpred
  cases hpred

/-- An arrival whose sure read does not satisfy it, with time and room, stands at its home. -/
theorem State.register_of_graph {s : State} {id g : Nat} {r : Registration} (hfind : s.regs.find? id = some r) (howner : r.owner = .graph g) (hsure : SureReg s r)
    (hholds : cmpHolds r.cmp r.w64 (natOfBytes (s.mem.bytes r.key r.size)) r.operand = false) (hzero : r.zero = false) (hroom : s.admitPlace r.key ≠ .held) :
    s.register id = { (s.recall r.party r.key r.size).recallExclusive (r.key / 128) with regs := s.regs.insert id { r with place := s.admitPlace r.key } } := by
  obtain ⟨p, heq, hp⟩ := State.register_of_room hfind (.inr hroom)
  have hregs : (s.recall r.party r.key r.size).regs = s.regs := (congrArg State.regs (s.recall_onlyHist r.party r.key r.size).rest :)
  rw [heq, hp (State.twin_of_graph howner), State.evalReg]
  simp only [State.readReg_of_sure hsure, hholds, Bool.false_eq_true, if_false, State.ownerEnds, howner, hzero, State.twin_of_graph howner, hregs]

/-! ### The node -/

/-- The registration of a WAITMEM. -/
def waitReg (s : State) (g asid v : Nat) (l : Leaf) (pa : Nat) : Registration :=
  { owner := .graph g, place := .inFlight, asid := asid, va := nodeAddr v, key := pa, okey := l.okey, w64 := nodeW64 v, cmp := bits v 194 192, operand := nodeData v,
    deadline := s.deadline (BitVec.ofNat 32 (bits v 255 224)), zero := decide (BitVec.ofNat 32 (bits v 255 224) = 0), lanes := 0 }

/-- The machine with the registration on its way and the graph waiting for it. -/
def State.awaiting (s : State) (g : Nat) (r : GraphRun) (v : Nat) (l : Leaf) (pa : Nat) : State :=
  { s with regs := s.regs.insert (s.regs.fresh 0) (waitReg s g r.asid v l pa), graphs := s.graphs.insert g { r with phase := .wait none } }

theorem exec_nodeWaitmem_of_reached {s s1 s2 : State} {g v pa : Nat} {r : GraphRun} {l : Leaf} (h : s.Fetches g r s1 v) (hnode : IsNode r v)
    (htype : nodeType v = 6) (htr : s1.engineTranslate .dev r.asid .load (bits v 127 64) = (s2, .ok (l, pa))) :
    exec (.nodeWaitmem g) s = .next ((s2.awaiting g (r.fetched s v) v l pa).register (s2.regs.fresh 0)) := by
  rw [exec_nodeWaitmem, execNodeWaitmem, onNode_of_node h hnode htype]
  simp only [GraphRun.fetched_asid, nodeAddr, htr]
  rfl

/-- A timeout of 32 bits is 0 only as a number that is 0. -/
theorem timeout_ne_zero {v : Nat} (h : bits v 255 224 ≠ 0) : decide (BitVec.ofNat 32 (bits v 255 224) = 0) = false := by
  refine decide_eq_false fun hzero => h ?_
  have hnum := congrArg BitVec.toNat hzero
  have hlt : bits v 255 224 < 2 ^ 32 := Nat.mod_lt _ (by decide)
  rwa [BitVec.toNat_ofNat, Nat.mod_eq_of_lt hlt] at hnum

/-- WAITMEM on a word that does not satisfy it (R374). -/
theorem completes_nodeWaitmem {s s1 s2 : State} {g v pa : Nat} {r : GraphRun} {l : Leaf} (h : s.Fetches g r s1 v) (hnode : IsNode r v)
    (htype : nodeType v = 6) (htr : s1.engineTranslate .dev r.asid .load (bits v 127 64) = (s2, .ok (l, pa))) (hroom : s2.admitPlace pa ≠ .held)
    (htime : bits v 255 224 ≠ 0) (hclean : CleanBytes s2 l.okey pa (if bit v 195 then 8 else 4)) (hallowed : s2.regionAllows (s2.worldOf r.asid) pa = true)
    (hsettled : ∀ y ∈ wordKeys pa (if bit v 195 then 8 else 4), offends .dev (s2.histOf y) = false)
    (hholds : cmpHolds (bits v 194 192) (bit v 195) (natOfBytes (s.mem.bytes pa (if bit v 195 then 8 else 4))) (bits v 191 128) = false) :
    Completes (.nodeWaitmem g) s fun t => SameMemory s t ∧ ∃ x id y, t.graphs.find? g = some x ∧ x.phase = .wait none ∧ t.regs.find? id = some y ∧
      y.owner = .graph g ∧ y.key = pa ∧ y.cmp = bits v 194 192 ∧ y.operand = bits v 191 128 := by
  have hlooks := s1.engineTranslate_onlyLooks .dev r.asid .load (bits v 127 64)
  rw [htr] at hlooks
  have hmem : s2.mem = s.mem := hlooks.mem.trans h.onlyReads.mem
  obtain ⟨w, hw⟩ : ∃ w : State, w = s2.awaiting g (r.fetched s v) v l pa := ⟨_, rfl⟩
  have hfind : w.regs.find? (s2.regs.fresh 0) = some (waitReg s2 g r.asid v l pa) := by
    rw [hw]
    exact Table.find?_insert_self _ _ _
  have hsure : SureReg w (waitReg s2 g r.asid v l pa) := by
    have hdenied : s2.deniedReg (waitReg s2 g r.asid v l pa) = false := by
      show (isPhys pa && !s2.regionAllows (s2.worldOf r.asid) pa) = false
      rw [hallowed, Bool.not_true, Bool.and_false]
    rw [hw]
    exact ⟨rfl, hclean, hdenied, hsettled⟩
  have hregister := State.register_of_graph hfind rfl hsure (by rw [hw]; exact hmem ▸ hholds) (timeout_ne_zero htime)
    (by rw [State.admitPlace_insert (s := s2) (r := waitReg s2 g r.asid v l pa) rfl (by rw [hw]; rfl)]; exact hroom)
  have hrecall := w.recall_onlyHist (waitReg s2 g r.asid v l pa).party (waitReg s2 g r.asid v l pa).key (waitReg s2 g r.asid v l pa).size
  have hexec := exec_nodeWaitmem_of_reached h hnode htype htr
  rw [← hw, hregister] at hexec
  refine ⟨_, hexec, fun a => ?_, { r.fetched s v with phase := .wait none }, s2.regs.fresh 0, _, ?_, rfl, Table.find?_insert_self _ _ _, rfl, rfl, rfl, rfl⟩
  · refine (congrArg (fun t : State => t.mem.byte a) hrecall.rest :).trans ?_
    rw [hw]
    exact congrArg (Memory.byte · a) hmem
  · refine (congrArg (fun t : State => t.graphs.find? g) hrecall.rest :).trans ?_
    rw [hw]
    exact Table.find?_insert_self _ _ _

end Sys2Proof.Machine
end

section
/-! PROOF. COND, LOOP, SIGNAL and COPY (R210, R374). COND and LOOP go by what they read (`State.runLoop_of_holds` and the two cases beside it); a SIGNAL's write at .sys leaves nothing that the device sees and the host does not (`State.homeWrite_reachesSys`); a COPY's run is one clean read and one write of its bytes (`State.copyRun_of_clean`). -/

namespace Sys2Proof.Machine

/-! ### COND -/

theorem State.onlyReads_of_nodeHolds {s t : State} {r : GraphRun} {o : Option Bool} (h : s.nodeHolds r = (t, o)) : s.OnlyReads t := by
  unfold State.nodeHolds at h
  dsimp only at h
  split at h
  · next hread => cases h; exact State.onlyReads_of_homeRead hread
  · next hread => cases h; exact State.onlyReads_of_homeRead hread

section
variable {s s1 : State} {g v : Nat} {r : GraphRun} (h : s.Fetches g r s1 v) (hnode : IsNode r v)
include h hnode

theorem exec_nodeCond_of_read (htype : nodeType v = 4) {s2 : State} {b : Bool} (hholds : s1.nodeHolds (r.fetched s v) = (s2, some b)) :
    exec (.nodeCond g) s = .next (if b then s2.goTo g (r.fetched s v) (bits v 63 48) r.node else s2.goOn g (r.fetched s v)) := by
  rw [exec_nodeCond, execNodeCond, onNode_of_node h hnode htype]
  cases b <;> simp only [hholds] <;> rfl

/-- COND goes to its target when its comparison holds, and else on (R374). -/
theorem completes_nodeCond (htype : nodeType v = 4) {s2 : State} {b : Bool} (hholds : s1.nodeHolds (r.fetched s v) = (s2, some b)) (hlast : r.node < 65535) :
    Completes (.nodeCond g) s fun t => SameMemory s t ∧ if b then t.CameTo g r (bits v 63 48) else t.CameTo g r (s2.successor (r.fetched s v)) := by
  have hreads := h.onlyReads.trans (State.onlyReads_of_nodeHolds hholds)
  have hexec := exec_nodeCond_of_read h hnode htype hholds
  cases b with
  | true =>
    have htarget : bits v 63 48 ≤ 65535 := Nat.lt_succ_iff.1 (Nat.mod_lt _ (by decide))
    obtain ⟨hmem, -, hcame⟩ := State.goTo_spec htarget s2 g (r.fetched s v)
    exact ⟨_, hexec, fun a => by rw [← hreads.mem, ← hmem]; rfl, hcame⟩
  | false =>
    obtain ⟨hmem, -, hcame⟩ := State.goOn_spec (r := r.fetched s v) hlast s2 g
    exact ⟨_, hexec, fun a => by rw [← hreads.mem, ← hmem]; rfl, hcame⟩

/-! ### LOOP -/

theorem exec_nodeLoop_of_body (htype : nodeType v = 5) (hfrom : r.from_ = some (r.node + bits v 47 32)) :
    exec (.nodeLoop g) s = .next (s1.runLoop g (r.fetched s v) v) := by
  rw [exec_nodeLoop, execNodeLoop, onNode_of_node h hnode htype]
  simp only [GraphRun.fetched_from, GraphRun.fetched_node, hfrom, nodeBody, if_true]
end

section
variable {s s1 : State} {r : GraphRun} {g v n : Nat} (hcnt : s.homeRead r.asid (bits v 319 256) 4 = (s1, some n))
include hcnt

/-- The loop has run MAX times. -/
theorem State.runLoop_of_spent (hspent : bits v 63 48 ≤ n) : s.runLoop g r v = s1.leaveLoop g r v := by
  unfold State.runLoop
  simp only [hcnt, nodeArgH, hspent, if_true]

/-- Its comparison does not hold. -/
theorem State.runLoop_of_fails (hmore : n < bits v 63 48) {s2 : State} (hholds : s1.nodeHolds r = (s2, some false)) : s.runLoop g r v = s2.leaveLoop g r v := by
  unfold State.runLoop
  simp only [hcnt, nodeArgH, if_neg (Nat.not_le.2 hmore), hholds]

/-- It runs once more, and is counted. -/
theorem State.runLoop_of_holds (hmore : n < bits v 63 48) {s2 s3 : State} (hholds : s1.nodeHolds r = (s2, some true))
    (hcount : s2.cpWrite r.asid .dev (bits v 319 256) (bytesOfNat 4 (n + 1)) = (s3, true)) : s.runLoop g r v = s3.goTo g r (r.node + 1) r.node := by
  unfold State.runLoop
  simp only [hcnt, nodeArgH, if_neg (Nat.not_le.2 hmore), hholds, hcount]
end

section
variable {s s1 s2 : State} {g v n : Nat} {r : GraphRun} (h : s.Fetches g r s1 v) (hnode : IsNode r v) (htype : nodeType v = 5)
  (hfrom : r.from_ = some (r.node + bits v 47 32)) (hcnt : s1.homeRead r.asid (bits v 319 256) 4 = (s2, some n))
include h hnode htype hfrom hcnt

/-- LOOP goes into its body again, and counts (R374). -/
theorem completes_nodeLoop_of_holds (hmore : n < bits v 63 48) {s3 s4 : State} (hholds : s2.nodeHolds (r.fetched s v) = (s3, some true))
    (hcount : s3.cpWrite r.asid .dev (bits v 319 256) (bytesOfNat 4 (n + 1)) = (s4, true)) :
    Completes (.nodeLoop g) s fun t => SameMemory s4 t ∧ t.CameTo g r (r.node + 1) := by
  have hbody : r.node + 1 ≤ 65535 := by
    have hranges := hnode.2
    simp only [nodeRanges, htype, Bool.and_eq_true, decide_eq_true_eq] at hranges
    omega
  obtain ⟨hmem, -, hcame⟩ := State.goTo_spec hbody s4 g (r.fetched s v)
  refine ⟨_, exec_nodeLoop_of_body h hnode htype hfrom, ?_⟩
  rw [State.runLoop_of_holds (r := r.fetched s v) hcnt hmore hholds hcount]
  exact ⟨fun a => by rw [← hmem]; rfl, hcame⟩

/-- LOOP goes on past its body, once what it read says so. -/
theorem completes_nodeLoop_of_leaves {u : State} (hleaves : s1.runLoop g (r.fetched s v) v = u.leaveLoop g (r.fetched s v) v) (hreads : s2.OnlyReads u)
    (halone : u.loopsEnding (r.fetched s v) (r.node + bits v 47 32) r.node = []) (hlast : r.node + bits v 47 32 < 65535) :
    Completes (.nodeLoop g) s fun t => SameMemory s t ∧ t.CameTo g r (r.node + bits v 47 32 + 1) := by
  obtain ⟨hmem, -, hcame⟩ := State.goTo_spec (Nat.succ_le_of_lt hlast) u g (r.fetched s v)
  refine ⟨_, exec_nodeLoop_of_body h hnode htype hfrom, ?_⟩
  rw [hleaves, State.leaveLoop_of_alone (r := r.fetched s v) halone]
  refine ⟨fun a => ?_, hcame⟩
  rw [← (h.onlyReads.trans ((State.onlyReads_of_homeRead hcnt).trans hreads)).mem, ← hmem]
  rfl
end

/-! ### What the host sees (R210) -/

/-- A write that is published on the device is published at .sys. -/
def HWrite.ReachesSys (h : HWrite) : Prop := h.pubDev.isSome = true → h.pubSys.isSome = true

theorem HWrite.reachesSys_pubAt (h : HWrite) (pos : Nat) : (h.pubAt .sys pos).ReachesSys := fun _ => rfl

theorem State.publishSys_reachesSys (s : State) : ∀ x ∈ s.publishSys.hist, x.ReachesSys := by
  intro x hx
  obtain ⟨y, -, rfl⟩ := List.mem_map.1 hx
  split
  · exact y.reachesSys_pubAt _
  · next hdev => exact fun h => absurd h hdev

/-- Publication at .sys keeps it so. -/
theorem reachesSys_publishUp {l : List HWrite} (hl : ∀ x ∈ l, x.ReachesSys) (pos : Nat) (seed : HWrite → Bool) (later : List (Nat × Option Nat)) (keys : List Nat) :
    ∀ x ∈ publishUp .sys pos seed later keys l, x.ReachesSys := by
  induction l generalizing later keys with
  | nil => exact fun x hx => by cases hx
  | cons h l ih =>
    have htail := fun later keys => ih (fun x hx => hl x (List.mem_cons_of_mem h hx)) later keys
    unfold publishUp
    split
    · exact List.forall_mem_cons.2 ⟨h.reachesSys_pubAt pos, htail _ _⟩
    · exact List.forall_mem_cons.2 ⟨hl h List.mem_cons_self, htail _ _⟩

theorem reachesSys_reviseNewest {l : List HWrite} (hl : ∀ x ∈ l, x.ReachesSys) (k : Nat) (v : Word) : ∀ x ∈ reviseNewest k v l, x.ReachesSys := by
  induction l with
  | nil => exact fun x hx => by cases hx
  | cons h l ih =>
    obtain ⟨hhead, htail⟩ := List.forall_mem_cons.1 hl
    unfold reviseNewest
    split
    · exact List.forall_mem_cons.2 ⟨hhead, htail⟩
    · exact List.forall_mem_cons.2 ⟨hhead, ih htail⟩

theorem State.scrub_reachesSys {s : State} (hs : ∀ x ∈ s.hist, x.ReachesSys) (k : Nat) : ∀ x ∈ (s.scrub k).hist, x.ReachesSys := by
  unfold State.scrub
  dsimp only
  split
  · exact hs
  · exact reachesSys_reviseNewest hs k _

/-- A write of whole words fills none in part. -/
theorem partWords_of_words {k n : Nat} (hk : k % 4 = 0) (hn : n % 4 = 0) : partWords k n = [] := by
  refine List.filter_eq_nil_iff.2 fun x hx => ?_
  rcases Nat.eq_zero_or_pos n with hzero | hpos
  · rw [hzero] at hx
    cases hx
  · have hbounds := (mem_wordKeys hpos).1 hx
    rw [Bool.or_eq_true, decide_eq_true_eq, decide_eq_true_eq]
    omega

theorem State.reevaluate_hist (s : State) (k n : Nat) : (s.reevaluate k n).hist = s.hist := (congrArg State.hist (s.reevaluate_onlyEnds k n).rest :)

/-- A write of whole words at .sys, under the key in force, recalls nothing, and is published at .sys itself. -/
theorem State.homeWrite_reachesSys {s : State} {okey k : Nat} {data : List Byte} (hs : ∀ x ∈ s.hist, x.ReachesSys) (hkey : KeyInForce s okey k data.length)
    (hk : k % 4 = 0) (hn : data.length % 4 = 0) (b : Writer) (atomic : Option Scope) : ∀ x ∈ (s.homeWrite b .sys atomic okey k data).hist, x.ReachesSys := by
  have hready : ∀ x ∈ (s.readied b.party okey k data.length).hist, x.ReachesSys := by
    rw [State.readied, State.rekey_of_keyInForce hkey, partWords_of_words hk hn]
    exact List.foldlRecOn (motive := fun t : State => ∀ x ∈ t.hist, x.ReachesSys) _ _ hs fun t ht x _ => State.scrub_reachesSys ht x
  have hscope : (if s.pegged b k data.length then Scope.max .sys .dev else .sys) = Scope.sys := by split <;> rfl
  unfold State.homeWrite
  split
  · exact hs
  · dsimp only
    rw [hscope]
    intro x hx
    rw [State.reevaluate_hist] at hx
    rcases List.mem_append.1 hx with hnew | hold
    · obtain ⟨y, -, rfl⟩ := List.mem_map.1 hnew
      exact HWrite.reachesSys_pubAt _ _
    · exact reachesSys_publishUp hready _ _ _ _ x hold

end Sys2Proof.Machine
end

section
/-! PROOF. SIGNAL, COPY and END, and what each node does (R210, R374, R375). -/

namespace Sys2Proof.Machine

/-! ### SIGNAL -/

section
variable {s s1 s2 : State} {g v pa : Nat} {r : GraphRun} {l : Leaf} (h : s.Fetches g r s1 v) (hnode : IsNode r v) (htype : nodeType v = 7)
  (hstores : bit v 193 = false) (htr : s1.engineTranslate .dev r.asid .store (bits v 127 64) = (s2, .ok (l, pa)))
include h hnode htype hstores htr

theorem exec_nodeSignal_of_stores : exec (.nodeSignal g) s =
    .next ((s2.publishSys.homeWrite { wid := none, core := none } .sys none l.okey pa (bytesOfNat (if bit v 192 then 8 else 4) (bits v 191 128))).goOn g (r.fetched s v)) := by
  rw [exec_nodeSignal, execNodeSignal, onNode_of_node h hnode htype]
  simp only [GraphRun.fetched_asid, nodeAddr, nodeData, hstores, Bool.false_eq_true, if_false, htr]

/-- SIGNAL stores VALUE, after all that precedes it (R210). -/
theorem completes_nodeSignal (hlast : r.node < 65535) (hkey : KeyInForce s2 l.okey pa (if bit v 192 then 8 else 4)) (hword : pa % 4 = 0) :
    Completes (.nodeSignal g) s fun t => Stored s t pa (bytesOfNat (if bit v 192 then 8 else 4) (bits v 191 128)) ∧
      ∀ x ∈ t.hist, x.pubDev.isSome = true → x.pubSys.isSome = true := by
  have hlooks := s1.engineTranslate_onlyLooks .dev r.asid .store (bits v 127 64)
  rw [htr] at hlooks
  have hmem : s2.publishSys.mem = s.mem := hlooks.mem.trans h.onlyReads.mem
  have hexec := exec_nodeSignal_of_stores h hnode htype hstores htr
  obtain ⟨data, hdata⟩ : ∃ data, data = bytesOfNat (if bit v 192 then 8 else 4) (bits v 191 128) := ⟨_, rfl⟩
  have hlength : data.length = if bit v 192 then 8 else 4 := by rw [hdata, length_bytesOfNat]
  have hwords : data.length % 4 = 0 := by rw [hlength]; split <;> rfl
  have hsome : data ≠ [] := List.ne_nil_of_length_pos (by rw [hlength]; split <;> decide)
  have hforce : KeyInForce s2.publishSys l.okey pa data.length := by
    rw [hlength]
    exact hkey.congr rfl rfl rfl
  rw [← hdata] at hexec ⊢
  have hstored := (State.homeWrite_places hsome hforce { wid := none, core := none } .sys none).stored_of_words hword hwords
  have hreaches := State.homeWrite_reachesSys s2.publishSys_reachesSys hforce hword hwords { wid := none, core := none } none
  generalize s2.publishSys.homeWrite { wid := none, core := none } .sys none l.okey pa data = u at hexec hstored hreaches
  obtain ⟨hsame, hhist, -⟩ := State.goOn_spec (r := r.fetched s v) hlast u g
  refine ⟨_, hexec, fun a => ?_, ?_⟩
  · have hbyte := hstored a
    rw [hmem] at hbyte
    rw [hsame, hbyte]
  · rw [hhist]
    exact hreaches
end

/-! ### COPY (R374) -/

/-- Source and destination of a COPY do not overlap: nothing is undefined after it. -/
theorem State.spoilOverlap_of_apart {src dst n : Nat} (h : src + n ≤ dst ∨ dst + n ≤ src) (s : State) (asid : Nat) : s.spoilOverlap asid src dst n = s := by
  have hnone : ¬ max src dst < min (src + n) (dst + n) := by omega
  unfold State.spoilOverlap
  simp only [if_neg hnone]

theorem State.endCopy_of_apart {r : GraphRun} (h : nodeAddr r.held + bits r.held 255 192 ≤ nodeData r.held ∨ nodeData r.held + bits r.held 255 192 ≤ nodeAddr r.held)
    (s : State) (g : Nat) : s.endCopy g r false = s.goOn g r := by
  unfold State.endCopy
  simp only [State.spoilOverlap_of_apart h, Bool.false_eq_true, if_false]

/-- A run that can only read as memory holds it moves its bytes to their place. -/
theorem State.copyRun_of_clean {s s1 s2 : State} {r : GraphRun} {since off n pa pa2 : Nat} {l l2 : Leaf} (hn : 0 < n)
    (hsrc : s.engineTranslate .dev r.asid .load (nodeAddr r.held + off) = (s1, .ok (l, pa)))
    (hdst : s1.engineTranslate .dev r.asid .store (nodeData r.held + off) = (s2, .ok (l2, pa2)))
    (hclean : EngineClean s2 .dev { at_ := since, fresh := 0, token := none } l.okey pa n) (hkey : KeyInForce s2 l2.okey pa2 n) :
    ∃ t, s.copyRun r since off n = (t, true) ∧ StoredAmong s t pa2 (s.mem.bytes pa n) := by
  have hlooks : s.OnlyLooks s2 := by
    have hsrcLooks := s.engineTranslate_onlyLooks .dev r.asid .load (nodeAddr r.held + off)
    have hdstLooks := s1.engineTranslate_onlyLooks .dev r.asid .store (nodeData r.held + off)
    rw [hsrc] at hsrcLooks
    rw [hdst] at hdstLooks
    exact hsrcLooks.trans hdstLooks
  obtain ⟨u, hu⟩ : ∃ u : State, u = (s2.fillSpan l pa n).fillSpan l2 pa2 n := ⟨_, rfl⟩
  have hlines : s2.OnlyLines u := by
    rw [hu]
    exact (s2.fillSpan_onlyLines l pa n).trans (State.fillSpan_onlyLines _ l2 pa2 n)
  have hclean' : EngineClean u .dev { at_ := since, fresh := 0, token := none } l.okey pa n :=
    (congrArg (fun t : State => EngineClean t .dev { at_ := since, fresh := 0, token := none } l.okey pa n) hlines.rest :).mpr hclean
  have hbytes : u.engineBytes .dev { at_ := since, fresh := 0, token := none } [43, off] l.okey pa n = s.mem.bytes pa n := by
    rw [State.engineBytes_of_clean hclean', hlines.onlyLooks.mem, hlooks.mem]
  have hrun : s.copyRun r since off n = (u.engineWrite none l2.okey pa2 (s.mem.bytes pa n), true) := by
    unfold State.copyRun
    simp only [hsrc, hdst, State.touch_of_settled fun y hy => (hclean.2 y hy).1, ← hu, hbytes, State.countDrop, State.struck_of_clean hclean'.1,
      Bool.false_eq_true, if_false]
  have hsome : s.mem.bytes pa n ≠ [] := List.ne_nil_of_length_pos (by rw [Memory.length_bytes]; exact hn)
  have hforce : KeyInForce u l2.okey pa2 (s.mem.bytes pa n).length := by
    rw [Memory.length_bytes]
    exact hkey.congr (congrArg State.byteKeys hlines.rest :) (congrArg State.keys hlines.rest :) (congrArg State.keyRing hlines.rest :)
  exact ⟨_, hrun, (hlooks.trans hlines.onlyLooks).storedAmong (State.engineWrite_places hsome hforce none).stored⟩

section
variable {s : State} {g since : Nat} {r : GraphRun} (hfind : s.graphs.find? g = some r)
include hfind

theorem exec_copyNodeComplete_of_done (hphase : r.phase = .copy [] since) : exec (.copyNodeComplete g) s = .next (s.endCopy g r false) := by
  rw [exec_copyNodeComplete, execCopyNodeComplete]
  simp only [hfind, hphase]

/-- With one byte left there is one run, of that byte. -/
theorem exec_copyNodeComplete_of_byte {off : Nat} {t : State} (hphase : r.phase = .copy [(off, off + 1)] since) (hrun : s.copyRun r since off 1 = (t, true)) :
    exec (.copyNodeComplete g) s = .next (t.endCopy g r false) := by
  have hpick (about : List Nat) {n : Nat} (hn : n ≤ 1) : s.pick about n = 0 := by rw [State.pick, if_pos hn]
  have hlimit : copyLimit r off (off + 1 - off) ≤ 1 := (Nat.min_le_left _ _).trans (by omega)
  have hone : off + 1 - off ≤ 1 := by omega
  rw [exec_copyNodeComplete, execCopyNodeComplete]
  simp only [hfind, hphase, State.choose, hpick _ hone, Nat.add_zero, hpick _ hlimit, hrun]
  simp
end

/-! ### What each node does -/

/-- Settles O50: a word that is a node by `onNode_of_node` and the nodes' own lemmas, one that is none by `onNode_of_bad`; a COPY's last run by `State.copyRun_of_clean`. -/
theorem graphs : Obligations.Graphs := by
  refine ⟨fun s g r s1 v hfind hphase hruns hread => ?_, fun s g r hfind => ?_⟩
  · intro r1 good at_ on
    have h : s.Fetches g r s1 v := ⟨hfind, hphase, hruns, hread⟩
    refine ⟨?kernel, ?taskroot, ?copy, ?cond, ?again, ?spent, ?fails, ?waitmem, ?signal, ?ends, ?bad⟩
    case kernel => exact fun hgood htype s2 l hask => completes_nodeKernel h hgood htype hask
    case taskroot => exact fun hgood htype s2 l s3 hask hroot => completes_nodeTaskroot h hgood htype hask hroot
    case copy =>
      intro hgood htype
      exact ⟨_, exec_nodeCopy.trans (onNode_of_node h hgood htype _), h.onlyReads.sameMemory, _, Table.find?_insert_self _ _ _, rfl, rfl⟩
    case cond => exact fun hgood htype s2 b hholds hlast => completes_nodeCond h hgood htype hholds hlast
    case again =>
      exact fun hgood htype hfrom s2 n s3 s4 hcnt hmore hholds hcount => completes_nodeLoop_of_holds h hgood htype hfrom hcnt hmore hholds hcount
    case spent =>
      intro hgood htype hfrom s2 n hcnt hspent halone hlast
      exact completes_nodeLoop_of_leaves h hgood htype hfrom hcnt (State.runLoop_of_spent (r := r.fetched s v) hcnt hspent) (.refl s2) halone hlast
    case fails =>
      intro hgood htype hfrom s2 n s3 hcnt hmore hholds halone hlast
      exact completes_nodeLoop_of_leaves h hgood htype hfrom hcnt (State.runLoop_of_fails (r := r.fetched s v) hcnt hmore hholds)
        (State.onlyReads_of_nodeHolds hholds) halone hlast
    case waitmem =>
      exact fun hgood htype s2 l pa htr hroom htime hclean hallowed hsettled hholds =>
        completes_nodeWaitmem h hgood htype htr hroom htime hclean hallowed hsettled hholds
    case signal => exact fun hgood htype hstores hlast s2 l pa htr hkey hword => completes_nodeSignal h hgood htype hstores htr hlast hkey hword
    case ends =>
      intro hgood htype
      exact ⟨_, exec_nodeEnd.trans (onNode_of_node h hgood htype _), State.find?_endGraph s1 g _⟩
    case bad =>
      intro hbad i hi
      have hends (type : Nat) (body : State → GraphRun → Nat → State) (hexec : exec i s = onNode type g s body) : Completes i s fun t => t.graphs.find? g = none :=
        ⟨_, hexec.trans (onNode_of_bad h hbad type body), State.find?_endGraph s1 g _⟩
      simp only [List.mem_cons, List.not_mem_nil, or_false] at hi
      rcases hi with rfl | rfl | rfl | rfl | rfl | rfl | rfl | rfl
      · exact hends 0 _ exec_nodeEnd
      · exact hends 1 _ exec_nodeKernel
      · exact hends 2 _ exec_nodeTaskroot
      · exact hends 3 _ exec_nodeCopy
      · exact hends 4 _ exec_nodeCond
      · exact hends 5 _ exec_nodeLoop
      · exact hends 6 _ exec_nodeWaitmem
      · exact hends 7 _ exec_nodeSignal
  · intro src dst n apart
    refine ⟨fun since hphase hapart hloops hlast => ?_, fun since off s1 l pa s2 l2 pa2 hphase hapart hlast hsrc hdst hclean hkey => ?_⟩
    · obtain ⟨hmem, -, x, hx, hnode, hat, -, -⟩ := State.goOn_spec hlast s g
      refine ⟨_, (exec_copyNodeComplete_of_done hfind hphase).trans (congrArg _ (State.endCopy_of_apart hapart s g)), fun a => by rw [hmem], x, hx, ?_, hat⟩
      rw [hnode, State.successor, hloops]
    · obtain ⟨t, hrun, hstored⟩ := State.copyRun_of_clean (by decide) hsrc hdst hclean hkey
      obtain ⟨hmem, -, -⟩ := State.goOn_spec hlast t g
      refine ⟨_, (exec_copyNodeComplete_of_byte hfind hphase hrun).trans (congrArg _ (State.endCopy_of_apart hapart t g)), fun a => ?_⟩
      rw [hmem]
      exact hstored a

end Sys2Proof.Machine
end
